-- ==== Sys2Proof/Word.lean ====
section
/-! DEFINITION. The bit-vector types of the FH210 and their plainest arithmetic. -/

namespace Sys2Proof

/-- One byte of a packet or of a DRAM cell. -/
abbrev Byte := BitVec 8

/-- A block of 32 bytes (00 Units). Byte `k` of the block, at the block's lowest address plus `k`
(file 11), stands at the bits of weight `2^(8k)` and up. -/
abbrev Block := BitVec 256

/-- One 64-bit word of a block (08, the channel carries 64-bit words with 8 check bits). -/
abbrev Word64 := BitVec 64

/-- The bits in error of one stored word of 72 bits: bits 0 to 63 stand for the data bits,
bits 64 to 71 for the check bits (08 section 8.6). -/
abbrev ErrMask := BitVec 72

/-- A byte mask: it selects byte `k` of its block when its bit of weight `2^k` is one (file 11). -/
abbrev Mask := BitVec 32

/-- A link address in one partner's space (00 Units). -/
abbrev LinkAddr := BitVec 40

/-- A sequence number 0..63, which wraps (10 R169). -/
abbrev Seq := BitVec 6

/-- The bytes of a block, lowest address first. -/
def blockBytes (b : Block) : List Byte :=
  (List.range 32).map fun k => b.extractLsb' (8 * k) 8

/-- A block from its bytes, lowest address first; missing bytes are 0 and bytes after the 32nd are
not read. -/
def blockOfBytes (bs : List Byte) : Block :=
  BitVec.ofNat 256 ((bs.take 32).foldr (fun b acc => b.toNat + 256 * acc) 0)

/-- Word `i` of a block, in address order (08 R138). -/
def blockWord (b : Block) (i : Nat) : Word64 := b.extractLsb' (64 * i) 64

/-- The block of four words in address order. -/
def blockOfWords (w0 w1 w2 w3 : Word64) : Block := w3 ++ w2 ++ w1 ++ w0

/-- The number of one bits of a vector. -/
def popCount {n : Nat} (x : BitVec n) : Nat :=
  ((List.range n).filter fun i => x.getLsbD i).length

end Sys2Proof
end

