-- ==== Sys2Proof/Syntax.lean ====
section
/-! DEFINITION. The commands of the FH210: one constructor for each row of spec/opcode_table.json.

A packet of a partner carries the link it arrives on, the sequence byte of its frame (10 R169;
link-level packets have none) and the fields of its body as file 11 lays them out. A timer, a
sequence or a DRAM step carries what tells it from its fellows (a link, a bank position, a rank). -/

namespace Sys2Proof

/-- One of the two links (00 Links). -/
inductive Link where
  | a
  | b
  deriving DecidableEq, Repr, Inhabited

/-- What a precharge that completes was addressed to: one bank by its position (03 R48), or the
PRECHARGE-ALLs of the start sequence (08 R132 step 2). -/
inductive PrechargeTarget where
  | bank (pos : Nat)
  | start
  deriving DecidableEq, Repr

/-- Why a packet is bad for the receiver (10 R174): its CRC fails, or it is a good sequenced packet
that carries this sequence byte, which is not the expected one. -/
inductive BadPacket where
  | crc
  | sequence (seq : Byte)
  deriving DecidableEq, Repr

/-- The commands, in the order of the table. -/
inductive Instr where
  | coldReset
  | read (x : Link) (seq : Byte) (tag count maskCount : Byte) (addr : LinkAddr)
  | write (x : Link) (seq : Byte) (tag count : Byte) (addr : LinkAddr) (masks : List Mask)
      (data : List Block)
  | lockRead (x : Link) (seq : Byte) (tag count maskCount : Byte) (addr : LinkAddr)
  | lockWrite (x : Link) (seq : Byte) (tag count : Byte) (addr : LinkAddr) (masks : List Mask)
      (data : List Block)
  | lockDrop (x : Link) (seq : Byte) (tag : Byte) (unused : BitVec 16) (addr : LinkAddr)
  | fence (x : Link) (seq : Byte) (tag : Byte)
  | intakeStep (x : Link)
  | issue
  | activateSent (pos : Nat)
  | activationComplete (pos : Nat)
  | readColumnSent (pos : Nat)
  | readColumnDataArrival (e0 e1 e2 e3 : ErrMask)
  | writeColumnSent (pos : Nat)
  | prechargeSent (pos : Nat)
  | prechargeComplete (target : PrechargeTarget)
  | rowIdleTimerExpiry (pos : Nat)
  | refreshCommandSent (rank : Nat)
  | refreshComplete (rank : Nat)
  | refreshTimerExpiry
  | cueMonitorExpiry
  | refreshCue (x : Link) (seq : Byte)
  | noticeAck (x : Link) (seq : Byte) (number : Byte)
  | noticeTimerExpiry (y : Link) (number : Byte)
  | lockHoldExpiry (block : Nat)
  | quantumTimerExpiry
  | idleTimerExpiry
  | commitTimerExpiry
  | leaseTimerExpiry
  | mgmtRead (x : Link) (seq : Byte) (record field : Byte)
  | mgmtWrite (x : Link) (seq : Byte) (record field : Byte) (value : BitVec 32)
  | writeTenureMode (x : Link) (seq : Byte) (value : BitVec 32)
  | writeRefreshMode (x : Link) (seq : Byte) (value : BitVec 32)
  | writeForceLevel (x : Link) (seq : Byte) (value : BitVec 32)
  | writeCueLink (x : Link) (seq : Byte) (value : BitVec 32)
  | writeFilterEnable (x : Link) (seq : Byte) (value : BitVec 32)
  | writeCreditLimit (x : Link) (seq : Byte) (limited : Link) (value : BitVec 32)
  | writeAlertLink (x : Link) (seq : Byte) (value : BitVec 32)
  | writeLease (x : Link) (seq : Byte) (value : BitVec 32)
  | writeCorrThreshold (x : Link) (seq : Byte) (value : BitVec 32)
  | writeOpenLimit (x : Link) (seq : Byte) (value : BitVec 32)
  | tableRead (x : Link) (seq : Byte) (set table index : Byte)
  | tableWrite (x : Link) (seq : Byte) (table index : Byte) (entry : BitVec 96)
  | tableRevert (x : Link) (seq : Byte)
  | tableCommit (x : Link) (seq : Byte)
  | claim (x : Link) (seq : Byte)
  | release (x : Link) (seq : Byte)
  | channelStart (x : Link) (seq : Byte)
  | startTimerExpiry
  | startRefreshRoundComplete
  | startSequenceEnd
  | channelQuiesce (x : Link) (seq : Byte)
  | channelResume (x : Link) (seq : Byte)
  | resumeTimerExpiry
  | resumeSequenceEnd
  | hubReset (x : Link) (seq : Byte)
  | resetPoint
  | sendResponse (x : Link)
  | sendMgmtReply (x : Link)
  | sendNotice (x : Link)
  | sendAlert
  | sendCredit (x : Link)
  | restartingCredit (x : Link)
  | downTimerExpiry (x : Link)
  | sendFirstTrain (x : Link)
  | trainTimerExpiry (x : Link)
  | train (x : Link) (requestGrant mgmtGrant seen : Byte)
  | linkAck (x : Link) (acked mark : Byte)
  | retryReq (x : Link) (wanted mark : Byte)
  | linkReset (x : Link)
  | receiveBadPacket (x : Link) (why : BadPacket)
  | receiveUnknownPacket (x : Link) (seq : Option Byte)
  | ackTimerExpiry (x : Link)
  | retryTimerExpiry (x : Link)
  | replayTimerExpiry (x : Link)
  deriving DecidableEq, Repr

end Sys2Proof
end

