-- ==== Sys2Proof/WellFormed.lean ====
section
/-! DEFINITION. What the spec requires of a command's operands before the hub looks at them: ranges
of positions, ranks, blocks and lines, lengths a frame can carry, and that a MGMT_WRITE row names a
field without behaviour of its own. A request whose FIELDS are wrong (a count of 9, an unused byte
that is not 0) is well formed: the hub answers it MALFORMED. -/

namespace Sys2Proof

/-- A field of a settings record whose write has behaviour of its own and so a row of its own in the
table: TENURE MODE, OPEN_LIMIT, REFRESH MODE, FORCE_LEVEL, CUE_LINK, FILTER_ENABLE, CORR_THRESHOLD,
LEASE, ALERT_LINK and the two CREDIT_LIMITs, by record and field number (11 section 11.10). -/
def ownRow (record field : Byte) : Bool :=
  [(0x01, 0), (0x02, 0), (0x03, 0), (0x04, 1), (0x05, 0), (0x05, 3), (0x05, 4), (0x06, 2),
    (0x09, 10), (0x0A, 1), (0x0A, 2)].contains (record.toNat, field.toNat)

/-- The body length of a WRITE or LOCK-WRITE with these masks and blocks fits the frame's two length
bytes and its mask count byte (11 sections 11.1, 11.3). -/
def writeFits (masks : List Mask) (data : List Block) : Bool :=
  masks.length < 256 && 8 + 4 * masks.length + 32 * data.length < 65536

/-- The check of one command. -/
def Instr.wellFormed : Instr → Bool
  | .write _ _ _ _ _ masks data => writeFits masks data
  | .lockWrite _ _ _ _ _ masks data => writeFits masks data
  | .activateSent pos => pos < 16
  | .activationComplete pos => pos < 16
  | .readColumnSent pos => pos < 16
  | .writeColumnSent pos => pos < 16
  | .prechargeSent pos => pos < 16
  | .prechargeComplete (.bank pos) => pos < 16
  | .prechargeComplete .start => true
  | .rowIdleTimerExpiry pos => pos < 16
  | .refreshCommandSent rank => rank < 2
  | .refreshComplete rank => rank < 2
  | .lockHoldExpiry block => block % 32 = 0 && block < 2 ^ 30
  | .mgmtWrite _ _ record field _ => !ownRow record field
  | .coldReset => true
  | .read _ _ _ _ _ _ => true
  | .lockRead _ _ _ _ _ _ => true
  | .lockDrop _ _ _ _ _ => true
  | .fence _ _ _ => true
  | .intakeStep _ => true
  | .issue => true
  | .readColumnDataArrival _ _ _ _ => true
  | .refreshTimerExpiry => true
  | .cueMonitorExpiry => true
  | .refreshCue _ _ => true
  | .noticeAck _ _ _ => true
  | .noticeTimerExpiry _ _ => true
  | .quantumTimerExpiry => true
  | .idleTimerExpiry => true
  | .commitTimerExpiry => true
  | .leaseTimerExpiry => true
  | .mgmtRead _ _ _ _ => true
  | .writeTenureMode _ _ _ => true
  | .writeRefreshMode _ _ _ => true
  | .writeForceLevel _ _ _ => true
  | .writeCueLink _ _ _ => true
  | .writeFilterEnable _ _ _ => true
  | .writeCreditLimit _ _ _ _ => true
  | .writeAlertLink _ _ _ => true
  | .writeLease _ _ _ => true
  | .writeCorrThreshold _ _ _ => true
  | .writeOpenLimit _ _ _ => true
  | .tableRead _ _ _ _ _ => true
  | .tableWrite _ _ _ _ _ => true
  | .tableRevert _ _ => true
  | .tableCommit _ _ => true
  | .claim _ _ => true
  | .release _ _ => true
  | .channelStart _ _ => true
  | .startTimerExpiry => true
  | .startRefreshRoundComplete => true
  | .startSequenceEnd => true
  | .channelQuiesce _ _ => true
  | .channelResume _ _ => true
  | .resumeTimerExpiry => true
  | .resumeSequenceEnd => true
  | .hubReset _ _ => true
  | .resetPoint => true
  | .sendResponse _ => true
  | .sendMgmtReply _ => true
  | .sendNotice _ => true
  | .sendAlert => true
  | .sendCredit _ => true
  | .restartingCredit _ => true
  | .downTimerExpiry _ => true
  | .sendFirstTrain _ => true
  | .trainTimerExpiry _ => true
  | .train _ _ _ _ => true
  | .linkAck _ _ _ => true
  | .retryReq _ _ _ => true
  | .linkReset _ => true
  | .receiveBadPacket _ _ => true
  | .receiveUnknownPacket _ _ => true
  | .ackTimerExpiry _ => true
  | .retryTimerExpiry _ => true
  | .replayTimerExpiry _ => true

end Sys2Proof
end

