-- ==== Sys2Proof/Decode.lean ====
section
/-! DEFINITION. From the bytes of a partner's frame to the command the Link Controller takes, and
back (file 11, R169, R183).

The opcode table gives its rows no bits, so `decodeTableWord` answers none. The frames of file 11 are
the encoding the spec does give: `commandOfFrame` is total on any bytes, and `frameOfCommand` writes
the frame of a packet command from the same layouts. Neither is used by the step. -/

namespace Sys2Proof

/-- The opcode table gives no row any bits: no word spells a command. -/
def decodeTableWord (_nbits _w : Nat) : Option Instr := none

/-- One step of the CRC: generator x^16 + x^12 + x^5 + 1, bits taken most significant first
(11 section 11.1). -/
def crcShift (crc : BitVec 16) : BitVec 16 :=
  if crc.msb then (crc <<< 1) ^^^ 0x1021#16 else crc <<< 1

/-- The CRC after one more byte. -/
def crcByte (crc : BitVec 16) (b : Byte) : BitVec 16 :=
  Nat.repeat crcShift 8 (crc ^^^ (b.setWidth 16 <<< 8))

/-- The CRC of a run of bytes: initial value 0xFFFF, result not inverted (11 section 11.1). -/
def crc16 (bytes : List Byte) : BitVec 16 := bytes.foldl crcByte 0xFFFF#16

/-- The number a run of bytes spells, most significant byte first (file 11). -/
def bigEndian (bytes : List Byte) : Nat := bytes.foldl (fun n b => 256 * n + b.toNat) 0

/-- `len` bytes of a number, most significant byte first. -/
def bytesBE : Nat → Nat → List Byte
  | 0, _ => []
  | len + 1, n => BitVec.ofNat 8 (n / 256 ^ len) :: bytesBE len n

/-- The runs of `size` bytes that a body holds one after another, at most `count` of them. -/
def chunks (size : Nat) : Nat → List Byte → List (List Byte)
  | 0, _ => []
  | count + 1, bytes => bytes.take size :: chunks size count (bytes.drop size)

/-- Byte `i` of a body; 0 where the body is shorter. -/
def byteAt (body : List Byte) (i : Nat) : Byte := body.getD i 0

/-- The link address at bytes `i` to `i + 4` of a body. -/
def addrAt (body : List Byte) (i : Nat) : LinkAddr :=
  BitVec.ofNat 40 (bigEndian ((body.drop i).take 5))

/-- A MGMT-WRITE packet as the row of the table that stands for it: the rows of fields with behaviour
of their own, and MGMT_WRITE for every other record and field. -/
def commandOfWrite (x : Link) (seq record field : Byte) (value : BitVec 32) : Instr :=
  match record.toNat, field.toNat with
  | 0x01, 0 => .writeCreditLimit x seq .a value
  | 0x02, 0 => .writeCreditLimit x seq .b value
  | 0x03, 0 => .writeTenureMode x seq value
  | 0x04, 1 => .writeOpenLimit x seq value
  | 0x05, 0 => .writeRefreshMode x seq value
  | 0x05, 3 => .writeForceLevel x seq value
  | 0x05, 4 => .writeCueLink x seq value
  | 0x06, 2 => .writeFilterEnable x seq value
  | 0x09, 10 => .writeCorrThreshold x seq value
  | 0x0A, 1 => .writeLease x seq value
  | 0x0A, 2 => .writeAlertLink x seq value
  | _, _ => .mgmtWrite x seq record field value

/-- A packet whose length matches no layout of its kind, or whose kind is unknown or not the
partner's to send (10 R172, 11 R183). A link-level packet carries no sequence number. -/
def unknownPacket (x : Link) (kind seq : Byte) : Instr :=
  .receiveUnknownPacket x (if 0x70 ≤ kind.toNat ∧ kind.toNat ≤ 0x73 then none else some seq)

/-- The body of a WRITE or LOCK-WRITE fits a layout: at least 8 + 4 M bytes, and whole blocks after
them (11 section 11.3). -/
def writeLengthOk (body : List Byte) : Bool :=
  8 + 4 * (byteAt body 2).toNat ≤ body.length &&
    (body.length - 8 - 4 * (byteAt body 2).toNat) % 32 == 0

/-- The byte masks of a WRITE or LOCK-WRITE body. -/
def masksOf (body : List Byte) : List Mask :=
  (chunks 4 (byteAt body 2).toNat (body.drop 8)).map fun m => BitVec.ofNat 32 (bigEndian m)

/-- The data blocks of a WRITE or LOCK-WRITE body. -/
def dataOf (body : List Byte) : List Block :=
  (chunks 32 ((body.length - 8 - 4 * (byteAt body 2).toNat) / 32)
    (body.drop (8 + 4 * (byteAt body 2).toNat))).map blockOfBytes

/-- The command of a good frame's header and body, by its kind code and its length (11 sections 11.2
to 11.8). -/
def commandOfBody (x : Link) (kind seq : Byte) (body : List Byte) : Instr :=
  let b := byteAt body
  match kind.toNat, body.length with
  | 0x01, 8 => .read x seq (b 0) (b 1) (b 2) (addrAt body 3)
  | 0x02, _ => if writeLengthOk body then
      .write x seq (b 0) (b 1) (addrAt body 3) (masksOf body) (dataOf body)
      else unknownPacket x kind seq
  | 0x03, 8 => .lockRead x seq (b 0) (b 1) (b 2) (addrAt body 3)
  | 0x04, _ => if writeLengthOk body then
      .lockWrite x seq (b 0) (b 1) (addrAt body 3) (masksOf body) (dataOf body)
      else unknownPacket x kind seq
  | 0x05, 8 => .lockDrop x seq (b 0) (b 1 ++ b 2) (addrAt body 3)
  | 0x06, 1 => .fence x seq (b 0)
  | 0x10, 1 => .noticeAck x seq (b 0)
  | 0x11, 0 => .refreshCue x seq
  | 0x20, 2 => .mgmtRead x seq (b 0) (b 1)
  | 0x21, 6 => commandOfWrite x seq (b 0) (b 1) (BitVec.ofNat 32 (bigEndian (body.drop 2)))
  | 0x22, 3 => .tableRead x seq (b 0) (b 1) (b 2)
  | 0x23, 14 => .tableWrite x seq (b 0) (b 1) (BitVec.ofNat 96 (bigEndian (body.drop 2)))
  | 0x24, 0 => .tableCommit x seq
  | 0x25, 0 => .tableRevert x seq
  | 0x26, 0 => .claim x seq
  | 0x27, 0 => .release x seq
  | 0x28, 0 => .channelStart x seq
  | 0x29, 0 => .channelQuiesce x seq
  | 0x2A, 0 => .channelResume x seq
  | 0x2B, 0 => .hubReset x seq
  | 0x70, 3 => .train x (b 0) (b 1) (b 2)
  | 0x71, 2 => .linkAck x (b 0) (b 1)
  | 0x72, 2 => .retryReq x (b 0) (b 1)
  | 0x73, 0 => .linkReset x
  | _, _ => unknownPacket x kind seq

/-- The command of a good frame, without its CRC, by its header (11 R183). One that ends before the CRC its
length calls for matches no layout; in a longer one the bytes after the body are not read. One that ends
before its sequence byte carries no sequence number (log entry 13). -/
def commandOfPayload (x : Link) (payload : List Byte) : Instr :=
  let kind := byteAt payload 0
  let seq := byteAt payload 1
  let len := bigEndian ((payload.drop 2).take 2)
  if payload.length < 2 then .receiveUnknownPacket x none
  else if 4 + len ≤ payload.length then commandOfBody x kind seq ((payload.drop 4).take len)
  else unknownPacket x kind seq

/-- The command of any run of bytes framed on link `x` (10 R169, 11 section 11.1). A frame is good when its
last two bytes are the CRC of those before them. -/
def commandOfFrame (x : Link) (frame : List Byte) : Instr :=
  let payload := frame.take (frame.length - 2)
  if frame.length < 2 ∨ (crc16 payload).toNat ≠ bigEndian (frame.drop (frame.length - 2)) then
    .receiveBadPacket x .crc
  else commandOfPayload x payload

/-- The frame of a kind code, a sequence byte and a body: header, body, CRC (11 section 11.1). -/
def frameBytes (kind seq : Byte) (body : List Byte) : List Byte :=
  let payload := kind :: seq :: (bytesBE 2 body.length ++ body)
  payload ++ bytesBE 2 (crc16 payload).toNat

/-- The body of a WRITE or LOCK-WRITE (11 section 11.3). -/
def writeBody (tag count : Byte) (addr : LinkAddr) (masks : List Mask) (data : List Block) :
    List Byte :=
  tag :: count :: BitVec.ofNat 8 masks.length ::
    (bytesBE 5 addr.toNat ++ (masks.flatMap fun m => bytesBE 4 m.toNat)
      ++ data.flatMap blockBytes)

/-- The body of a MGMT-WRITE (11 section 11.8). -/
def mgmtWriteBody (record field : Byte) (value : BitVec 32) : List Byte :=
  record :: field :: bytesBE 4 value.toNat

/-- The link, kind code, sequence byte and body of a packet command: none for a command that is no
packet, and for the two rows of discarded packets. -/
def packetOf : Instr → Option (Link × Byte × Byte × List Byte)
  | .read x seq tag count m addr => some (x, 0x01, seq, tag :: count :: m :: bytesBE 5 addr.toNat)
  | .write x seq tag count addr masks data => some (x, 0x02, seq, writeBody tag count addr masks data)
  | .lockRead x seq tag count m addr =>
      some (x, 0x03, seq, tag :: count :: m :: bytesBE 5 addr.toNat)
  | .lockWrite x seq tag count addr masks data =>
      some (x, 0x04, seq, writeBody tag count addr masks data)
  | .lockDrop x seq tag unused addr =>
      some (x, 0x05, seq, tag :: (bytesBE 2 unused.toNat ++ bytesBE 5 addr.toNat))
  | .fence x seq tag => some (x, 0x06, seq, [tag])
  | .noticeAck x seq number => some (x, 0x10, seq, [number])
  | .refreshCue x seq => some (x, 0x11, seq, [])
  | .mgmtRead x seq record field => some (x, 0x20, seq, [record, field])
  | .mgmtWrite x seq record field value => some (x, 0x21, seq, mgmtWriteBody record field value)
  | .writeTenureMode x seq value => some (x, 0x21, seq, mgmtWriteBody 0x03 0 value)
  | .writeRefreshMode x seq value => some (x, 0x21, seq, mgmtWriteBody 0x05 0 value)
  | .writeForceLevel x seq value => some (x, 0x21, seq, mgmtWriteBody 0x05 3 value)
  | .writeCueLink x seq value => some (x, 0x21, seq, mgmtWriteBody 0x05 4 value)
  | .writeFilterEnable x seq value => some (x, 0x21, seq, mgmtWriteBody 0x06 2 value)
  | .writeCreditLimit x seq .a value => some (x, 0x21, seq, mgmtWriteBody 0x01 0 value)
  | .writeCreditLimit x seq .b value => some (x, 0x21, seq, mgmtWriteBody 0x02 0 value)
  | .writeAlertLink x seq value => some (x, 0x21, seq, mgmtWriteBody 0x0A 2 value)
  | .writeLease x seq value => some (x, 0x21, seq, mgmtWriteBody 0x0A 1 value)
  | .writeCorrThreshold x seq value => some (x, 0x21, seq, mgmtWriteBody 0x09 10 value)
  | .writeOpenLimit x seq value => some (x, 0x21, seq, mgmtWriteBody 0x04 1 value)
  | .tableRead x seq set table index => some (x, 0x22, seq, [set, table, index])
  | .tableWrite x seq table index entry =>
      some (x, 0x23, seq, table :: index :: bytesBE 12 entry.toNat)
  | .tableCommit x seq => some (x, 0x24, seq, [])
  | .tableRevert x seq => some (x, 0x25, seq, [])
  | .claim x seq => some (x, 0x26, seq, [])
  | .release x seq => some (x, 0x27, seq, [])
  | .channelStart x seq => some (x, 0x28, seq, [])
  | .channelQuiesce x seq => some (x, 0x29, seq, [])
  | .channelResume x seq => some (x, 0x2A, seq, [])
  | .hubReset x seq => some (x, 0x2B, seq, [])
  | .train x r m seen => some (x, 0x70, 0, [r, m, seen])
  | .linkAck x acked mark => some (x, 0x71, 0, [acked, mark])
  | .retryReq x wanted mark => some (x, 0x72, 0, [wanted, mark])
  | .linkReset x => some (x, 0x73, 0, [])
  | _ => none

/-- The link and the frame a partner sends for a packet command. -/
def frameOfCommand (c : Instr) : Option (Link × List Byte) :=
  (packetOf c).map fun p => (p.1, frameBytes p.2.1 p.2.2.1 p.2.2.2)

end Sys2Proof
end

