-- ==== Sys2Proof/Config.lean ====
section
/-! DEFINITION. What the part fixes outside its settings, and the free values: constants without a
body for what the manual leaves open, so that no proof can see what they are. -/

namespace Sys2Proof

/-- How the check code classes a word at a read (08 R140). -/
inductive WordClass where
  | clean
  | corrected
  | uncorrectable
  deriving DecidableEq, Repr, Inhabited

/-- FREE VALUE (log entry 5). The byte a DRAM cell holds that was never written since power-up, by
the generation of such contents and the number of the cell (08 R146, R131: contents undefined). -/
opaque Config.unwrittenByte : Nat → Nat → Byte

/-- FREE VALUE (log entry 6). How the check code classes a word with three or more bits in error, by
the word as written and its bits in error (08 section 8.6: the code gives no promise). -/
opaque Config.manyErrorsClass : Word64 → ErrMask → WordClass

/-- FREE VALUE (log entry 6). The data passed on for a word with three or more bits in error that the
check code takes for a correctable one. -/
opaque Config.manyErrorsData : Word64 → ErrMask → Word64

/-- FREE VALUE (log entry 7). Whether the older of two requests of one link with one tag is refused
TAG_IN_USE when the younger one arrived before the older one's intake step (01 R8 says both). -/
opaque Config.youngerTagRefuses : Bool

/-- FREE VALUE (log entry 9). Whether a grant of tenure from NONE comes before the beginning of an
opportunistic refresh episode due at the same event, by the number of the choice (04 R71). -/
opaque Config.grantBeforeEpisode : Nat → Bool

/-- A duration of `n` microseconds in timebase units of 0.25 us (00 Units). -/
def usUnits (n : Nat) : Nat := 4 * n

/-- A duration of `n` milliseconds in timebase units. -/
def msUnits (n : Nat) : Nat := 4000 * n

/-- COMMIT_LIMIT counts units of 16 us (02 R41). -/
def commitUnits (n : Nat) : Nat := usUnits (16 * n)

/-- The number of slots of the Transaction Table (01 R1). -/
def slotCount : Nat := 48

/-- The most packets a replay buffer holds (10 R167). -/
def replayRoom : Nat := 32

/-- The most entries a Notice Queue holds (06 R101). -/
def noticeRoom : Nat := 16

/-- The most lines a Recent Line List holds (06 R109). -/
def recentRoom : Nat := 8

/-- The most records the Alert Queue holds (09 R159). -/
def alertRoom : Nat := 16

/-- The most entries a management reply list holds: the management credits of a link (09 R148). -/
def replyRoom : Nat := 2

/-- The largest refresh debt (07 R119). -/
def debtMax : Nat := 8

end Sys2Proof
end

