-- ==== Sys2Proof/Machine/State.lean ====
section
/-! DEFINITION. The state of the FH210: every register, queue, buffer, counter, mode and setting the
spec names, block by block (00 Block overview), the queue of waiting commands, and the reasons a step
could stop. All of it is plain data. -/

namespace Sys2Proof.Machine

/-! ## Pairs of links -/

/-- One thing for each link. -/
structure PerLink (α : Type) where
  a : α
  b : α
  deriving DecidableEq, Repr

/-- The thing of link `x`. -/
def PerLink.get {α : Type} (p : PerLink α) (x : Link) : α :=
  match x with
  | .a => p.a
  | .b => p.b

/-- The pair with link `x`'s thing replaced. -/
def PerLink.set {α : Type} (p : PerLink α) (x : Link) (v : α) : PerLink α :=
  match x with
  | .a => { p with a := v }
  | .b => { p with b := v }

/-- The pair that holds the same thing for both links. -/
def PerLink.both {α : Type} (v : α) : PerLink α := ⟨v, v⟩

/-! ## Timers (00 Time) -/

/-- A timer, counting in timebase units of 0.25 us. -/
inductive Timer where
  | stopped
  | running (left : Nat)
  | paused (left : Nat)
  deriving DecidableEq, Repr

/-- The holder's idle timer (04 R69): a timer that may also have lapsed. -/
inductive IdleTimer where
  | stopped
  | running (left : Nat)
  | paused (left : Nat)
  | lapsed
  deriving DecidableEq, Repr

/-! ## Requests, statuses and packets -/

/-- The request kinds (01 R3). -/
inductive ReqKind where
  | read
  | write
  | lockRead
  | lockWrite
  | lockDrop
  | fence
  deriving DecidableEq, Repr

/-- The states of a live slot (01 section 1.2). -/
inductive SlotState where
  | intake
  | queued
  | access
  | merge
  | notify
  | fenceWait
  | reply
  deriving DecidableEq, Repr

/-- Memory response statuses (11 section 11.4). -/
inductive MemStatus where
  | ok
  | malformed
  | tagInUse
  | notReady
  | align
  | unmapped
  | range
  | denied
  | lockRefused
  | lockLost
  | poison
  | staleNotice
  deriving DecidableEq, Repr

/-- The status of one block of a read (01 R17, 08 R140). -/
inductive BlockStatus where
  | ok
  | corrected
  | poison
  deriving DecidableEq, Repr

/-- The management kinds (09 R147). -/
inductive MgmtKind where
  | mgmtRead
  | mgmtWrite
  | tableRead
  | tableWrite
  | tableCommit
  | tableRevert
  | claim
  | release
  | channelStart
  | channelQuiesce
  | channelResume
  | hubReset
  deriving DecidableEq, Repr

/-- Management reply statuses (09 R147). -/
inductive MgmtStatus where
  | ok
  | notOwner
  | claimed
  | badIndex
  | badValue
  | wrongState
  | busy
  | commitTimeout
  deriving DecidableEq, Repr

/-- The value a MGMT-REPLY carries: none, a field, or a table entry (11 section 11.8). -/
inductive ReplyValue where
  | none
  | word (v : BitVec 32)
  | entry (v : BitVec 96)
  deriving DecidableEq, Repr

/-- The alert kinds (09 R159). -/
inductive AlertKind where
  | linkDown
  | protocol
  | corrected
  | uncorrectable
  | lockBroken
  | noticeTimeout
  | cueMissing
  | refreshOverrun
  | leaseExpired
  deriving DecidableEq, Repr

/-- The causes an alert's detail names (09 R159, 11 section 11.6). -/
inductive Cause where
  | requestOverrun
  | mgmtOverrun
  | unknownAck
  | wrongCue
  | unknownPacket
  | read
  | merge
  | expiry
  | quiesce
  | retry
  | replay
  | partnerReset
  | restart
  deriving DecidableEq, Repr

/-- An alert record (09 R159). -/
structure Alert where
  kind : AlertKind
  link : Option Link
  addr : Option Nat
  cause : Option Cause
  value : Option Nat
  time : BitVec 32
  droppedBefore : Nat
  /-- The model's own: the event at which the record joined the queue (10 R175). -/
  readySince : Nat
  deriving DecidableEq, Repr

/-- The sequenced packets the hub sends (10 R169). -/
inductive HubPacket where
  | readData (tag : Byte) (status : MemStatus) (blocks : List (BlockStatus × Block))
  | writeDone (tag : Byte) (status : MemStatus)
  | lockDone (tag : Byte) (status : MemStatus)
  | fenceDone (tag : Byte) (status : MemStatus)
  | mgmtReply (kind : MgmtKind) (status : MgmtStatus) (value : ReplyValue)
  | notice (number : Byte) (addr : LinkAddr)
  | alert (record : Alert)
  | credit (requests mgmt : Nat)
  deriving DecidableEq, Repr

/-- What the hub puts on a wire: a sequenced packet with its number, or a link-level packet. -/
inductive WirePacket where
  | sequenced (seq : Seq) (packet : HubPacket)
  | train (requestGrant mgmtGrant : Nat) (seen : Bool)
  | linkAck (acked mark : Seq)
  | retryReq (wanted mark : Seq)
  | linkReset
  deriving DecidableEq, Repr

/-- The commands the hub sends on the DRAM channel (08 R138), a bank named by its position. -/
inductive DramCommand where
  | activate (pos row : Nat)
  | readColumn (pos column : Nat)
  | writeColumn (pos column : Nat) (data : Block)
  | precharge (pos : Nat)
  | prechargeAll (rank : Nat)
  | refresh (rank : Nat)
  | loadSettings (rank latency : Nat)
  | srEnter (rank : Nat)
  | srExit (rank : Nat)
  deriving DecidableEq, Repr

/-! ## Link Controller (10 R167) -/

/-- The link states (10 R168). -/
inductive LinkState where
  | down
  | training
  | up
  | retry
  deriving DecidableEq, Repr

/-- A NOTICE waiting to be sent (10 R167), with the model's own event of its handing (10 R175). -/
structure NoticePacket where
  number : Byte
  addr : LinkAddr
  readySince : Nat
  deriving DecidableEq, Repr

/-- The state of one Link Controller. -/
structure LinkCtl where
  state : LinkState
  downTimer : Timer
  trainSent : Bool
  partnerSeen : Bool
  trainTimer : Timer
  grant : Nat
  currentLimit : Nat
  nextSend : Seq
  expected : Seq
  unacked : Nat
  ackTimer : Timer
  retryCount : Nat
  retryTimer : Timer
  replay : List (Seq × HubPacket)
  replayTimer : Timer
  replayCount : Nat
  notices : List NoticePacket
  owedRequests : Nat
  owedMgmt : Nat
  restartDue : Bool
  /-- Implied by 10 R181: on the link that sent HUB-RESET, its reply is still to be taken first. -/
  resetReplyDue : Bool
  /-- The model's own: the event at which the owed counts left 0 and 0 (10 R175). -/
  owedSince : Nat
  deriving DecidableEq, Repr

/-! ## Transaction Table (file 01) -/

/-- Where a block stands in the DRAM (03 R47). -/
structure Location where
  rank : Nat
  bank : Nat
  row : Nat
  column : Nat
  deriving DecidableEq, Repr

/-- A transaction record (01 R1). -/
structure Txn where
  state : SlotState
  link : Link
  tag : Byte
  kind : ReqKind
  addr : Option LinkAddr
  count : Option Nat
  /-- Implied by 01 R7: the request held a non-zero value in a field its layout marks unused. -/
  unusedSet : Bool
  arrival : BitVec 32
  epoch : Option Byte
  phys : Option Nat
  loc : Option Location
  transNo : Option (BitVec 32)
  masks : Option (List Mask)
  data : List Block
  statuses : List BlockStatus
  mergeNeeded : Bool
  /-- The block of the lock entry the transaction is blocked on (a block is in at most one entry). -/
  lockWait : Option Nat
  pred : Option Nat
  bypass : Nat
  stale : Bool
  status : Option MemStatus
  orphan : Bool
  /-- The model's own: the event at which the slot entered REPLY (10 R175). -/
  replySince : Nat
  deriving DecidableEq, Repr

/-- The Transaction Table. -/
structure TxnTable where
  slots : List (Option Txn)
  arrivalCounter : BitVec 32
  transCounter : BitVec 32
  responses : PerLink (List Nat)
  deriving DecidableEq, Repr

/-! ## Translation Unit (file 02) -/

/-- The links a window serves (02 R27). -/
inductive WindowLinks where
  | a
  | b
  | both
  deriving DecidableEq, Repr

/-- A Window Table entry (02 R27); the size is 64 KiB times 2 to the size code (11 section 11.9). -/
structure Window where
  valid : Bool
  links : WindowLinks
  sizeCode : Nat
  linkBase : LinkAddr
  physBase : BitVec 32
  deriving DecidableEq, Repr

/-- What a link may do in a region (02 R30). -/
inductive Access where
  | none
  | read
  | readWrite
  deriving DecidableEq, Repr

/-- What a region gives: rights of each link and attributes (02 R30). The Default Region record. -/
structure Rights where
  accessA : Access
  accessB : Access
  notify : Bool
  lockable : Bool
  deriving DecidableEq, Repr

/-- A Region Table entry (02 R30). -/
structure Region where
  valid : Bool
  base : BitVec 16
  limit : BitVec 16
  rights : Rights
  deriving DecidableEq, Repr

/-- One set of tables (02 R34). -/
structure TableSet where
  windows : List Window
  regions : List Region
  default : Rights
  deriving DecidableEq, Repr

/-- The commit state (02 R39). -/
inductive CommitState where
  | steady
  | draining
  deriving DecidableEq, Repr

/-- The Translation Unit. -/
structure Translation where
  active : TableSet
  shadow : TableSet
  epoch : Byte
  commit : CommitState
  commitTimer : Timer
  /-- A revert of SHADOW held until the commit ends (02 R37, 09 R153). -/
  heldRevert : Bool
  deriving DecidableEq, Repr

/-! ## Bank Scheduler (file 03) -/

/-- What a bank's DRAM array is doing (03 R48, R49). -/
inductive BankState where
  | closed
  | activating
  | openRow
  | precharging
  | refreshing
  deriving DecidableEq, Repr

/-- A bank's own row behaviour (03 R48). -/
inductive Behaviour where
  | keep
  | close
  deriving DecidableEq, Repr

/-- The transaction a bank serves (03 R48) with the progress of its DRAM work (08 R139, R143). -/
structure Service where
  slot : Nat
  /-- The event of its issue, which orders the commands of transactions in service (03 R56). -/
  issued : Nat
  /-- It has precharged for a CONFLICT and not yet sent its ACTIVATE (03 R52). -/
  reserved : Bool
  /-- The blocks of the span whose READ-COLUMN is still to be sent. -/
  toRead : List Nat
  /-- How many READ-COLUMNs were sent whose data have not arrived. -/
  due : Nat
  /-- The blocks read, in order: number in the span, status, data passed on. -/
  got : List (Nat × BlockStatus × Block)
  /-- The blocks whose WRITE-COLUMN is still to be sent, with their data. -/
  toWrite : List (Nat × Block)
  /-- A WRITE-COLUMN was sent (08 R145). -/
  wrote : Bool
  deriving DecidableEq, Repr

/-- A bank record (03 R48); its queue is computed from the slots. -/
structure Bank where
  state : BankState
  row : Option Nat
  lastRow : Option Nat
  behaviour : Behaviour
  streak : Nat
  idleTimer : Timer
  closePending : Bool
  /-- Implied by 03 R50: a close was requested while the bank was busy. -/
  closeAfter : Bool
  serving : Option Service
  /-- Implied by 03 R50: the event of the bank's last ACTIVATE, from which its minimum open time runs. -/
  activatedAt : Nat
  /-- Implied by 03 R50: the event of its last WRITE-COLUMN, from which its write recovery time runs. -/
  writtenAt : Nat
  deriving DecidableEq, Repr

/-- The Bank Scheduler: bank records by position, the open-row list of each rank (as positions, least
recently used first, 03 R51) and the position last granted (03 R56). -/
structure Scheduler where
  banks : List Bank
  openRows0 : List Nat
  openRows1 : List Nat
  lastGranted : Nat
  /-- The model's own (log entry 4): the minimum open time is known to have passed since every ACTIVATE
  sent at this event or before. -/
  openedBy : Nat
  /-- The model's own (log entry 4): the write recovery time is known to have passed since every
  WRITE-COLUMN sent at this event or before. -/
  writtenBy : Nat
  deriving DecidableEq, Repr

/-! ## Tenure Arbiter (04 R69) -/

/-- The phase of a tenure (04 R69). -/
inductive Phase where
  | guaranteed
  | opened
  deriving DecidableEq, Repr

/-- Whether tenure is to leave the holder, and to whom (04 R69): no, a link, or NONE. -/
inductive HandOver where
  | no
  | toLink (y : Link)
  | toNone
  deriving DecidableEq, Repr

/-- The tenure state. -/
structure Tenure where
  holder : Option Link
  phase : Option Phase
  quantum : Timer
  idle : IdleTimer
  due : HandOver
  /-- Implied by 04 R73: the idle condition as it was last judged. -/
  idleNow : Bool
  deriving DecidableEq, Repr

/-! ## Lock Table (05 R87) -/

/-- The states of a lock entry. -/
inductive LockState where
  | pending
  | held
  | writing
  deriving DecidableEq, Repr

/-- A lock entry in use; its wait list is computed from the slots. -/
structure LockEntry where
  holder : Link
  block : Nat
  state : LockState
  owner : Option Nat
  timer : Timer
  deriving DecidableEq, Repr

/-! ## Notice Unit (06 R101) -/

/-- A Notice Queue entry is RESERVED, or SENT with a number and a link address. -/
inductive NoticeState where
  | reserved
  | sent (number : Byte) (addr : LinkAddr)
  deriving DecidableEq, Repr

/-- A Notice Queue entry. -/
structure NoticeEntry where
  line : Nat
  state : NoticeState
  timer : Timer
  claimants : List Nat
  waiters : List Nat
  deriving DecidableEq, Repr

/-- What the Notice Unit keeps for one target link. -/
structure NoticeTarget where
  queue : List NoticeEntry
  recent : List Nat
  counter : Byte
  deriving DecidableEq, Repr

/-! ## Refresh Controller (07 R117) -/

/-- The kinds of episode. -/
inductive EpisodeKind where
  | opportunistic
  | forced
  deriving DecidableEq, Repr

/-- The progress of an episode. -/
inductive Progress where
  | waiting
  | closing
  | refreshing
  deriving DecidableEq, Repr

/-- Whether an episode holds the channel, of which kind and how far. -/
inductive Episode where
  | none
  | holds (kind : EpisodeKind) (progress : Progress)
  deriving DecidableEq, Repr

/-- The Refresh Controller. -/
structure Refresh where
  debt : Nat
  timer : Timer
  cueSeen : Bool
  episode : Episode
  /-- The ranks of the current round already sent their REFRESH (07 R117); none between rounds
  (log entry 33). -/
  sent : List Nat
  /-- The event of the latest REFRESH of the round (log entry 20); absent between rounds (log entry 33). -/
  sentAt : Option Nat
  deriving DecidableEq, Repr

/-! ## Settings records (09 R155) -/

/-- TENURE MODE (04 R84). -/
inductive TenureMode where
  | shared
  | tenure
  deriving DecidableEq, Repr

/-- ROWS POLICY (03 R58). -/
inductive Policy where
  | opened
  | closed
  | adaptive
  deriving DecidableEq, Repr

/-- REFRESH MODE (07 R118). -/
inductive RefreshMode where
  | internal
  | linked
  deriving DecidableEq, Repr

/-- GEOMETRY INTERLEAVE (08 R136). -/
inductive Interleave where
  | rowMajor
  | spanRotate
  deriving DecidableEq, Repr

/-- The TENURE record (04 R84). -/
structure TenureSettings where
  mode : TenureMode
  quantum : PerLink Nat
  idleLimit : PerLink Nat
  closeOnHandover : Bool
  deriving DecidableEq, Repr

/-- The ROWS record (03 R67). -/
structure RowsSettings where
  policy : Policy
  openLimit : Nat
  rowIdle : Nat
  bypassLimit : Nat
  missStreak : Nat
  hitStreak : Nat
  deriving DecidableEq, Repr

/-- The REFRESH record (07 R118). -/
structure RefreshSettings where
  mode : RefreshMode
  group : Nat
  refi : Nat
  forceLevel : Nat
  cueLink : Link
  deriving DecidableEq, Repr

/-- The NOTICES record (06 R102). -/
structure NoticeSettings where
  caching : PerLink Bool
  filter : Bool
  limit : Nat
  deriving DecidableEq, Repr

/-- The GEOMETRY record (08 R136). -/
structure Geometry where
  ranks : Nat
  banks : Nat
  rows : Nat
  interleave : Interleave
  deriving DecidableEq, Repr

/-- The PROFILE record (08 R137). -/
structure Profile where
  channelClock : Nat
  actTime : Nat
  preTime : Nat
  minOpen : Nat
  writeRecovery : Nat
  readLatency : Nat
  refreshTime : Nat
  rankGap : Nat
  startWait : Nat
  startRefreshes : Nat
  corrThreshold : Nat
  deriving DecidableEq, Repr

/-- The MANAGEMENT record (09 R156). -/
structure MgmtSettings where
  commitLimit : Nat
  lease : Nat
  alertLink : Link
  deriving DecidableEq, Repr

/-- The settings records of the hub. -/
structure Settings where
  /-- CREDIT_LIMIT of LINK A and LINK B: the pending limits (09 R157). -/
  creditLimit : PerLink Nat
  tenure : TenureSettings
  rows : RowsSettings
  refresh : RefreshSettings
  notices : NoticeSettings
  /-- LOCKS LOCK_LIMIT (05 R88). -/
  lockLimit : Nat
  geometry : Geometry
  profile : Profile
  mgmt : MgmtSettings
  deriving DecidableEq, Repr

/-! ## Channel Controller (file 08) -/

/-- The channel states (08 R130). -/
inductive ChannelState where
  | init
  | starting
  | run
  | quiescing
  | quiesced
  | resuming
  deriving DecidableEq, Repr

/-- How far the start sequence is (08 R132): the start wait, the precharge after PRECHARGE-ALL, a
round of refresh with the rounds done and the ranks sent in this one, or the settings wait. -/
inductive StartPhase where
  | none
  | waiting
  | precharging
  | refreshing (done : Nat) (sent : List Nat)
  | settling
  deriving DecidableEq, Repr

/-- How far the resume sequence is (08 R135). -/
inductive ResumePhase where
  | none
  | waiting
  | settling
  deriving DecidableEq, Repr

/-- A READ-COLUMN whose data are still due: the bank's position and the block of the span. -/
structure ReadDue where
  pos : Nat
  index : Nat
  deriving DecidableEq, Repr

/-- The Channel Controller, less the DRAM's contents. -/
structure Channel where
  state : ChannelState
  sleeping : List Nat
  clockOn : Bool
  startTimer : Timer
  resumeTimer : Timer
  startPhase : StartPhase
  resumePhase : ResumePhase
  readsDue : List ReadDue
  correctedCount : Nat
  /-- The geometry under which the channel last left RUN (03 R66; how it is compared: log entry 31). -/
  lastRun : Option Geometry
  /-- A warm reset is between its taking and its reset point (09 R162), with the ranks it has sent
  SR-ENTER (08 R145). -/
  warm : Option (List Nat)
  deriving DecidableEq, Repr

/-- The DRAM's contents. -/
structure Dram where
  /-- The bytes as written, in canonical form (Machine/Ops.lean). -/
  cells : List Host.Cell
  /-- The bits in error of each stored word since it was written, by the word's number, canonical. -/
  errors : List (Nat × ErrMask)
  /-- The model's own: which generation of never-written contents the cells hold. -/
  generation : Nat
  deriving DecidableEq, Repr

/-! ## Management Unit (file 09) -/

/-- The long operations (09 R154). -/
inductive LongKind where
  | commit
  | start
  | quiesce
  | resume
  | hubReset
  deriving DecidableEq, Repr

/-- An entry of a management reply list: undecided while its status is absent (09 R149). -/
structure MgmtEntry where
  kind : MgmtKind
  status : Option MgmtStatus
  value : ReplyValue
  /-- The model's own: the event of its decision (10 R175). -/
  readySince : Nat
  deriving DecidableEq, Repr

/-- The Management Unit. -/
structure Mgmt where
  claim : Option Link
  lease : Timer
  replies : PerLink (List MgmtEntry)
  longOp : Option (LongKind × Link)
  /-- Management packets discarded since the taking of the warm reset (09 R162). -/
  discarded : PerLink Nat
  alerts : List Alert
  dropped : Nat
  clock : BitVec 32
  deriving DecidableEq, Repr

/-! ## The whole hub -/

/-- The state of the hub and its queue of waiting commands. -/
structure State where
  links : PerLink LinkCtl
  table : TxnTable
  xlate : Translation
  sched : Scheduler
  tenure : Tenure
  locks : List LockEntry
  notices : PerLink NoticeTarget
  refresh : Refresh
  chan : Channel
  dram : Dram
  mgmt : Mgmt
  settings : Settings
  /-- What the latest event put on each wire. -/
  wire : PerLink (List WirePacket)
  /-- What the latest event sent on the DRAM channel. -/
  channelOut : List DramCommand
  /-- The model's own count of events. -/
  event : Nat
  /-- The model's own count of free choices. -/
  free : Nat
  /-- The commands that wait, first in, first out. -/
  pending : List Instr
  deriving DecidableEq, Repr

/-- The reasons a step could stop with a fault. The spec gives every command of the table an effect
in every state, so no meaning raises one; the type has its one constructor because a closed
inductive of the host's interface needs a name. -/
inductive Fault where
  /-- Raised by nobody. Safe: nothing in the model reaches it. -/
  | unreachable
  deriving DecidableEq, Repr

/-- The reasons a step could be refused. -/
inductive Refusal where
  /-- Raised by an arm of exec whose command has no meaning yet. Safe. No arm raises it. -/
  | notModelled (mnemonic : String)
  deriving DecidableEq, Repr

/-! ## Reset -/

/-- A window entry that is not valid, at its cold values (02 R46). -/
def coldWindow : Window := ⟨false, .a, 0, 0, 0⟩

/-- Rights at their cold values (02 R46). -/
def coldRights : Rights := ⟨.none, .none, false, false⟩

/-- A region entry that is not valid, at its cold values (02 R46). -/
def coldRegion : Region := ⟨false, 0, 0, coldRights⟩

/-- A set of tables at its cold values (02 R46). -/
def coldTables : TableSet :=
  ⟨List.replicate 16 coldWindow, List.replicate 32 coldRegion, coldRights⟩

/-- A Link Controller after cold reset (10 R167, R182): DOWN with the down timer loaded with 2 us. -/
def coldLink : LinkCtl where
  state := .down
  downTimer := .running (usUnits 2)
  trainSent := false
  partnerSeen := false
  trainTimer := .stopped
  grant := 0
  currentLimit := 24
  nextSend := 0
  expected := 0
  unacked := 0
  ackTimer := .stopped
  retryCount := 0
  retryTimer := .stopped
  replay := []
  replayTimer := .stopped
  replayCount := 0
  notices := []
  owedRequests := 0
  owedMgmt := 0
  restartDue := false
  resetReplyDue := false
  owedSince := 0

/-- The Transaction Table with every slot FREE and both counters 0 (01 R25, R26). -/
def emptyTable : TxnTable := ⟨List.replicate 48 none, 0, 0, .both []⟩

/-- The tenure state with no holder (04 R69, R86). That the idle condition counts as absent is the model's
choice (log entry 33). -/
def noTenure : Tenure := ⟨none, none, .stopped, .stopped, .no, false⟩

/-- A Notice Unit target with nothing queued (06 R115, R116). -/
def emptyTarget : NoticeTarget := ⟨[], [], 0⟩

/-- The Refresh Controller with no debt (07 R129). That the round holds no rank and no time, which R129 does not
state, is the model's choice (log entry 33). -/
def idleRefresh : Refresh := ⟨0, .stopped, false, .none, [], none⟩

/-- The settings records at their cold defaults (03 R67, 04 R84, 05 R88, 06 R102, 07 R118, 08 R136,
R137, 09 R156, R157). -/
def coldSettings : Settings where
  creditLimit := .both 24
  tenure := ⟨.shared, .both 16, .both 4, true⟩
  rows := ⟨.adaptive, 4, 0, 4, 3, 3⟩
  refresh := ⟨.internal, 1, 31, 6, .a⟩
  notices := ⟨.both false, true, 32⟩
  lockLimit := 64
  geometry := ⟨1, 8, 8192, .rowMajor⟩
  profile := ⟨200, 5, 5, 14, 6, 4, 52, 4, 200, 8, 16⟩
  mgmt := ⟨16, 100, .a⟩

/-- The Channel Controller after cold reset (08 R146). The phases of the sequences, the read data due, the
geometry of the last RUN and the progress of a warm reset, which R146 does not state, are the model's choice
(log entry 33). -/
def coldChannel : Channel where
  state := .init
  sleeping := []
  clockOn := false
  startTimer := .stopped
  resumeTimer := .stopped
  startPhase := .none
  resumePhase := .none
  readsDue := []
  correctedCount := 0
  lastRun := none
  warm := none

/-- The Management Unit after cold reset (09 R165). That no discarded packet is counted is the model's choice
(log entry 33). -/
def coldMgmt : Mgmt := ⟨none, .stopped, .both [], none, .both 0, [], 0, 0⟩

/-- The hub right after reset (01 R26, 02 R46, 03 R68, 04 R86, 05 R100, 06 R116, 07 R129, 08 R146,
09 R165, 10 R182). Where no rule states a field's value it is the model's (log entries 27 and 33). -/
def State.reset : State where
  links := .both coldLink
  table := emptyTable
  xlate := ⟨coldTables, coldTables, 0, .steady, .stopped, false⟩
  sched := ⟨[], [], [], 15, 0, 0⟩
  tenure := noTenure
  locks := []
  notices := .both emptyTarget
  refresh := idleRefresh
  chan := coldChannel
  dram := ⟨[], [], 0⟩
  mgmt := coldMgmt
  settings := coldSettings
  wire := .both []
  channelOut := []
  event := 0
  free := 0
  pending := []

end Sys2Proof.Machine
end

