-- ==== Sys2Proof/Machine/Ops.lean ====
section
/-! DEFINITION. The named operations the blocks share: timers, sparse maps and the DRAM's contents,
slots and their orders, alerts, and what goes out on the wires and the channel. -/

namespace Sys2Proof

/-- The other link: link Y where link X is meant (00 Links). -/
def otherLink : Link → Link
  | .a => .b
  | .b => .a

namespace Machine

/-! ## Timers (00 Time) -/

/-- A timer loaded with `n` timebase units. -/
def loaded (n : Nat) : Timer := .running n

/-- The timer counts down, so its expiry may come. A stopped or a paused timer does not expire. -/
def timerRuns : Timer → Bool
  | .running _ => true
  | _ => false

/-- A timer that is paused keeps its remaining count. -/
def pauseTimer : Timer → Timer
  | .running n => .paused n
  | t => t

/-- A paused timer resumes from its remaining count. -/
def resumeTimer : Timer → Timer
  | .paused n => .running n
  | t => t

/-- One timebase unit passes. -/
def tickTimer : Timer → Timer
  | .running n => .running (n - 1)
  | t => t

/-- The idle timer counts down. -/
def idleRuns : IdleTimer → Bool
  | .running _ => true
  | _ => false

/-- A running idle timer is paused (04 R73). -/
def pauseIdle : IdleTimer → IdleTimer
  | .running n => .paused n
  | t => t

/-- A paused idle timer resumes (04 R73). -/
def resumeIdle : IdleTimer → IdleTimer
  | .paused n => .running n
  | t => t

/-- One timebase unit passes for the idle timer. -/
def tickIdle : IdleTimer → IdleTimer
  | .running n => .running (n - 1)
  | t => t

/-! ## Sparse maps: lists of key and value with keys strictly rising -/

/-- The value listed at a key. -/
def sparseGet {α : Type} : List (Nat × α) → Nat → Option α
  | [], _ => none
  | (k, v) :: rest, key => if key = k then some v else sparseGet rest key

/-- List a value at a key, or, with none, list nothing there. -/
def sparseSet {α : Type} (m : List (Nat × α)) (key : Nat) (val : Option α) : List (Nat × α) :=
  match m with
  | [] =>
    match val with
    | none => []
    | some v => [(key, v)]
  | (k, w) :: rest =>
    if key < k then
      match val with
      | none => (k, w) :: rest
      | some v => (key, v) :: (k, w) :: rest
    else if key = k then
      match val with
      | none => rest
      | some v => (key, v) :: rest
    else (k, w) :: sparseSet rest key val

/-- The keys rise strictly, from a bound on. -/
def risingFrom {α : Type} : Nat → List (Nat × α) → Bool
  | _, [] => true
  | n, (k, _) :: rest => n ≤ k && risingFrom (k + 1) rest

/-! ## The DRAM's contents

A cell is a byte. A cell not listed was never written, and reads as a free byte of its generation
(log entry 5); so the canonical form is that the keys rise strictly. A word's bits in error are listed
when any bit is in error. -/

/-- The canonical form of the DRAM's bytes. -/
def Memory.wf (cells : List Host.Cell) : Bool := risingFrom 0 cells

/-- The canonical form of the bits in error: keys rise strictly, no mask is 0. -/
def Errors.wf (errors : List (Nat × ErrMask)) : Bool :=
  risingFrom 0 errors && errors.all fun e => e.2 != 0

/-- The number of a cell (INVENTORY, Memory and ordering): it depends on no setting, so a change of
geometry moves no data (08 R136). -/
def cellOf (rank bank row column byte : Nat) : Nat :=
  (((rank * 8 + bank) * 32768 + row) * 64 + column) * 32 + byte

/-- The rank a cell lies in. -/
def rankOfCell (cell : Nat) : Nat := cell / (8 * 32768 * 64 * 32)

/-- What a cell holds; an unlisted cell reads as a free byte. -/
def readCell (d : Dram) (cell : Nat) : Byte :=
  match sparseGet d.cells cell with
  | some b => b
  | none => Config.unwrittenByte d.generation cell

/-- The block whose first cell is `base`, as it was written. -/
def readBlock (d : Dram) (base : Nat) : Block :=
  blockOfBytes ((List.range 32).map fun k => readCell d (base + k))

/-- The bits in error of a stored word. -/
def errorOf (d : Dram) (word : Nat) : ErrMask := (sparseGet d.errors word).getD 0

/-- Set the bits in error of a stored word, in canonical form. -/
def setError (errors : List (Nat × ErrMask)) (word : Nat) (e : ErrMask) : List (Nat × ErrMask) :=
  sparseSet errors word (if e = 0 then none else some e)

/-- Store a run of bytes from cell `base` on. -/
def writeCells (cells : List Host.Cell) (base : Nat) : List Byte → List Host.Cell
  | [] => cells
  | b :: rest => writeCells (sparseSet cells base (some b)) (base + 1) rest

/-- Store one block with new check bits (08 R140): its bytes are written and no bit of its four words
is in error any more. -/
def writeBlock (d : Dram) (base : Nat) (data : Block) : Dram :=
  { d with
    cells := writeCells d.cells base (blockBytes data)
    errors := (List.range 4).foldl (fun es i => setError es (base / 8 + i) 0) d.errors }

/-- The cells of the first `ranks` ranks lose their contents (08 R131: contents undefined). -/
def forgetRanks (d : Dram) (ranks : Nat) : Dram where
  cells := d.cells.filter fun c => ranks ≤ rankOfCell c.1
  errors := d.errors.filter fun e => ranks ≤ rankOfCell (8 * e.1)
  generation := d.generation + 1

/-! ## Events and what goes out -/

/-- The beginning of an event: it is counted, and what the last one sent is no longer shown. -/
def beginEvent (s : State) : State :=
  { s with event := s.event + 1, wire := .both [], channelOut := [] }

/-- An event happens where its condition holds; where it does not, the command leaves the state as it
is (log entry 2). -/
def happens (cond : Bool) (s : State) (effect : State → State) :
    Host.Outcome State Fault Refusal :=
  .next (if cond then effect (beginEvent s) else s)

/-- The Link Controller of link `x`. -/
def linkOf (s : State) (x : Link) : LinkCtl := s.links.get x

/-- Change the Link Controller of link `x`. -/
def modLink (s : State) (x : Link) (f : LinkCtl → LinkCtl) : State :=
  { s with links := s.links.set x (f (s.links.get x)) }

/-- Put packets on the wire of link `x`, in order. -/
def putOnWire (s : State) (x : Link) (ps : List WirePacket) : State :=
  { s with wire := s.wire.set x (s.wire.get x ++ ps) }

/-- Send commands on the DRAM channel, in order. -/
def sendDram (s : State) (cs : List DramCommand) : State :=
  { s with channelOut := s.channelOut ++ cs }

/-- Raise an alert (09 R159, R160): it joins the queue with the alert clock and the drop count, or,
with 16 records queued, it is dropped and counted up to 255. -/
def raiseAlert (s : State) (kind : AlertKind) (link : Option Link) (addr : Option Nat)
    (cause : Option Cause) (value : Option Nat) : State :=
  if s.mgmt.alerts.length < alertRoom then
    { s with mgmt :=
      { s.mgmt with
        alerts := s.mgmt.alerts ++
          [⟨kind, link, addr, cause, value, s.mgmt.clock, s.mgmt.dropped, s.event⟩]
        dropped := 0 } }
  else { s with mgmt := { s.mgmt with dropped := min 255 (s.mgmt.dropped + 1) } }

/-- A PROTOCOL alert (09 R159). -/
def raiseProtocol (s : State) (x : Link) (cause : Cause) (value : Option Nat := none) : State :=
  raiseAlert s .protocol (some x) none (some cause) value

/-! ## Slots (01 R1) -/

/-- The record in slot `i`; none where the slot is FREE. -/
def slotAt (s : State) (i : Nat) : Option Txn := s.table.slots.getD i none

/-- Change the slots. -/
def withSlots (s : State) (slots : List (Option Txn)) : State :=
  { s with table := { s.table with slots := slots } }

/-- Put a record in slot `i`, or free it. -/
def setSlot (s : State) (i : Nat) (t : Option Txn) : State := withSlots s (s.table.slots.set i t)

/-- Change the record in slot `i`, if the slot is live. -/
def modSlot (s : State) (i : Nat) (f : Txn → Txn) : State :=
  setSlot s i ((slotAt s i).map f)

/-- The live slots with their numbers, by number. -/
def liveIn (slots : List (Option Txn)) : List (Nat × Txn) :=
  slots.zipIdx.filterMap fun p => p.1.map fun t => (p.2, t)

/-- The live slots of the table. -/
def liveSlots (s : State) : List (Nat × Txn) := liveIn s.table.slots

/-- The live slots of one link. -/
def liveOf (s : State) (x : Link) : List (Nat × Txn) :=
  (liveSlots s).filter fun p => p.2.link = x

/-- The lowest-numbered FREE slot (01 R1). -/
def freeSlot (slots : List (Option Txn)) : Option Nat :=
  slots.findIdx? fun o => o.isNone

/-- How long ago a number was drawn from a counter, counted in numbers drawn since: the order of two
numbers drawn less than 2^32 draws ago holds across the wrap (01 R2). -/
def age (counter number : BitVec 32) : Nat := (counter - 1#32 - number).toNat

/-- `t` arrived before `u` (01 R2). -/
def arrivedBefore (s : State) (t u : Txn) : Bool :=
  age s.table.arrivalCounter u.arrival < age s.table.arrivalCounter t.arrival

/-- Put a slot into a list kept in order of arrival. -/
def insertByArrival (s : State) (p : Nat × Txn) : List (Nat × Txn) → List (Nat × Txn)
  | [] => [p]
  | q :: rest => if arrivedBefore s p.2 q.2 then p :: q :: rest else q :: insertByArrival s p rest

/-- Slots in order of arrival, oldest first. -/
def byArrival (s : State) (ps : List (Nat × Txn)) : List (Nat × Txn) :=
  ps.foldr (insertByArrival s) []

/-- A slot number placed in a list of slot numbers kept in order of arrival. -/
def placeSlot (s : State) (i : Nat) : List Nat → List Nat
  | [] => [i]
  | j :: rest =>
    match slotAt s i, slotAt s j with
    | some t, some u => if arrivedBefore s t u then i :: j :: rest else j :: placeSlot s i rest
    | _, _ => j :: placeSlot s i rest

/-- Put a slot number into such a list, once. -/
def insertSlot (s : State) (i : Nat) (l : List Nat) : List Nat :=
  if l.contains i then l else placeSlot s i l

/-- The intake order of link `x`: its slots in INTAKE, oldest first (01 R3). -/
def intakeOrder (s : State) (x : Link) : List (Nat × Txn) :=
  byArrival s ((liveOf s x).filter fun p => p.2.state = .intake)

/-- The transaction is on its way to the channel or on it: QUEUED, ACCESS or MERGE. -/
def onChannelPath (t : Txn) : Bool :=
  t.state = .queued || t.state = .access || t.state = .merge

/-- The transaction is on the channel: ACCESS or MERGE. -/
def inFlight (t : Txn) : Bool := t.state = .access || t.state = .merge

/-- Some transaction is in QUEUED, ACCESS or MERGE. -/
def anyOnPath (s : State) : Bool := (liveSlots s).any fun p => onChannelPath p.2

/-- Some transaction is in ACCESS or MERGE, orphans included. -/
def anyInFlight (s : State) : Bool := (liveSlots s).any fun p => inFlight p.2

/-- Some transaction of link `x` is in ACCESS or MERGE, orphans included. -/
def linkInFlight (s : State) (x : Link) : Bool := (liveOf s x).any fun p => inFlight p.2

/-- A slot enters REPLY with a status (01 R21, R22): it joins the end of its link's response queue. -/
def enterReply (s : State) (i : Nat) (status : MemStatus) : State :=
  match slotAt s i with
  | none => s
  | some t =>
    let s := setSlot s i (some { t with
      state := .reply, status := some status, replySince := s.event })
    { s with table :=
      { s.table with responses := s.table.responses.set t.link (s.table.responses.get t.link ++ [i]) } }

/-- Free a slot without a response. -/
def freeTxn (s : State) (i : Nat) : State := setSlot s i none

/-- A transaction whose outcome is decided goes to REPLY, or is freed if it is an orphan (01 R24). -/
def finish (s : State) (i : Nat) (status : MemStatus) : State :=
  match slotAt s i with
  | none => s
  | some t => if t.orphan then freeTxn s i else enterReply s i status

/-- A warm reset is between its taking and its reset point (09 R162). -/
def warmReset (s : State) : Bool := s.chan.warm.isSome

/-- A link is in service while it is UP or RETRY (10 R168). -/
def inService (s : State) (x : Link) : Bool :=
  (linkOf s x).state = .up || (linkOf s x).state = .retry

end Machine

end Sys2Proof
end

