-- ==== Sys2Proof/Machine/Operands.lean ====
section
/-! DEFINITION. What the operands of requests and table entries say: spans, masks, lines, locations,
the MALFORMED and ALIGN checks, and the twelve bytes of a table entry. -/

namespace Sys2Proof.Machine

/-! ## Spans (01 R1, R10, R14) -/

/-- The number of blocks of the span; a FENCE has none (01 R1). -/
def spanCount (t : Txn) : Nat := t.count.getD 0

/-- The kind is a WRITE or a LOCK-WRITE (06 R103). -/
def isWrite (t : Txn) : Bool := t.kind = .write || t.kind = .lockWrite

/-- The kind is a READ or a LOCK-READ. -/
def isRead (t : Txn) : Bool := t.kind = .read || t.kind = .lockRead

/-- The physical block addresses of the span, ascending; none before translation. -/
def spanBlocks (t : Txn) : List Nat :=
  match t.phys with
  | none => []
  | some p => (List.range (spanCount t)).map fun i => p + 32 * i

/-- The physical spans share at least one block (01 R14). -/
def overlap (t u : Txn) : Bool := (spanBlocks t).any fun b => (spanBlocks u).contains b

/-- Two transactions conflict when their spans overlap and one of them is a write (01 R14). -/
def conflict (t u : Txn) : Bool := overlap t u && (isWrite t || isWrite u)

/-- The request's fields cannot be carried out as given (01 R7). -/
def malformed (t : Txn) : Bool :=
  let n := spanCount t
  let badCount := n = 0 || 8 < n
  let badMasks := match t.masks with
    | none => false
    | some ms => ms.length ≠ n
  match t.kind with
  | .read => badCount || t.unusedSet
  | .write => badCount || t.data.length ≠ n || badMasks
  | .lockRead => badCount || n ≠ 1 || t.unusedSet
  | .lockWrite => badCount || n ≠ 1 || t.data.length ≠ n || badMasks
  | .lockDrop => t.unusedSet
  | .fence => false

/-- The link address is not a multiple of 32, or the span crosses a 256-byte boundary (01 R10). -/
def misaligned (t : Txn) : Bool :=
  match t.addr with
  | none => false
  | some a => a.toNat % 32 ≠ 0 || a.toNat / 256 ≠ (a.toNat + 32 * (spanCount t - 1)) / 256

/-! ## Masks (01 R3, R16; 08 R143) -/

/-- What a mask makes of its block in a partial write (08 R143). -/
inductive BlockUse where
  | untouched
  | partialBlock
  | full
  deriving DecidableEq, Repr

/-- The use a mask makes of its block; an absent mask selects every byte. -/
def useOf : Option Mask → BlockUse
  | none => .full
  | some m => if m = 0 then .untouched else if m = BitVec.allOnes 32 then .full else .partialBlock

/-- The mask of block `i` of a span, absent where the request has no mask list. -/
def maskAt (t : Txn) (i : Nat) : Option Mask := t.masks.map fun ms => ms.getD i 0

/-- The use of block `i` of a write's span. -/
def blockUse (t : Txn) (i : Nat) : BlockUse := useOf (maskAt t i)

/-- A mask list holds a mask that selects some bytes of its block but not all (01 R3). -/
def someMerge (masks : Option (List Mask)) : Bool :=
  match masks with
  | none => false
  | some ms => ms.any fun m => useOf (some m) = .partialBlock

/-- The numbers of the blocks of a write's span with a given use, in column order. -/
def blocksUsed (t : Txn) (u : BlockUse) : List Nat :=
  (List.range (spanCount t)).filter fun i => blockUse t i = u

/-- The 256 bits that a byte mask selects. -/
def maskBits (m : Mask) : Block :=
  blockOfBytes ((List.range 32).map fun k => if m.getLsbD k then 0xFF#8 else 0#8)

/-- A merged block: new bytes where the mask selects, old bytes where it does not (08 R143). -/
def mergeBlock (m : Mask) (old new : Block) : Block :=
  (new &&& maskBits m) ||| (old &&& ~~~ maskBits m)

/-! ## Lines (06 R103, R109) -/

/-- The 64-byte line that holds a physical address. -/
def lineOf (p : Nat) : Nat := p / 64 * 64

/-- A list without repeats, first occurrences kept. -/
def distinct : List Nat → List Nat
  | [] => []
  | x :: xs => x :: (distinct xs).filter fun y => y ≠ x

/-- The lines a span touches, ascending. -/
def linesTouched (t : Txn) : List Nat := distinct ((spanBlocks t).map lineOf)

/-- The lines written: those with a block that stores at least one byte (06 R103). -/
def linesWritten (t : Txn) : List Nat :=
  match t.phys with
  | none => []
  | some p => distinct (((List.range (spanCount t)).filter fun i => blockUse t i ≠ .untouched).map
      fun i => lineOf (p + 32 * i))

/-! ## Locations (03 R47, 02 R29) -/

/-- The installed capacity in bytes (02 R29). -/
def capacity (g : Geometry) : Nat := g.ranks * g.banks * g.rows * 2048

/-- The location of the block at a physical address under a geometry (03 R47). -/
def locate (g : Geometry) (phys : Nat) : Location :=
  let b := phys / 32
  let row := b / (64 * g.banks) % g.rows
  let rank := b / (64 * g.banks * g.rows)
  match g.interleave with
  | .rowMajor => ⟨rank, b / 64 % g.banks, row, b % 64⟩
  | .spanRotate => ⟨rank, b / 8 % g.banks, row, b % 8 + 8 * (b / (8 * g.banks) % 8)⟩

/-- The first cell of block `i` of a span that begins at a location. -/
def blockCell (l : Location) (i : Nat) : Nat := cellOf l.rank l.bank l.row (l.column + i) 0

/-! ## Table entries (11 section 11.9, 02 R35) -/

/-- Byte `i` of an entry's twelve. -/
def entryByte (e : BitVec 96) (i : Nat) : Nat := (e.extractLsb' (8 * (11 - i)) 8).toNat

/-- A yes or no code. -/
def boolCode : Nat → Option Bool
  | 0 => some false
  | 1 => some true
  | _ => none

/-- A links code of a window. -/
def linksCode : Nat → Option WindowLinks
  | 1 => some .a
  | 2 => some .b
  | 3 => some .both
  | _ => none

/-- An access code of a region. -/
def accessCode : Nat → Option Access
  | 0 => some .none
  | 1 => some .read
  | 2 => some .readWrite
  | _ => none

/-- The size of a window in bytes (11 section 11.9). -/
def windowSize (w : Window) : Nat := 65536 * 2 ^ w.sizeCode

/-- The alignment and range checks of a valid window (02 R35 step 4). -/
def windowFits (w : Window) : Bool :=
  w.linkBase.toNat % windowSize w = 0 && w.physBase.toNat % windowSize w = 0 &&
    w.physBase.toNat < 2 ^ 30

/-- The range check of a valid region (02 R35 step 4). -/
def regionFits (r : Region) : Bool := r.limit.toNat ≤ 16383 && r.base.toNat ≤ r.limit.toNat

/-- A WINDOW entry, or none for BAD_VALUE (02 R35). An entry with valid no is held at cold values. -/
def windowOfEntry (e : BitVec 96) : Option Window :=
  match boolCode (entryByte e 0), linksCode (entryByte e 1), decide (entryByte e 2 ≤ 14) with
  | some false, some _, true => some coldWindow
  | some true, some l, true =>
    let w : Window := ⟨true, l, entryByte e 2, e.extractLsb' 32 40, e.extractLsb' 0 32⟩
    if windowFits w then some w else none
  | _, _, _ => none

/-- The rights of a REGION or DEFAULT entry, or none where a code names no value. -/
def rightsOfEntry (e : BitVec 96) : Option Rights :=
  match accessCode (entryByte e 5), accessCode (entryByte e 6), boolCode (entryByte e 7),
      boolCode (entryByte e 8) with
  | some a, some b, some n, some l => some ⟨a, b, n, l⟩
  | _, _, _, _ => none

/-- A REGION entry, or none for BAD_VALUE (02 R35). An entry with valid no is held at cold values. -/
def regionOfEntry (e : BitVec 96) : Option Region :=
  match boolCode (entryByte e 0), rightsOfEntry e with
  | some false, some _ => some coldRegion
  | some true, some rights =>
    let r : Region := ⟨true, e.extractLsb' 72 16, e.extractLsb' 56 16, rights⟩
    if regionFits r then some r else none
  | _, _ => none

/-- A yes or no field as its code. -/
def codeOfBool (b : Bool) : Nat := if b then 1 else 0

/-- A window's links field as its code. -/
def codeOfLinks : WindowLinks → Nat
  | .a => 1
  | .b => 2
  | .both => 3

/-- An access field as its code. -/
def codeOfAccess : Access → Nat
  | .none => 0
  | .read => 1
  | .readWrite => 2

/-- The twelve bytes of a window entry. -/
def entryOfWindow (w : Window) : BitVec 96 :=
  BitVec.ofNat 8 (codeOfBool w.valid) ++ BitVec.ofNat 8 (codeOfLinks w.links)
    ++ BitVec.ofNat 8 w.sizeCode ++ w.linkBase ++ w.physBase

/-- The twelve bytes of a region entry; unused bytes are 0. -/
def entryOfRegion (r : Region) : BitVec 96 :=
  BitVec.ofNat 8 (codeOfBool r.valid) ++ r.base ++ r.limit
    ++ BitVec.ofNat 8 (codeOfAccess r.rights.accessA)
    ++ BitVec.ofNat 8 (codeOfAccess r.rights.accessB)
    ++ BitVec.ofNat 8 (codeOfBool r.rights.notify)
    ++ BitVec.ofNat 8 (codeOfBool r.rights.lockable) ++ 0#24

/-- The twelve bytes of the Default Region record: valid, base and limit are 0 (11 R184). -/
def entryOfDefault (r : Rights) : BitVec 96 :=
  entryOfRegion ⟨false, 0, 0, r⟩

end Sys2Proof.Machine
end

