-- ==== Sys2Proof/Machine/Flags.lean ====
section
/-! DEFINITION. The codes of statuses, kinds and causes (file 11), and the STATUS record: the status
fields the hub shows, each computed from the state of the block that owns it (09 R158). -/

namespace Sys2Proof.Machine

/-! ## Codes (11 sections 11.2, 11.4, 11.6) -/

/-- Memory status codes. -/
def memStatusCode : MemStatus → Nat
  | .ok => 0x00
  | .malformed => 0x01
  | .tagInUse => 0x02
  | .notReady => 0x03
  | .align => 0x04
  | .unmapped => 0x05
  | .range => 0x06
  | .denied => 0x07
  | .lockRefused => 0x08
  | .lockLost => 0x09
  | .poison => 0x0A
  | .staleNotice => 0x0B

/-- Management status codes. -/
def mgmtStatusCode : MgmtStatus → Nat
  | .ok => 0x00
  | .notOwner => 0x01
  | .claimed => 0x02
  | .badIndex => 0x03
  | .badValue => 0x04
  | .wrongState => 0x05
  | .busy => 0x06
  | .commitTimeout => 0x07

/-- Block status codes. -/
def blockStatusCode : BlockStatus → Nat
  | .ok => 0x00
  | .corrected => 0x01
  | .poison => 0x02

/-- Kind codes of the management kinds. -/
def mgmtKindCode : MgmtKind → Nat
  | .mgmtRead => 0x20
  | .mgmtWrite => 0x21
  | .tableRead => 0x22
  | .tableWrite => 0x23
  | .tableCommit => 0x24
  | .tableRevert => 0x25
  | .claim => 0x26
  | .release => 0x27
  | .channelStart => 0x28
  | .channelQuiesce => 0x29
  | .channelResume => 0x2A
  | .hubReset => 0x2B

/-- Alert kind codes. -/
def alertKindCode : AlertKind → Nat
  | .linkDown => 0x01
  | .protocol => 0x02
  | .corrected => 0x03
  | .uncorrectable => 0x04
  | .lockBroken => 0x05
  | .noticeTimeout => 0x06
  | .cueMissing => 0x07
  | .refreshOverrun => 0x08
  | .leaseExpired => 0x09

/-- Cause codes. -/
def causeCode : Cause → Nat
  | .requestOverrun => 0x01
  | .mgmtOverrun => 0x02
  | .unknownAck => 0x03
  | .wrongCue => 0x04
  | .unknownPacket => 0x05
  | .read => 0x10
  | .merge => 0x11
  | .expiry => 0x20
  | .quiesce => 0x21
  | .retry => 0x30
  | .replay => 0x31
  | .partnerReset => 0x32
  | .restart => 0x33

/-- A link as the codes of CUE_LINK, ALERT_LINK and an alert's link: 0 A, 1 B. -/
def linkCode : Link → Nat
  | .a => 0
  | .b => 1

/-- A holder as the codes of CLAIM_HOLDER and TENURE_HOLDER: 0 NONE, 1 A, 2 B. -/
def holderCode : Option Link → Nat
  | none => 0
  | some .a => 1
  | some .b => 2

/-! ## The STATUS record (09 R158, 11 section 11.10) -/

/-- The fields of STATUS, in the order of their numbers. -/
inductive StatusField where
  | channelState
  | epoch
  | commitState
  | claimHolder
  | longOperation
  | refreshDebt
  | tenureHolder
  | tenurePhase
  | slots (x : Link)
  | currentLimit (x : Link)
  | locksInUse
  | notices (x : Link)
  | correctedCount
  | alertsQueued
  | alertsDropped
  deriving DecidableEq, Repr

/-- A STATUS field by its number. -/
def statusField : Nat → Option StatusField
  | 0 => some .channelState
  | 1 => some .epoch
  | 2 => some .commitState
  | 3 => some .claimHolder
  | 4 => some .longOperation
  | 5 => some .refreshDebt
  | 6 => some .tenureHolder
  | 7 => some .tenurePhase
  | 8 => some (.slots .a)
  | 9 => some (.slots .b)
  | 10 => some (.currentLimit .a)
  | 11 => some (.currentLimit .b)
  | 12 => some .locksInUse
  | 13 => some (.notices .a)
  | 14 => some (.notices .b)
  | 15 => some .correctedCount
  | 16 => some .alertsQueued
  | 17 => some .alertsDropped
  | _ => none

/-- CHANNEL_STATE codes. -/
def channelStateCode : ChannelState → Nat
  | .init => 0
  | .starting => 1
  | .run => 2
  | .quiescing => 3
  | .quiesced => 4
  | .resuming => 5

/-- LONG_OPERATION codes, least significant byte. The spec gives a warm reset no code: no management
packet is taken during one, so no read answers it (09 R162). -/
def longKindCode : LongKind → Nat
  | .commit => 1
  | .start => 2
  | .quiesce => 3
  | .resume => 4
  | .hubReset => 0

/-- TENURE_PHASE codes. -/
def phaseCode : Option Phase → Nat
  | none => 0
  | some .guaranteed => 1
  | some .opened => 2

/-- The value of a STATUS field (09 R158). -/
def readStatus (s : State) : StatusField → Nat
  | .channelState => channelStateCode s.chan.state
  | .epoch => s.xlate.epoch.toNat
  | .commitState => match s.xlate.commit with
    | .steady => 0
    | .draining => 1
  | .claimHolder => holderCode s.mgmt.claim
  | .longOperation => match s.mgmt.longOp with
    | none => 0
    | some (k, x) => longKindCode k + 256 * linkCode x
  | .refreshDebt => s.refresh.debt
  | .tenureHolder => holderCode s.tenure.holder
  | .tenurePhase => phaseCode s.tenure.phase
  | .slots x => (liveOf s x).length
  | .currentLimit x => (linkOf s x).currentLimit
  | .locksInUse => s.locks.length
  | .notices x => (s.notices.get x).queue.length
  | .correctedCount => s.chan.correctedCount
  | .alertsQueued => s.mgmt.alerts.length
  | .alertsDropped => s.mgmt.dropped

end Sys2Proof.Machine
end

