-- ==== Sys2Proof/Machine/Translate.lean ====
section
/-! DEFINITION. The Translation Unit (file 02): window and region lookup, reverse lookup, revert and
the switch of a commit. -/

namespace Sys2Proof.Machine

/-- A window serves the requests of a link (02 R27, R28). -/
def servesLink (w : Window) (x : Link) : Bool :=
  match w.links, x with
  | .both, _ => true
  | .a, .a => true
  | .b, .b => true
  | _, _ => false

/-- A window covers a link address (02 R27). -/
def coversLink (w : Window) (addr : Nat) : Bool :=
  w.linkBase.toNat ≤ addr && addr < w.linkBase.toNat + windowSize w

/-- A window's physical range holds a physical address (06 R104). -/
def coversPhys (w : Window) (p : Nat) : Bool :=
  w.physBase.toNat ≤ p && p < w.physBase.toNat + windowSize w

/-- The window lookup of a link address: the lowest valid entry that serves the link and covers the
address (02 R28). -/
def lookupWindow (t : TableSet) (x : Link) (addr : Nat) : Option Window :=
  t.windows.find? fun w => w.valid && servesLink w x && coversLink w addr

/-- The physical address a link address maps to (02 R28). -/
def lookupPhys (t : TableSet) (x : Link) (addr : Nat) : Option Nat :=
  (lookupWindow t x addr).map fun w => w.physBase.toNat + (addr - w.linkBase.toNat)

/-- The reverse lookup of a line for a target link: its address in the target's space (06 R104). -/
def reverseLookup (t : TableSet) (y : Link) (line : Nat) : Option LinkAddr :=
  (t.windows.find? fun w => w.valid && servesLink w y && coversPhys w line).map fun w =>
    BitVec.ofNat 40 (w.linkBase.toNat + (line - w.physBase.toNat))

/-- A valid region contains a physical address: its granule lies between base and limit (02 R30). -/
def containsPhys (r : Region) (p : Nat) : Bool :=
  r.valid && r.base.toNat ≤ p / 65536 && p / 65536 ≤ r.limit.toNat

/-- The region of a physical span: the lowest valid entry that contains it, or the Default Region
record (02 R31). -/
def regionOf (t : TableSet) (p : Nat) : Rights :=
  match t.regions.find? fun r => containsPhys r p with
  | some r => r.rights
  | none => t.default

/-- The access field of a region for a link. -/
def accessOf (r : Rights) : Link → Access
  | .a => r.accessA
  | .b => r.accessB

/-- The access check and the lockable test (02 R32): none when the request passes. -/
def accessCheck (r : Rights) (x : Link) (kind : ReqKind) : Option MemStatus :=
  match kind, accessOf r x with
  | .read, .read => none
  | .read, .readWrite => none
  | .read, .none => some .denied
  | .write, .readWrite => none
  | .write, _ => some .denied
  | .lockWrite, .readWrite => none
  | .lockWrite, _ => some .denied
  | .lockRead, .readWrite => if r.lockable then none else some .lockRefused
  | .lockRead, _ => some .denied
  | .lockDrop, _ => none
  | .fence, _ => none

/-- Translation of a request (02 R28, R29, R32, R33): the refusal, or the physical address. The range
check is made on the last byte of the span. -/
def translate (s : State) (t : Txn) : Except MemStatus Nat :=
  match t.addr with
  | none => .error .unmapped
  | some a =>
    match lookupPhys s.xlate.active t.link a.toNat with
    | none => .error .unmapped
    | some p =>
      if capacity s.settings.geometry ≤ p + 32 * spanCount t - 1 then .error .range
      else match accessCheck (regionOf s.xlate.active p) t.link t.kind with
        | some refusal => .error refusal
        | none => .ok p

/-- SHADOW takes the ACTIVE set (02 R37). -/
def revertShadow (s : State) : State :=
  { s with xlate := { s.xlate with shadow := s.xlate.active } }

/-- The revert made when the claim is freed: at once, or held while a commit drains (09 R153). -/
def revertAtFreeing (s : State) : State :=
  if s.xlate.commit = .draining then { s with xlate := { s.xlate with heldRevert := true } }
  else revertShadow s

/-- Both Recent Line Lists are cleared (06 R109). -/
def clearRecent (s : State) : State :=
  { s with notices :=
    ⟨{ s.notices.a with recent := [] }, { s.notices.b with recent := [] }⟩ }

/-- A revert held until the end of the commit is carried out (02 R37). -/
def makeHeldRevert (s : State) : State :=
  if s.xlate.heldRevert then
    let s := revertShadow s
    { s with xlate := { s.xlate with heldRevert := false } }
  else s

/-- The switch of a commit (02 R40), with the revert held for its end. -/
def commitSwitch (s : State) : State :=
  makeHeldRevert (clearRecent { s with xlate :=
    { s.xlate with
      active := s.xlate.shadow
      epoch := s.xlate.epoch + 1
      commit := .steady
      commitTimer := .stopped } })

/-- A draining commit is abandoned: ACTIVE and the epoch stand (02 R42). -/
def abandonCommit (s : State) : State :=
  makeHeldRevert { s with xlate :=
    { s.xlate with commit := .steady, commitTimer := .stopped } }

end Sys2Proof.Machine
end

