-- ==== Sys2Proof/Machine/Order.lean ====
section
/-! DEFINITION. Ordering points and predecessors (01 R13 to R15) and fences (01 R20). -/

namespace Sys2Proof.Machine

/-- A translation number is earlier than another, across the wrap (01 R2). -/
def earlierTrans (s : State) (n m : BitVec 32) : Bool :=
  age s.table.transCounter m < age s.table.transCounter n

/-- Slot `j` may be the predecessor of `t` in slot `i`: it has a translation number earlier than
`t`'s, if `t` has one, is in QUEUED, ACCESS or MERGE, and conflicts with `t` (01 R14, R15). -/
def predCandidate (s : State) (i : Nat) (t : Txn) (j : Nat) (u : Txn) : Bool :=
  j ≠ i && onChannelPath u && conflict t u &&
    match u.transNo, t.transNo with
    | none, _ => false
    | some _, none => true
    | some n, some m => earlierTrans s n m

/-- The later in translation order of two candidates. -/
def laterTrans (s : State) (best : Option (Nat × Txn)) (c : Nat × Txn) : Option (Nat × Txn) :=
  match best with
  | none => some c
  | some b =>
    match b.2.transNo, c.2.transNo with
    | some n, some m => if earlierTrans s n m then some c else some b
    | _, _ => some b

/-- The predecessor of `t` in slot `i`: the candidate with the latest translation number. -/
def choosePred (s : State) (i : Nat) (t : Txn) : Option Nat :=
  (((liveSlots s).filter fun p => predCandidate s i t p.1 p.2).foldl (laterTrans s) none).map
    fun p => p.1

/-- The ordering point of the transaction in slot `i`: translation number, first predecessor, no lock
wait (01 R13, R14). -/
def orderingPoint (s : State) (i : Nat) : State :=
  match slotAt s i with
  | none => s
  | some t =>
    let s' := setSlot s i (some { t with
      transNo := some s.table.transCounter
      pred := choosePred s i { t with transNo := none }
      lockWait := none })
    { s' with table := { s'.table with transCounter := s'.table.transCounter + 1 } }

/-- Every transaction that names one of `gone` as its predecessor chooses again (01 R15). -/
def reexamine (s : State) (gone : List Nat) : State :=
  withSlots s (s.table.slots.zipIdx.map fun q =>
    q.1.map fun t =>
      match t.pred with
      | none => t
      | some p => if gone.contains p then { t with pred := choosePred s q.2 t } else t)

/-- The predecessor is pending: it has not finished its DRAM access (01 R14). -/
def predPending (s : State) (t : Txn) : Bool :=
  match t.pred with
  | none => false
  | some p => match slotAt s p with
    | none => false
    | some u => onChannelPath u

/-- A FENCE of link `x` is in FENCE-WAIT, which holds the link's intake order (01 R5). -/
def fenceWaiting (s : State) (x : Link) : Bool :=
  (liveOf s x).any fun p => p.2.state = .fenceWait

/-- The fence condition: no live request of the link arrived before it (01 R20). -/
def fenceCondition (s : State) (t : Txn) : Bool :=
  (liveOf s t.link).all fun p => !arrivedBefore s p.2 t

/-- The FENCE of link `x` whose condition holds goes to REPLY with OK (01 R20). -/
def settleFence (s : State) (x : Link) : State :=
  match (liveOf s x).find? fun p => p.2.state = .fenceWait && fenceCondition s p.2 with
  | none => s
  | some p => enterReply s p.1 .ok

end Sys2Proof.Machine
end

