-- ==== Sys2Proof/Machine/Locks.lean ====
section
/-! DEFINITION. The Lock Table (file 05): blocking, taking, releasing and removing lock entries. The
list of entries is in order of creation; a slot waits on the entry whose block its lock wait names. -/

namespace Sys2Proof.Machine

/-- The entry on a block, if one is in use. -/
def lockOn (s : State) (block : Nat) : Option LockEntry :=
  s.locks.find? fun e => e.block = block

/-- The entries a link holds, older first. -/
def locksOf (s : State) (x : Link) : List LockEntry := s.locks.filter fun e => e.holder = x

/-- The smaller of two optional numbers. -/
def minOption : Option Nat → Nat → Option Nat
  | none, b => some b
  | some a, b => some (min a b)

/-- The lowest block of an entry that the transaction's link does not hold and whose block lies in its
span (05 R91). -/
def blockingEntry (s : State) (t : Txn) : Option Nat :=
  (((s.locks.filter fun e => e.holder ≠ t.link && (spanBlocks t).contains e.block).map
    fun e => e.block).foldl minOption none)

/-- The wait list of the entry on a block, by arrival number (05 R87). -/
def waitList (s : State) (block : Nat) : List (Nat × Txn) :=
  byArrival s ((liveSlots s).filter fun p => p.2.lockWait = some block)

/-- The slot waits on the entry of a block. -/
def waitOn (s : State) (i block : Nat) : State :=
  modSlot s i fun t => { t with lockWait := some block }

/-- A free entry is taken in PENDING (05 R89). -/
def takeLock (s : State) (i : Nat) (x : Link) (block : Nat) : State :=
  { s with locks := s.locks ++ [⟨x, block, .pending, some i, .stopped⟩] }

/-- Change the entry on a block. -/
def modLock (s : State) (block : Nat) (f : LockEntry → LockEntry) : State :=
  { s with locks := s.locks.map fun e => if e.block = block then f e else e }

/-- One waiter of a removed entry is re-examined (05 R92). -/
def reexamineWaiter (s : State) (i : Nat) : State :=
  match slotAt s i with
  | none => s
  | some t =>
    match t.kind, spanBlocks t with
    | .lockRead, block :: _ =>
      match lockOn s block, locksOf s t.link with
      | some _, _ => waitOn s i block
      | none, older :: _ :: _ => waitOn s i older.block
      | none, _ => orderingPoint (takeLock s i t.link block) i
    | _, _ =>
      match blockingEntry s t with
      | some block => waitOn s i block
      | none => orderingPoint s i

/-- Entries are removed and their waiters re-examined, one wait list after another in order of the
entries' creation (05 R92). All the entries are gone before the first waiter is judged. -/
def removeLocks (s : State) (which : LockEntry → Bool) : State :=
  let waiters := (s.locks.filter which).flatMap fun e => (waitList s e.block).map fun p => p.1
  waiters.foldl reexamineWaiter { s with locks := s.locks.filter fun e => !which e }

/-- The entry on a block is removed. -/
def removeLock (s : State) (block : Nat) : State := removeLocks s fun e => e.block = block

/-- The entry of link `x` on `block` that is HELD (05 R93, R95). -/
def heldBy (s : State) (x : Link) (block : Nat) : Bool :=
  s.locks.any fun e => e.block = block && e.holder = x && e.state = .held

/-- The block of the entry a slot owns in a given state. -/
def ownedLock (s : State) (i : Nat) (st : LockState) : Option Nat :=
  (s.locks.find? fun e => e.owner = some i && e.state = st).map fun e => e.block

/-- Link `x` holds an entry in HELD or WRITING for the gate and the hand-over point; a WRITING entry
whose LOCK-WRITE has a pending predecessor of the other link is not counted (04 R70, R75). -/
def holdsLock (s : State) (x : Link) : Bool :=
  s.locks.any fun e => e.holder = x &&
    match e.state with
    | .pending => false
    | .held => true
    | .writing =>
      match e.owner.bind (slotAt s) with
      | none => true
      | some t =>
        match t.pred.bind (slotAt s) with
        | none => true
        | some u => !(onChannelPath u && u.link ≠ x)

end Sys2Proof.Machine
end

