-- ==== Sys2Proof/Machine/Notices.lean ====
section
/-! DEFINITION. The Notice Unit (file 06): which writes need notices, reservation, sending, the Recent
Line List, acknowledgement, timeout, re-arming and discarding. A slot is named in an entry's claimants
and waiters; its notice waits are the entries that name it as a waiter. -/

namespace Sys2Proof.Machine

/-- What the Notice Unit keeps for target `y`. -/
def targetOf (s : State) (y : Link) : NoticeTarget := s.notices.get y

/-- Change what the Notice Unit keeps for target `y`. -/
def modTarget (s : State) (y : Link) (f : NoticeTarget → NoticeTarget) : State :=
  { s with notices := s.notices.set y (f (s.notices.get y)) }

/-- A write needs notices: its region says notify, the other link caches and is in service (06 R103). -/
def needsNotices (s : State) (t : Txn) : Bool :=
  isWrite t && (match t.phys with
    | none => false
    | some p => (regionOf s.xlate.active p).notify) &&
    s.settings.notices.caching.get (otherLink t.link) && inService s (otherLink t.link)

/-- The notified set of a write: its lines written that have a reverse mapping (06 R103, R104). -/
def notifiedSet (s : State) (t : Txn) : List Nat :=
  if needsNotices s t then
    (linesWritten t).filter fun l =>
      (reverseLookup s.xlate.active (otherLink t.link) l).isSome
  else []

/-- The target's queue holds an entry for the line. -/
def hasEntry (n : NoticeTarget) (line : Nat) : Bool := n.queue.any fun e => e.line = line

/-- The lines of the notified set that join an entry (06 R105). -/
def joinLines (s : State) (t : Txn) : List Nat :=
  (notifiedSet s t).filter fun l => hasEntry (targetOf s (otherLink t.link)) l

/-- The lines of the notified set that need a new entry: no entry, and not filtered (06 R105). -/
def newLines (s : State) (t : Txn) : List Nat :=
  (notifiedSet s t).filter fun l =>
    !hasEntry (targetOf s (otherLink t.link)) l &&
      !(s.settings.notices.filter && (targetOf s (otherLink t.link)).recent.contains l)

/-- The free places of a target's queue (06 R101). -/
def freePlaces (n : NoticeTarget) : Nat := noticeRoom - n.queue.length

/-- The Notice Unit finds enough free entries for the write (06 R105, condition 5 of 03 R54). -/
def noticesFit (s : State) (t : Txn) : Bool :=
  (newLines s t).length ≤ freePlaces (targetOf s (otherLink t.link))

/-- Change the entry of a target's queue for a line. -/
def modEntry (s : State) (y : Link) (line : Nat) (f : NoticeEntry → NoticeEntry) : State :=
  modTarget s y fun n => { n with queue := n.queue.map fun e => if e.line = line then f e else e }

/-- The reservation at the issue of the write in slot `i` (06 R105). -/
def reserveNotices (s : State) (i : Nat) (t : Txn) : State :=
  let y := otherLink t.link
  let joined := (joinLines s t).foldl (fun st l =>
    modEntry st y l fun e => { e with claimants := insertSlot st i e.claimants }) s
  modTarget joined y fun n =>
    { n with queue := n.queue ++ (newLines s t).map fun l => ⟨l, .reserved, .stopped, [i], []⟩ }

/-- A SENT entry of the queue holds the number. -/
def numberTaken (n : NoticeTarget) (k : Byte) : Bool :=
  n.queue.any fun e => match e.state with
    | .sent m _ => m = k
    | .reserved => false

/-- The first number from `k` on that no SENT entry holds; a queue of at most 16 entries leaves one
within 16 steps (06 R107). -/
def pickNumber (n : NoticeTarget) : Nat → Byte → Byte
  | 0, k => k
  | fuel + 1, k => if numberTaken n k then pickNumber n fuel (k + 1) else k

/-- A RESERVED entry is sent: number, link address, timer, and the NOTICE handed to the target's Link
Controller (06 R106, R107). An entry that is claimed was judged under the same ACTIVE set, so the
reverse lookup answers. -/
def sendEntry (s : State) (y : Link) (line : Nat) : State :=
  let n := targetOf s y
  let k := pickNumber n noticeRoom n.counter
  let addr := (reverseLookup s.xlate.active y line).getD 0
  let s := modEntry s y line fun e =>
    { e with state := .sent k addr, timer := loaded (usUnits s.settings.notices.limit) }
  let s := modTarget s y fun n => { n with counter := k + 1 }
  modLink s y fun l => { l with notices := l.notices ++ [⟨k, addr, s.event⟩] }

/-- One entry that the performed write in slot `i` claims: the write becomes a waiter, and the entry
is sent if it is RESERVED (06 R106). -/
def performEntry (y : Link) (i : Nat) (s : State) (line : Nat) : State :=
  let wasReserved := (targetOf s y).queue.any fun e => e.line = line && e.state = .reserved
  let s := modEntry s y line fun e =>
    { e with
      claimants := e.claimants.filter fun j => j ≠ i
      waiters := insertSlot s i e.waiters }
  if wasReserved then sendEntry s y line else s

/-- A line is placed at the end of a Recent Line List of at most 8 lines (06 R109). -/
def placeRecent (recent : List Nat) (line : Nat) : List Nat :=
  let others := recent.filter fun l => l ≠ line
  (if others.length < recentRoom then others else others.drop 1) ++ [line]

/-- The lines that the write in slot `i` claims in a target's queue, in queue order. -/
def claimedLines (n : NoticeTarget) (i : Nat) : List Nat :=
  (n.queue.filter fun e => e.claimants.contains i).map fun e => e.line

/-- The notices of a performed write (06 R106): its entries in queue order, then their lines into the
Recent Line List. -/
def performNotices (s : State) (i : Nat) (t : Txn) : State :=
  let y := otherLink t.link
  let lines := claimedLines (targetOf s y) i
  let s := lines.foldl (performEntry y i) s
  modTarget s y fun n => { n with recent := lines.foldl placeRecent n.recent }

/-- The write in slot `i` waits on an entry of the queue of target `y`. -/
def waitsLeft (s : State) (y : Link) (i : Nat) : Bool :=
  (targetOf s y).queue.any fun e => e.waiters.contains i

/-- A failed merge gives up its claims; a RESERVED entry left with no claimant is released (06 R108). -/
def giveUpClaims (s : State) (i : Nat) (t : Txn) : State :=
  modTarget s (otherLink t.link) fun n =>
    { n with queue := (n.queue.map fun e =>
        { e with claimants := e.claimants.filter fun j => j ≠ i }).filter fun e =>
          !(e.state = .reserved && e.claimants.isEmpty) }

/-- A write whose last notice wait is dropped leaves NOTIFY (01 R19). -/
def leaveNotify (s : State) (i : Nat) : State :=
  match slotAt s i with
  | none => s
  | some t => finish s i (if t.stale then .staleNotice else .ok)

/-- One waiter drops its wait on an entry whose waiters are already cleared: its stale flag is set at
a timeout, and it leaves NOTIFY if no wait is left (01 R19, 06 R110, R111). -/
def dropWait (y : Link) (timeout : Bool) (s : State) (i : Nat) : State :=
  let s := if timeout then modSlot s i fun t => { t with stale := true } else s
  if waitsLeft s y i then s else leaveNotify s i

/-- The waiters of the entry for a line drop their waits on it, in waiter order. -/
def dropWaiters (s : State) (y : Link) (line : Nat) (timeout : Bool) : State :=
  let waiters := ((targetOf s y).queue.filter fun e => e.line = line).flatMap fun e => e.waiters
  waiters.foldl (dropWait y timeout)
    (modEntry s y line fun e => { e with waiters := [], timer := .stopped })

/-- An entry that is acknowledged or has timed out is removed, or re-armed if it has claimants
(06 R110, R111, R113). -/
def removeOrRearm (s : State) (y : Link) (line : Nat) : State :=
  modTarget s y fun n =>
    { n with queue := (n.queue.filter fun e => !(e.line = line && e.claimants.isEmpty)).map fun e =>
        if e.line = line then { e with state := .reserved, timer := .stopped, waiters := [] } else e }

/-- The line of the SENT entry that holds a number. -/
def lineOfNumber (n : NoticeTarget) (k : Byte) : Option Nat :=
  (n.queue.find? fun e => match e.state with
    | .sent m _ => m = k
    | .reserved => false).map fun e => e.line

/-- The SENT entry that holds a number and whose timer runs. -/
def runningNotice (n : NoticeTarget) (k : Byte) : Option Nat :=
  (n.queue.find? fun e => timerRuns e.timer && match e.state with
    | .sent m _ => m = k
    | .reserved => false).map fun e => e.line

/-- A line leaves target `y`'s Recent Line List. -/
def forgetRecent (s : State) (y : Link) (lines : List Nat) : State :=
  modTarget s y fun n => { n with recent := n.recent.filter fun l => !lines.contains l }

/-- An entry is discarded at its target's link reset: its waiters drop their waits as at an
acknowledgement, and it goes, whatever its claimants (06 R114). -/
def discardEntry (y : Link) (s : State) (line : Nat) : State :=
  let s := dropWaiters s y line false
  modTarget s y fun n => { n with queue := n.queue.filter fun e => e.line ≠ line }

/-- The Notice Unit at a link reset of target `y` (06 R114). -/
def discardTarget (s : State) (y : Link) : State :=
  let lines := (targetOf s y).queue.map fun e => e.line
  modTarget (lines.foldl (discardEntry y) s) y fun _ => emptyTarget

end Sys2Proof.Machine
end

