-- ==== Sys2Proof/Machine/Scheduler.lean ====
section
/-! DEFINITION. The Bank Scheduler (file 03): banks by position, eligibility, the bank's choice, the
issue arbiter, room and victims, close requests, and the after-access decision. -/

namespace Sys2Proof.Machine

/-! ## Banks and ranks (03 R48) -/

/-- The channel is RUN or QUIESCING: transactions are served and episodes may begin (03 R54, 07 section
7.4, 08 R130). -/
def channelServes (s : State) : Bool := s.chan.state = .run || s.chan.state = .quiescing

/-- The number of installed banks. -/
def bankCount (s : State) : Nat := s.settings.geometry.ranks * s.settings.geometry.banks

/-- The rank of a position (03 R48: position = rank × N + bank). -/
def rankOf (s : State) (pos : Nat) : Nat := pos / s.settings.geometry.banks

/-- The installed ranks, rank 0 first. -/
def installedRanks (s : State) : List Nat := List.range s.settings.geometry.ranks

/-- Every rank the geometry installs is a sleeping rank (08 R135). -/
def ranksSleep (s : State) : Bool := (installedRanks s).all fun r => s.chan.sleeping.contains r

/-- The bank record at a position. -/
def bankAt (s : State) (pos : Nat) : Option Bank := s.sched.banks[pos]?

/-- Change the bank record at a position. -/
def modBank (s : State) (pos : Nat) (f : Bank → Bank) : State :=
  { s with sched := { s.sched with banks := s.sched.banks.modify pos f } }

/-- The positions of the bank records. -/
def positions (s : State) : List Nat := List.range s.sched.banks.length

/-- The positions of the banks of a rank. -/
def positionsOf (s : State) (rank : Nat) : List Nat :=
  (positions s).filter fun p => rankOf s p = rank

/-- Every bank of a rank is CLOSED. -/
def rankClosed (s : State) (rank : Nat) : Bool :=
  (positionsOf s rank).all fun p => (bankAt s p).any fun b => b.state = .closed

/-- Every bank is CLOSED. -/
def allClosed (s : State) : Bool := s.sched.banks.all fun b => b.state = .closed

/-- A bank record as it is formed (03 R66). -/
def freshBank : Bank := ⟨.closed, none, none, .keep, 0, .stopped, false, false, none, 0, 0⟩

/-- The open-row list of a rank (03 R51). -/
def openRowList (s : State) (rank : Nat) : List Nat :=
  if rank = 0 then s.sched.openRows0 else s.sched.openRows1

/-- Change the open-row list of a rank. -/
def modOpenRows (s : State) (rank : Nat) (f : List Nat → List Nat) : State :=
  if rank = 0 then { s with sched := { s.sched with openRows0 := f s.sched.openRows0 } }
  else { s with sched := { s.sched with openRows1 := f s.sched.openRows1 } }

/-- A bank joins the end of its rank's list. -/
def joinOpenRows (s : State) (pos : Nat) : State :=
  modOpenRows s (rankOf s pos) fun l => l.filter (fun p => p ≠ pos) ++ [pos]

/-- A bank leaves its rank's list. -/
def leaveOpenRows (s : State) (pos : Nat) : State :=
  modOpenRows s (rankOf s pos) fun l => l.filter fun p => p ≠ pos

/-- A bank in its rank's list moves to the end (03 R57). -/
def touchOpenRows (s : State) (pos : Nat) : State :=
  modOpenRows s (rankOf s pos) fun l =>
    if l.contains pos then l.filter (fun p => p ≠ pos) ++ [pos] else l

/-! ## Eligibility and choice (03 R54, R55) -/

/-- The position of a transaction's bank. -/
def posOf (s : State) (t : Txn) : Option Nat :=
  t.loc.map fun l => l.rank * s.settings.geometry.banks + l.bank

/-- The row of a transaction. -/
def rowOf (t : Txn) : Option Nat := t.loc.map fun l => l.row

/-- The bank queue: the QUEUED transactions of a position, by arrival number (01 R12). -/
def bankQueue (s : State) (pos : Nat) : List (Nat × Txn) :=
  byArrival s ((liveSlots s).filter fun p => p.2.state = .queued && posOf s p.2 = some pos)

/-- The tenure gate (04 R70). -/
def gateOpen (s : State) (t : Txn) : Bool :=
  match s.settings.tenure.mode with
  | .shared => true
  | .tenure =>
    match s.tenure.holder with
    | none => false
    | some x => t.link = x && (match s.tenure.due with
      | .no => true
      | _ => holdsLock s x && t.kind ≠ .lockRead)

/-- A transaction is eligible (03 R54). -/
def eligible (s : State) (t : Txn) : Bool :=
  t.state = .queued && !predPending s t && t.lockWait.isNone && gateOpen s t && noticesFit s t &&
    (s.chan.state = .run || s.chan.state = .quiescing)

/-- Some transaction is eligible. -/
def anyEligible (s : State) : Bool := (liveSlots s).any fun p => eligible s p.2

/-- A transaction is urgent (03 R55). -/
def urgent (s : State) (t : Txn) : Bool := s.settings.rows.bypassLimit ≤ t.bypass

/-- The row behaviour in force for a bank (03 R58). -/
def behaviourOf (s : State) (b : Bank) : Behaviour :=
  match s.settings.rows.policy with
  | .opened => .keep
  | .closed => .close
  | .adaptive => b.behaviour

/-- A bank is ready (03 R55). -/
def bankReady (b : Bank) : Bool :=
  (b.state = .closed || b.state = .openRow) && b.serving.isNone && !b.closePending

/-- The choice of a ready bank (03 R55). -/
def choice (s : State) (pos : Nat) : Option (Nat × Txn) :=
  match bankAt s pos with
  | none => none
  | some b =>
    if bankReady b then
      let q := (bankQueue s pos).filter fun p => eligible s p.2
      match q.find? fun p => urgent s p.2 with
      | some p => some p
      | none =>
        match if b.state = .openRow && behaviourOf s b = .keep then
            q.find? fun p => rowOf p.2 = b.row else none with
        | some p => some p
        | none => q.head?
    else none

/-! ## Room (03 R52, R53) -/

/-- The limit of open rows in force (03 R53). -/
def openLimitInForce (s : State) : Nat :=
  min s.settings.rows.openLimit s.settings.geometry.banks

/-- A bank holds a reservation in its rank (03 R52). -/
def holdsReservation (b : Bank) : Bool := b.serving.any fun v => v.reserved

/-- The rank has room (03 R52). -/
def hasRoom (s : State) (rank : Nat) : Bool :=
  (openRowList s rank).length +
    ((positionsOf s rank).filter fun p => (bankAt s p).any holdsReservation).length
      < openLimitInForce s

/-- A bank needs room: CLOSED, not busy, with a choice, which would activate a row (03 R52). -/
def needsRoom (s : State) (pos : Nat) : Bool :=
  (bankAt s pos).any (fun b => b.state = .closed) && (choice s pos).isSome

/-- A ready bank with a choice requests the arbiter, unless the choice needs room its rank lacks. -/
def requests (s : State) (pos : Nat) : Bool :=
  (choice s pos).isSome && (!needsRoom s pos || hasRoom s (rankOf s pos))

/-- A close of a bank is requested (03 R50). -/
def requestClose (s : State) (pos : Nat) : State :=
  modBank s pos fun b =>
    if b.serving.isSome then { b with closeAfter := true }
    else if b.state = .openRow then { b with closePending := true }
    else b

/-- The close of several banks is requested. -/
def requestCloses (s : State) (ps : List Nat) : State := ps.foldl requestClose s

/-- The victim of a rank: the first listed bank that is OPEN, not busy, and has no eligible
transaction queued that hits its open row (03 R52). -/
def victim (s : State) (rank : Nat) : Option Nat :=
  (openRowList s rank).find? fun p => (bankAt s p).any fun b =>
    b.state = .openRow && b.serving.isNone &&
      !((bankQueue s p).any fun q => eligible s q.2 && rowOf q.2 = b.row)

/-- The room rule for one rank (03 R52). -/
def victimClose (s : State) (rank : Nat) : State :=
  if (positionsOf s rank).any (needsRoom s) && !hasRoom s rank &&
      !((positionsOf s rank).any fun p => (bankAt s p).any fun b => b.closePending) then
    match victim s rank with
    | none => s
    | some p => requestClose s p
  else s

/-! ## Commands that continue work already begun (03 R56) -/

/-- The service of a bank may go on: outside a warm reset always, and during one when a WRITE-COLUMN
was sent (08 R145). -/
def mayContinue (s : State) (v : Service) : Bool := !warmReset s || v.wrote

/-- The row of the transaction in a slot. -/
def slotRow (s : State) (i : Nat) : Option Nat := (slotAt s i).bind rowOf

/-- The times a PRECHARGE of the bank waits for are known to have passed (03 R50, log entry 4). -/
def clocksPassed (s : State) (b : Bank) : Bool :=
  b.activatedAt ≤ s.sched.openedBy && b.writtenAt ≤ s.sched.writtenBy

/-- The two times of a bank have passed, and so have those that began no later at other banks
(03 R50, log entry 4). -/
def noteClocks (s : State) (pos : Nat) : State :=
  match bankAt s pos with
  | none => s
  | some b => { s with sched := { s.sched with
      openedBy := max s.sched.openedBy b.activatedAt
      writtenBy := max s.sched.writtenBy b.writtenAt } }

/-- The next command of a bank's service is ready (03 R56): ACTIVATE, READ-COLUMN or WRITE-COLUMN, or
the PRECHARGE of a CONFLICT once its times are known to have passed (log entry 4). -/
def commandReady (s : State) (pos : Nat) (b : Bank) : Bool :=
  match b.serving with
  | none => false
  | some v => mayContinue s v &&
    match b.state with
    | .closed => channelServes s && (v.reserved || hasRoom s (rankOf s pos))
    | .openRow =>
      if b.row = slotRow s v.slot
        then !v.toRead.isEmpty || (!v.toWrite.isEmpty && s.chan.readsDue.isEmpty)
      else clocksPassed s b
    | _ => false

/-- Some transaction in service has a command ready. -/
def anyCommandReady (s : State) : Bool :=
  (positions s).any fun p => (bankAt s p).any fun b => commandReady s p b

/-- A transaction issued before a given event has a command ready; it goes first (03 R56). -/
def earlierCommandReady (s : State) (issued : Nat) : Bool :=
  (positions s).any fun p => (bankAt s p).any fun b =>
    commandReady s p b && b.serving.any fun v => v.issued < issued

/-- A bank with close pending takes a PRECHARGE: it is OPEN and not busy (03 R50). -/
def wantsClose (b : Bank) : Bool := b.state = .openRow && b.closePending && b.serving.isNone

/-- The PRECHARGE of a bank with close pending is ready (03 R50, R56). -/
def closeDue (s : State) (b : Bank) : Bool := wantsClose b && clocksPassed s b

/-- Some bank's close PRECHARGE is ready. -/
def anyCloseDue (s : State) : Bool := s.sched.banks.any (closeDue s)

/-- The close PRECHARGE of a bank at a lower position is ready; it goes first (03 R56). -/
def lowerCloseDue (s : State) (pos : Nat) : Bool := (s.sched.banks.take pos).any (closeDue s)

/-! ## The issue arbiter (03 R56) -/

/-- The positions in search order: after the position last granted, wrapping from 15 to 0. -/
def searchOrder (s : State) : List Nat :=
  (List.range 16).map fun k => (s.sched.lastGranted + 1 + k) % 16

/-- The choice of a position is urgent. -/
def urgentChoice (s : State) (pos : Nat) : Bool := (choice s pos).any fun p => urgent s p.2

/-- The position the arbiter grants: the first requesting one whose choice is urgent, or otherwise the
first requesting one, in search order; none while an episode holds the channel, during a warm reset,
and while a command that continues work or the PRECHARGE of a close is ready. -/
def grantee (s : State) : Option Nat :=
  if s.refresh.episode ≠ .none || warmReset s || anyCommandReady s || anyCloseDue s then none
  else
    let ps := (searchOrder s).filter (requests s)
    match ps.find? (urgentChoice s) with
    | some p => some p
    | none => ps.head?

/-! ## Classification and decisions (03 R59 to R61) -/

/-- The streak raised by one (03 R48: 0..7). -/
def raiseStreak (n : Nat) : Nat := min 7 (n + 1)

/-- The access of a transaction to a row is classified and the streak and behaviour brought up to
date, by the bank as it stands before the issue (03 R59, R60). -/
def classify (s : State) (b : Bank) (row : Option Nat) : Bank :=
  match s.settings.rows.policy with
  | .opened => b
  | .closed => b
  | .adaptive =>
    match b.behaviour with
    | .keep =>
      if b.state = .openRow then
        if b.row = row then { b with streak := 0 }
        else if s.settings.rows.missStreak ≤ raiseStreak b.streak then
          { b with behaviour := .close, streak := 0 }
        else { b with streak := raiseStreak b.streak }
      else b
    | .close =>
      if b.lastRow.isSome && b.lastRow = row then
        if s.settings.rows.hitStreak ≤ raiseStreak b.streak then
          { b with behaviour := .keep, streak := 0 }
        else { b with streak := raiseStreak b.streak }
      else { b with streak := 0 }

/-- The after-access decision of a bank whose service has just ended (03 R61, R50). -/
def afterAccess (s : State) (pos : Nat) : State :=
  match bankAt s pos with
  | none => s
  | some b =>
    if b.state ≠ .openRow then modBank s pos fun b => { b with closeAfter := false }
    else if b.closeAfter then
      modBank s pos fun b => { b with closeAfter := false, closePending := true }
    else
      match behaviourOf s b with
      | .keep =>
        if s.settings.rows.rowIdle = 0 then s
        else modBank s pos fun b => { b with idleTimer := loaded s.settings.rows.rowIdle }
      | .close =>
        match choice s pos with
        | none => requestClose s pos
        | some p => if rowOf p.2 = b.row then s else requestClose s pos

/-- The bank records formed at the entry to RUN from STARTING, and at a change of geometry (03 R66). -/
def formBanks (s : State) : State :=
  { s with sched :=
    { s.sched with
      banks := List.replicate (bankCount s) freshBank
      openRows0 := []
      openRows1 := [] } }

/-- The bank records formed at the entry to RUN from RESUMING: behaviour and streak are kept if the
geometry is the one under which the channel last left RUN (03 R66). A geometry that was changed and changed
back while the channel was QUIESCED is that one again, and behaviour and streak are kept: R66's next sentence
would give KEEP and 0 there, and the model compares the geometries only (log entry 31). -/
def reformBanks (s : State) : State :=
  if s.chan.lastRun = some s.settings.geometry then
    { s with sched :=
      { s.sched with
        banks := s.sched.banks.map fun b =>
          { freshBank with behaviour := b.behaviour, streak := b.streak }
        openRows0 := []
        openRows1 := [] } }
  else formBanks s

/-- The bank state at the entry to self-refresh: lists empty, timers stopped, no close pending, last
rows absent (03 R66). -/
def sleepBanks (s : State) : State :=
  { s with sched :=
    { s.sched with
      banks := s.sched.banks.map fun b =>
        { b with idleTimer := .stopped, closePending := false, closeAfter := false, lastRow := none }
      openRows0 := []
      openRows1 := [] } }

end Sys2Proof.Machine
end

