-- ==== Sys2Proof/Machine/Tenure.lean ====
section
/-! DEFINITION. The Tenure Arbiter (file 04): waiting work, the idle condition and its timer, hand-over
points, passing, granting and the mode change. -/

namespace Sys2Proof.Machine

/-- A refresh episode holds the channel, or a forced one waits for it (04 R79). -/
def episodeHolds (s : State) : Bool := s.refresh.episode ≠ .none

/-- A transaction is waiting work of its link (04 R69). -/
def isWaitingWork (t : Txn) : Bool := t.state = .queued && t.lockWait.isNone

/-- A link has waiting work (04 R69). -/
def hasWaitingWork (s : State) (x : Link) : Bool := (liveOf s x).any fun p => isWaitingWork p.2

/-- The holder is idle: nothing of it is eligible and nothing of it is on the channel (04 R73). -/
def holderIdle (s : State) (x : Link) : Bool :=
  !((liveOf s x).any fun p => eligible s p.2) && !linkInFlight s x

/-- Change the tenure state. -/
def withTenure (s : State) (t : Tenure) : State := { s with tenure := t }

/-- The idle timer as it is loaded for a link: stopped with a limit of 0, paused at once while an
episode holds the channel (04 R73, R79). -/
def loadedIdle (s : State) (x : Link) : IdleTimer :=
  let limit := s.settings.tenure.idleLimit.get x
  if limit = 0 then .stopped
  else if episodeHolds s then .paused limit
  else .running limit

/-- The idle condition is judged; its beginning and its end act on the idle timer (04 R73). -/
def judgeIdle (s : State) : State :=
  match s.tenure.holder with
  | none => s
  | some x =>
    let now := holderIdle s x
    if now = s.tenure.idleNow then s
    else withTenure s { s.tenure with
      idleNow := now, idle := if now then loadedIdle s x else .stopped }

/-- Hand-over due becomes yes: the idle timer is stopped, and the condition is judged under the
narrowed gate without a load (04 R73, R75). -/
def setDue (s : State) (target : HandOver) : State :=
  let s := withTenure s { s.tenure with due := target, idle := .stopped }
  match s.tenure.holder with
  | none => s
  | some x => withTenure s { s.tenure with idleNow := holderIdle s x }

/-- Hand-over due is cleared without a pass when the target has no waiting work left; the idle timer
is loaded at once if the holder is idle, and stopped if it is not (04 R73, R76). -/
def clearDue (s : State) : State :=
  match s.tenure.holder, s.tenure.due with
  | some x, .toLink y =>
    if hasWaitingWork s y then s
    else
      let s := withTenure s { s.tenure with due := .no }
      let now := holderIdle s x
      withTenure s { s.tenure with
        idleNow := now, idle := if now then loadedIdle s x else .stopped }
  | _, _ => s

/-- The other link's waiting work meets phase OPEN or a lapsed idle timer (04 R72, R74). -/
def wantDue (s : State) : State :=
  match s.tenure.holder with
  | none => s
  | some x =>
    if s.tenure.due = .no && (s.tenure.phase = some .opened || s.tenure.idle = .lapsed) &&
        hasWaitingWork s (otherLink x)
      then setDue s (.toLink (otherLink x))
    else s

/-- A hand-over point holds (04 R75). -/
def handOverPoint (s : State) (x : Link) : Bool := !linkInFlight s x && !holdsLock s x

/-- Tenure passes to link `y` (04 R78). -/
def passTenure (s : State) (y : Link) : State :=
  let s := clearRecent (withTenure s
    ⟨some y, some .guaranteed, .running (s.settings.tenure.quantum.get y), .stopped, .no, false⟩)
  let now := holderIdle s y
  let s := withTenure s { s.tenure with
    idleNow := now, idle := if now then loadedIdle s y else .stopped }
  if s.settings.tenure.closeOnHandover then requestCloses s (positions s) else s

/-- The pass at a hand-over point: to the other link, or, after a link reset of the holder, to the
other link if it has waiting work and to NONE otherwise (04 R75, R81). -/
def makePass (s : State) (x : Link) : State :=
  match s.tenure.due with
  | .no => s
  | .toLink y => passTenure s y
  | .toNone =>
    if hasWaitingWork s (otherLink x) then passTenure s (otherLink x) else withTenure s noTenure

/-- A pass of tenure is due and a hand-over point holds, with no episode (04 R75, R79). -/
def passReady (s : State) : Option Link :=
  match s.tenure.holder with
  | none => none
  | some x =>
    if s.tenure.due ≠ .no && handOverPoint s x && !episodeHolds s then some x else none

/-- The link a grant from NONE goes to: the one whose waiting work holds the oldest transaction
(04 R71). -/
def grantTarget (s : State) : Option Link :=
  ((byArrival s ((liveSlots s).filter fun p => isWaitingWork p.2)).head?).map fun p => p.2.link

/-- A grant from NONE is due, and to which link (04 R71). -/
def grantReady (s : State) : Option Link :=
  if s.settings.tenure.mode = .tenure && s.tenure.holder.isNone && !anyInFlight s &&
      !episodeHolds s
    then grantTarget s
  else none

/-- A grant that is due is made (04 R71). -/
def makeGrant (s : State) : State :=
  match grantReady s with
  | none => s
  | some x => passTenure s x

/-- The tenure timers are paused at the beginning of an episode (04 R79). -/
def pauseTenure (s : State) : State :=
  withTenure s { s.tenure with
    quantum := pauseTimer s.tenure.quantum, idle := pauseIdle s.tenure.idle }

/-- The tenure timers resume at the end of an episode (04 R79). -/
def resumeTenure (s : State) : State :=
  withTenure s { s.tenure with
    quantum := resumeTimer s.tenure.quantum, idle := resumeIdle s.tenure.idle }

/-- The tenure state at a link reset of `x` (04 R81). -/
def tenureLinkReset (s : State) (x : Link) : State :=
  if s.tenure.holder = some x then setDue s .toNone else s

end Sys2Proof.Machine
end

