-- ==== Sys2Proof/Machine/Refresh.lean ====
section
/-! DEFINITION. The Refresh Controller (file 07): the debt, the timer's period, the beginning and the
end of episodes, and completed rounds. -/

namespace Sys2Proof.Machine

/-- Change the Refresh Controller. -/
def withRefresh (s : State) (r : Refresh) : State := { s with refresh := r }

/-- The period of the refresh timer in the mode in force (07 R120, R121). -/
def refreshPeriod (s : State) : Nat :=
  match s.settings.refresh.mode with
  | .internal => s.settings.refresh.group * s.settings.refresh.refi
  | .linked => 2 * s.settings.refresh.group * s.settings.refresh.refi

/-- The refresh timer is loaded with the period of the mode in force. -/
def loadRefreshTimer (s : State) : State :=
  withRefresh s { s.refresh with timer := loaded (refreshPeriod s) }

/-- The Refresh Controller at the entry to self-refresh: the timer is stopped, cue-seen is no and the debt is 0
(07 R120, R127). -/
def restRefresh (s : State) : State :=
  withRefresh s { s.refresh with timer := .stopped, cueSeen := false, debt := 0 }

/-- A forced episode holds the channel. -/
def forcedHolds (s : State) : Bool :=
  match s.refresh.episode with
  | .holds .forced _ => true
  | _ => false

/-- A forced episode begins, if the debt is at FORCE_LEVEL and none holds the channel (07 R124). -/
def forceTest (s : State) : State :=
  if channelServes s && !forcedHolds s && s.settings.refresh.forceLevel ≤ s.refresh.debt then
    match s.refresh.episode with
    | .holds _ progress => withRefresh s { s.refresh with episode := .holds .forced progress }
    | .none =>
      let progress := if anyInFlight s then Progress.waiting else Progress.closing
      requestCloses
        (pauseTenure (withRefresh s { s.refresh with episode := .holds .forced progress }))
        (positions s)
  else s

/-- An addition to the debt (07 R119), with the tests that follow it. -/
def addDebt (s : State) : State :=
  let total := s.refresh.debt + s.settings.refresh.group
  let raised := withRefresh s { s.refresh with debt := min debtMax total }
  forceTest (if debtMax < total
    then raiseAlert raised .refreshOverrun none none none (some (total - debtMax)) else raised)

/-- The channel is idle for the Refresh Controller (07 R123). -/
def channelIdle (s : State) : Bool := !anyEligible s && !anyInFlight s

/-- An opportunistic episode may begin (07 R123), apart from the channel being idle. -/
def episodeAllowed (s : State) : Bool :=
  channelServes s && !episodeHolds s && 1 ≤ s.refresh.debt

/-- An opportunistic episode begins (07 R123). -/
def beginOpportunistic (s : State) : State :=
  requestCloses
    (pauseTenure (withRefresh s { s.refresh with episode := .holds .opportunistic .closing }))
    (positions s)

/-- An opportunistic episode is due on an idle channel. -/
def episodeReady (s : State) : Bool := episodeAllowed s && channelIdle s

/-- It begins if it is due. -/
def tryEpisode (s : State) : State := if episodeReady s then beginOpportunistic s else s

/-- A forced episode that waited goes on to CLOSING once nothing is in flight (07 R124). -/
def waitingToClosing (s : State) : State :=
  match s.refresh.episode with
  | .holds k .waiting =>
    if anyInFlight s then s else withRefresh s { s.refresh with episode := .holds k .closing }
  | _ => s

/-- An episode goes on to REFRESHING once every bank is CLOSED (07 R125). -/
def closingToRefreshing (s : State) : State :=
  match s.refresh.episode with
  | .holds k .closing =>
    if allClosed s then
      withRefresh s { s.refresh with
        episode := .holds k .refreshing, sent := [], sentAt := none }
    else s
  | _ => s

/-- An episode ends (07 R126, 04 R79). -/
def endEpisode (s : State) : State :=
  resumeTenure (withRefresh s { s.refresh with episode := .none, sent := [], sentAt := none })

/-- A round is complete: the debt falls by one, and the episode ends or begins its next round
(07 R125, R126). -/
def completeRound (s : State) (kind : EpisodeKind) : State :=
  let debt := s.refresh.debt - 1
  let s := withRefresh s { s.refresh with debt := debt, sent := [], sentAt := none }
  match kind with
  | .opportunistic => if debt = 0 || anyEligible s then endEpisode s else s
  | .forced => if debt = 0 then endEpisode s else s

/-- The round is complete if every installed rank was sent its command and all banks are CLOSED. -/
def testRound (s : State) : State :=
  match s.refresh.episode with
  | .holds kind .refreshing =>
    if (installedRanks s).all (fun r => s.refresh.sent.contains r) && allClosed s
      then completeRound s kind else s
  | _ => s

end Sys2Proof.Machine
end

