-- ==== Sys2Proof/Machine/Settle.lean ====
section
/-! DEFINITION. What follows from an event at that same event: the end of a drain, the tenure and
refresh tests, victims, and the entry to self-refresh. `settle` makes these tests in one fixed order
(log entry 10). -/

namespace Sys2Proof.Machine

/-! ## Deciding management replies (09 R149, R154) -/

/-- The management kind of a long operation. -/
def kindOfLong : LongKind → MgmtKind
  | .commit => .tableCommit
  | .start => .channelStart
  | .quiesce => .channelQuiesce
  | .resume => .channelResume
  | .hubReset => .hubReset

/-- The first undecided entry of a kind in a reply list is decided. -/
def decideEntry (kind : MgmtKind) (status : MgmtStatus) (value : ReplyValue) (event : Nat) :
    List MgmtEntry → List MgmtEntry
  | [] => []
  | e :: rest =>
    if e.kind = kind && e.status.isNone then
      { e with status := some status, value := value, readySince := event } :: rest
    else e :: decideEntry kind status value event rest

/-- A long operation ends: its entry is decided, if its link's list still holds it (09 R154). -/
def endLong (s : State) (kind : LongKind) (status : MgmtStatus) (value : ReplyValue) : State :=
  match s.mgmt.longOp with
  | none => s
  | some (k, x) =>
    if k = kind then
      { s with mgmt := { s.mgmt with
        longOp := none
        replies := s.mgmt.replies.set x
          (decideEntry (kindOfLong kind) status value s.event (s.mgmt.replies.get x)) } }
    else s

/-- The epoch as the value of a reply (11 section 11.8). -/
def epochValue (s : State) : ReplyValue := .word (s.xlate.epoch.setWidth 32)

/-! ## The consequences, one by one -/

/-- The drain ends in a switch when nothing is QUEUED, ACCESS or MERGE (02 R41). -/
def settleCommit (s : State) : State :=
  if s.xlate.commit = .draining && !anyOnPath s then
    let s := commitSwitch s
    endLong s .commit .ok (epochValue s)
  else s

/-- A due pass at a hand-over point: a debt of 1 or more is paid first (04 R80). -/
def settlePass (s : State) : State :=
  match passReady s with
  | none => s
  | some x => if episodeAllowed s then beginOpportunistic s else makePass s x

/-- A grant from NONE and the beginning of an opportunistic episode. Where both are due their order is
a free choice (04 R71). -/
def settleGrant (s : State) : State :=
  if (grantReady s).isSome && episodeReady s then
    let first := Config.grantBeforeEpisode s.free
    let s := { s with free := s.free + 1 }
    if first then tryEpisode (makeGrant s) else tryEpisode s
  else tryEpisode (makeGrant s)

/-- A quiesce with nothing left to serve requests the close of every OPEN bank (08 R133). -/
def settleQuiesce (s : State) : State :=
  if s.chan.state = .quiescing && !anyOnPath s then requestCloses s (positions s) else s

/-- The room rule for both ranks (03 R52). -/
def settleVictims (s : State) : State := (installedRanks s).foldl victimClose s

/-- Ranks that join the sleeping ranks, kept in rank order. -/
def joinRanks (sleeping ranks : List Nat) : List Nat :=
  [0, 1].filter fun r => sleeping.contains r || ranks.contains r

/-- A LOCK_BROKEN alert for each entry, in order of creation (05 R99). -/
def raiseBroken (s : State) (entries : List LockEntry) : State :=
  entries.foldl (fun st e => raiseAlert st .lockBroken (some e.holder) (some e.block)
    (some .quiesce) none) s

/-- The entry to self-refresh of a quiesce (08 R134; 03 R66; 05 R99; 04 R83; 07 R127). -/
def enterSelfRefresh (s : State) : State :=
  let ranks := installedRanks s
  let s := sleepBanks (sendDram s (ranks.map DramCommand.srEnter))
  let s := { s with chan := { s.chan with
    state := .quiesced, sleeping := joinRanks s.chan.sleeping ranks } }
  let s := raiseBroken { s with locks := [] } s.locks
  let s := withTenure s noTenure
  endLong (restRefresh s) .quiesce .ok .none

/-- The conditions of the entry to self-refresh (08 R134). -/
def selfRefreshReady (s : State) : Bool :=
  s.chan.state = .quiescing && !warmReset s && !anyOnPath s && allClosed s &&
    s.refresh.debt = 0 && !episodeHolds s

/-- During a warm reset taken in RUN or QUIESCING each rank whose banks are all CLOSED is sent SR-ENTER
once (08 R145). -/
def sendWarmSrEnter (s : State) : State :=
  match s.chan.warm with
  | none => s
  | some sent =>
    if channelServes s then
      let now := (installedRanks s).filter fun r => !sent.contains r && rankClosed s r
      let s := sendDram s (now.map DramCommand.srEnter)
      { s with chan := { s.chan with warm := some (sent ++ now) } }
    else s

/-- The last SR-ENTER of a warm reset has been sent, and every bank is CLOSED: the installed ranks join the
sleeping ranks, once, and the bank records and the Refresh Controller take their values at the entry (08 R145;
03 R66; 07 R120, R127). The channel's state is left to the reset point, which empties the Transaction Table: in
QUIESCED no transaction is on the channel path (02 R39, log entry 32). -/
def enterWarmSleep (s : State) : State :=
  match s.chan.warm with
  | none => s
  | some sent =>
    if channelServes s && !ranksSleep s &&
        (installedRanks s).all fun r => sent.contains r && rankClosed s r then
      restRefresh (sleepBanks { s with chan := { s.chan with
        sleeping := joinRanks s.chan.sleeping sent } })
    else s

/-- The entry to self-refresh of a warm reset, rank by rank (08 R145). -/
def warmSleep (s : State) : State := enterWarmSleep (sendWarmSrEnter s)

/-- The entry to self-refresh, if it is due. -/
def settleSleep (s : State) : State :=
  warmSleep (if selfRefreshReady s then enterSelfRefresh s else s)

/-- Every consequence of an event at that event, in one fixed order (log entry 10). -/
def settle (s : State) : State :=
  let s := settleCommit s
  let s := waitingToClosing s
  let s := judgeIdle s
  let s := wantDue (clearDue s)
  let s := settleGrant (settlePass s)
  let s := settleQuiesce s
  let s := closingToRefreshing s
  settleSleep (settleVictims s)

end Sys2Proof.Machine
end

