-- ==== Sys2Proof/Machine/Complete.lean ====
section
/-! DEFINITION. The DRAM work of a transaction (08 R139 to R144): its plan at the issue, the check of
what is read, and what its completion does in every block (01 R17, R18; 05 R90, R94; 06 R106, R108). -/

namespace Sys2Proof.Machine

/-! ## The plan of a service -/

/-- The blocks of a list of numbers with their data. -/
def withData (t : Txn) (is : List Nat) : List (Nat × Block) := is.map fun i => (i, t.data.getD i 0)

/-- The DRAM work of a transaction at its issue (08 R139, R143). -/
def planService (i : Nat) (t : Txn) (event : Nat) : Service where
  slot := i
  issued := event
  reserved := false
  toRead := if isRead t then List.range (spanCount t)
    else if t.mergeNeeded then blocksUsed t .partialBlock else []
  due := 0
  got := []
  toWrite := if isRead t || t.mergeNeeded then [] else withData t (blocksUsed t .full)
  wrote := false

/-- Nothing of the service is outstanding and nothing is left to send. -/
def serviceSpent (v : Service) : Bool := v.toRead.isEmpty && v.due = 0 && v.toWrite.isEmpty

/-! ## The end of a service (03 R57, R61) -/

/-- The bank serves no more and takes its after-access decision. -/
def releaseBank (s : State) (pos : Nat) : State :=
  afterAccess (modBank s pos fun b => { b with serving := none }) pos

/-- The slot of a transaction that finished its DRAM access lets the bank go: predecessors are chosen
again, and the after-access decision is taken. -/
def closeService (s : State) (pos i : Nat) : State :=
  afterAccess (reexamine s [i]) pos

/-- The bank serves no more; its after-access decision is still to come. -/
def stopServing (s : State) (pos : Nat) : State :=
  modBank s pos fun b => { b with serving := none }

/-- The status of a read: POISON if any block is (01 R17). -/
def readOutcome (statuses : List BlockStatus) : MemStatus :=
  if statuses.contains .poison then .poison else .ok

/-- The lock entry of a LOCK-READ that completes (05 R90). -/
def settleLockRead (s : State) (i : Nat) (status : MemStatus) : State :=
  match ownedLock s i .pending with
  | none => s
  | some block =>
    if status = .poison then removeLock s block
    else modLock s block fun e => { e with
      state := .held, owner := none, timer := loaded (usUnits s.settings.lockLimit) }

/-- The lock entry of a LOCK-WRITE that completes is removed (05 R94). -/
def settleLockWrite (s : State) (i : Nat) : State :=
  match ownedLock s i .writing with
  | none => s
  | some block => removeLock s block

/-- A READ or LOCK-READ completes (01 R17, R24; 05 R90; 06 R109). -/
def completeRead (s : State) (pos i : Nat) (t : Txn) (got : List (Nat × BlockStatus × Block)) :
    State :=
  let statuses := got.map fun g => g.2.1
  let s := stopServing s pos
  let s := modSlot s i fun t => { t with data := got.map fun g => g.2.2, statuses := statuses }
  let s := forgetRecent s t.link (linesTouched t)
  let s := finish s i (readOutcome statuses)
  closeService (settleLockRead s i (readOutcome statuses)) pos i

/-- A performed write leaves the channel: it waits for its notices, or it is decided (01 R18). -/
def leaveChannel (s : State) (y : Link) (i : Nat) : State :=
  if waitsLeft s y i then modSlot s i fun t => { t with state := .notify, stale := false }
  else finish s i .ok

/-- A WRITE or LOCK-WRITE is performed (01 R18; 05 R94; 06 R106). -/
def completeWrite (s : State) (pos i : Nat) (t : Txn) : State :=
  let s := performNotices (stopServing s pos) i t
  let s := leaveChannel s (otherLink t.link) i
  closeService (settleLockWrite s i) pos i

/-- A merge fails: nothing is written, and the write's data and masks are kept nowhere (01 R18; 08 R144;
05 R94; 06 R108). -/
def failMerge (s : State) (pos i : Nat) (t : Txn) : State :=
  let s := giveUpClaims (stopServing s pos) i t
  let s := modSlot s i fun t => { t with data := [], masks := none }
  let s := finish s i .poison
  closeService (settleLockWrite s i) pos i

/-- The DRAM work of a bank's transaction is complete. During a warm reset the Transaction Table is
not told, and the bank just closes (09 R162). -/
def reportWrite (s : State) (pos i : Nat) : State :=
  if warmReset s then releaseBank s pos
  else match slotAt s i with
    | none => releaseBank s pos
    | some t => completeWrite s pos i t

/-! ## The check of a word (08 R140 to R142) -/

/-- The bits of a word that are in error. -/
def dataErrors (e : ErrMask) : Word64 := e.setWidth 64

/-- How the check code classes a word with these bits in error (08 section 8.6). -/
def classOfWord (w : Word64) (e : ErrMask) : WordClass :=
  match popCount e with
  | 0 => .clean
  | 1 => .corrected
  | 2 => .uncorrectable
  | _ => Config.manyErrorsClass w e

/-- A word as it is read, with its bits in error. -/
def asRead (w : Word64) (e : ErrMask) : Word64 := w ^^^ dataErrors e

/-- The data passed on for a word (08 R140). -/
def passedOn (w : Word64) (e : ErrMask) : Word64 :=
  match classOfWord w e with
  | .corrected => if popCount e = 1 then w else Config.manyErrorsData w e
  | _ => asRead w e

/-- The status of a block by the classes of its words (08 R140). -/
def blockStatusOf (classes : List WordClass) : BlockStatus :=
  if classes.contains .uncorrectable then .poison
  else if classes.contains .corrected then .corrected
  else .ok

/-- A corrected word is counted; at the threshold a CORRECTED alert is raised and the counter returns
to 0 (08 R141). -/
def countCorrected (s : State) : State :=
  let n := s.chan.correctedCount + 1
  if s.settings.profile.corrThreshold ≤ n then
    raiseAlert { s with chan := { s.chan with correctedCount := 0 } } .corrected none none none
      (some s.settings.profile.corrThreshold)
  else { s with chan := { s.chan with correctedCount := n } }

/-- The words of a block are taken in order; `poisoned` says that an uncorrectable one came before
(08 R141, R142). -/
def takeWords (link : Link) (addr : Nat) (cause : Cause) (s : State) (poisoned : Bool) :
    List WordClass → State
  | [] => s
  | .clean :: rest => takeWords link addr cause s poisoned rest
  | .corrected :: rest => takeWords link addr cause (countCorrected s) poisoned rest
  | .uncorrectable :: rest =>
    let s' := if poisoned then s
      else raiseAlert s .uncorrectable (some link) (some addr) (some cause) none
    takeWords link addr cause s' true rest

/-- New bits in error join those a stored word already has. -/
def damageWord (base : Nat) (errors : List (Nat × ErrMask)) (p : ErrMask × Nat) :
    List (Nat × ErrMask) :=
  setError errors (base / 8 + p.2) ((sparseGet errors (base / 8 + p.2)).getD 0 ||| p.1)

/-- New bits in error join those the words of a stored block already have. -/
def damage (d : Dram) (base : Nat) (es : List ErrMask) : Dram :=
  { d with errors := es.zipIdx.foldl (damageWord base) d.errors }

/-- The errors of the four words of a block. -/
def blockErrors (d : Dram) (base : Nat) : List ErrMask :=
  (List.range 4).map fun k => errorOf d (base / 8 + k)

/-- The four words of a block as they were written. -/
def blockWords (b : Block) : List Word64 := (List.range 4).map (blockWord b)

/-- The block of a list of four words. -/
def joinWords : List Word64 → Block
  | [w0, w1, w2, w3] => blockOfWords w0 w1 w2 w3
  | _ => 0

/-- The classes of a block's words. -/
def blockClasses (d : Dram) (base : Nat) : List WordClass :=
  List.zipWith classOfWord (blockWords (readBlock d base)) (blockErrors d base)

/-- The data passed on for a block: those of a POISON block as read, without correction (08 R142, 01
R21); those of any other word by word (08 R140). R140's table would pass a corrected word of a POISON
block on corrected; the model follows R142 and R21 (log entry 29). -/
def blockPassedOn (d : Dram) (base : Nat) : Block :=
  joinWords (List.zipWith (if blockStatusOf (blockClasses d base) = .poison then asRead else passedOn)
    (blockWords (readBlock d base)) (blockErrors d base))

/-! ## After the last block is checked -/

/-- The writes of a merge whose reads were all correctable, in column order (08 R143). -/
def mergeWrites (t : Txn) (got : List (Nat × BlockStatus × Block)) : List (Nat × Block) :=
  (List.range (spanCount t)).filterMap fun i =>
    match blockUse t i with
    | .untouched => none
    | .full => some (i, t.data.getD i 0)
    | .partialBlock =>
      (got.find? fun g => g.1 = i).map fun g =>
        (i, mergeBlock ((maskAt t i).getD 0) g.2.2 (t.data.getD i 0))

/-- A block of the service's reads has arrived and was the last one due: the read completes, the merge
fails, or the merge goes on to its writes. During a warm reset the service just ends (08 R145). -/
def afterLastRead (s : State) (pos : Nat) (v : Service) (t : Txn) : State :=
  if warmReset s then releaseBank s pos
  else if isRead t then completeRead s pos v.slot t v.got
  else if v.got.any fun g => g.2.1 = .poison then failMerge s pos v.slot t
  else modBank s pos fun b => { b with serving := some { v with toWrite := mergeWrites t v.got } }

end Sys2Proof.Machine
end

