-- ==== Sys2Proof/Machine/LinkCtl.lean ====
section
/-! DEFINITION. The Link Controller (file 10): acceptance and acknowledgement, retry, the sending of
sequenced packets, credits owed, and the link reset at every block. -/

namespace Sys2Proof.Machine

/-! ## Link-level packets -/

/-- The hub's TRAIN in this training (10 R170). -/
def trainPacket (l : LinkCtl) : WirePacket := .train l.grant 2 l.partnerSeen

/-- A LINK-ACK of the latest packet accepted (10 R173). -/
def ackPacket (l : LinkCtl) : WirePacket := .linkAck (l.expected - 1) l.nextSend

/-- A RETRY-REQ for the expected sequence (10 R174). -/
def retryPacket (l : LinkCtl) : WirePacket := .retryReq l.expected l.nextSend

/-- Send one link-level packet, made from the Link Controller as it stands. -/
def sendLevel (s : State) (x : Link) (packet : LinkCtl → WirePacket) : State :=
  putOnWire s x [packet (linkOf s x)]

/-- Nothing accepted is unacknowledged any more (10 R173). -/
def clearUnacked (l : LinkCtl) : LinkCtl := { l with unacked := 0, ackTimer := .stopped }

/-- A LINK-ACK is sent (10 R173). -/
def sendAck (s : State) (x : Link) : State := modLink (sendLevel s x ackPacket) x clearUnacked

/-- A RETRY-REQ is sent, which also acknowledges (10 R173, R174). -/
def sendRetryReq (s : State) (x : Link) : State :=
  modLink (sendLevel s x retryPacket) x clearUnacked

/-! ## Receiving (10 R172 to R174) -/

/-- A packet is accepted: the expected sequence advances and the acceptance is counted (10 R172,
R173). -/
def acceptPacket (s : State) (x : Link) : State :=
  let s := modLink s x fun l => { l with expected := l.expected + 1 }
  let n := (linkOf s x).unacked + 1
  if n = 8 then sendAck s x
  else modLink s x fun l => { l with
    unacked := n
    ackTimer := if n = 1 then loaded (usUnits 2) else l.ackTimer }

/-- The link returns from RETRY to UP (10 R174). -/
def leaveRetry (l : LinkCtl) : LinkCtl :=
  { l with state := .up, retryCount := 0, retryTimer := .stopped }

/-- The link enters RETRY with its first RETRY-REQ (10 R174). -/
def enterRetry (s : State) (x : Link) : State :=
  modLink (sendRetryReq s x) x fun l => { l with
    state := .retry, retryCount := 1, retryTimer := loaded (usUnits 4) }

/-- The sequence byte is the expected sequence; 64 or more never is (11 R183). -/
def expectedSeq (s : State) (x : Link) (seq : Byte) : Bool := seq.toNat = (linkOf s x).expected.toNat

/-- A good sequenced packet arrives on link `x`: in UP or RETRY with the expected sequence it is
accepted and passed on; in UP with another it puts the link in RETRY; else it is discarded (10 R168,
R172, R174). -/
def receive (s : State) (x : Link) (seq : Byte) (passOn : State → State) : State :=
  match (linkOf s x).state with
  | .up =>
    if expectedSeq s x seq then passOn (acceptPacket (beginEvent s) x)
    else enterRetry (beginEvent s) x
  | .retry =>
    if expectedSeq s x seq then passOn (acceptPacket (modLink (beginEvent s) x leaveRetry) x)
    else s
  | _ => s

/-! ## Credits owed (10 R178) -/

/-- Credits are owed; what they return goes out in a CREDIT, ready since the counts left 0 and 0
(10 R175). With a partner that ignores its credits a warm reset could raise a count past the 32 or 2 of
R167; the spec does not say what it then holds, and the model lets it rise (log entry 30). -/
def owe (event requests mgmt : Nat) (l : LinkCtl) : LinkCtl :=
  { l with
    owedRequests := l.owedRequests + requests
    owedMgmt := l.owedMgmt + mgmt
    owedSince := if l.owedRequests = 0 && l.owedMgmt = 0 then event else l.owedSince }

/-! ## Sending (10 R175) -/

/-- The link is UP and its replay buffer has room. -/
def canSend (s : State) (x : Link) : Bool :=
  (linkOf s x).state = .up && (linkOf s x).replay.length < replayRoom

/-- The sources of sequenced packets. -/
inductive Source where
  | credit
  | notice
  | reply
  | response
  | alert
  deriving DecidableEq, Repr

/-- The head of a management reply list if it is decided. -/
def decidedHead (s : State) (x : Link) : Option MgmtEntry :=
  match s.mgmt.replies.get x with
  | [] => none
  | e :: _ => if e.status.isSome then some e else none

/-- The head of the response queue. -/
def responseHead (s : State) (x : Link) : Option Txn :=
  (s.table.responses.get x).head?.bind (slotAt s)

/-- Since which event the head of a source of link `x` is ready; none where it offers nothing
(10 R175). -/
def readySince (s : State) (x : Link) : Source → Option Nat
  | .credit =>
    if (linkOf s x).owedRequests = 0 && (linkOf s x).owedMgmt = 0 then none
    else some (linkOf s x).owedSince
  | .notice => (linkOf s x).notices.head?.map fun n => n.readySince
  | .reply => (decidedHead s x).map fun e => e.readySince
  | .response => (responseHead s x).map fun t => t.replySince
  | .alert =>
    if s.settings.mgmt.alertLink = x then s.mgmt.alerts.head?.map fun a => a.readySince else none

/-- A source's head has been ready at least as long as every other head (10 R175). -/
def longestReady (s : State) (x : Link) (src : Source) : Bool :=
  match readySince s x src with
  | none => false
  | some n => [Source.credit, .notice, .reply, .response, .alert].all fun other =>
      match readySince s x other with
      | none => true
      | some m => n ≤ m

/-- The source may be taken now (10 R175). While restart due is yes no source is taken but the reply
to HUB-RESET, first, on the link that sent it (10 R181). -/
def mayTake (s : State) (x : Link) (src : Source) : Bool :=
  canSend s x &&
    if (linkOf s x).restartDue then
      src = .reply && (linkOf s x).resetReplyDue && (decidedHead s x).isSome
    else longestReady s x src

/-- A sequenced packet is sent: it takes the next send sequence and joins the replay buffer (10 R169,
R175, R177). -/
def sendSequenced (s : State) (x : Link) (p : HubPacket) : State :=
  let l := linkOf s x
  let s := putOnWire s x [.sequenced l.nextSend p]
  modLink s x fun l => { l with
    nextSend := l.nextSend + 1
    replay := l.replay ++ [(l.nextSend, p)]
    replayTimer := if l.replay.isEmpty then loaded (usUnits 16) else l.replayTimer }

/-- The packets of the buffer, as they are sent again. -/
def resent (replay : List (Seq × HubPacket)) : List WirePacket :=
  replay.map fun p => .sequenced p.1 p.2

/-- The response of a slot (01 R21): the response kind of the request's kind, with the blocks of a
read that reached the channel. -/
def responseOf (t : Txn) : HubPacket :=
  let status := t.status.getD .ok
  match t.kind with
  | .read => .readData t.tag status (t.statuses.zip t.data)
  | .lockRead => .readData t.tag status (t.statuses.zip t.data)
  | .write => .writeDone t.tag status
  | .lockWrite => .writeDone t.tag status
  | .lockDrop => .lockDone t.tag status
  | .fence => .fenceDone t.tag status

/-! ## The link reset (10 R179, R180) -/

/-- The Link Controller at a link reset (10 R180); `seen` is partner train seen after it. -/
def resetLinkCtl (seen : Bool) (l : LinkCtl) : LinkCtl :=
  { l with
    state := .down
    downTimer := loaded (usUnits 2)
    trainSent := false
    partnerSeen := seen
    trainTimer := .stopped
    nextSend := 0
    expected := 0
    unacked := 0
    ackTimer := .stopped
    retryCount := 0
    retryTimer := .stopped
    replay := []
    replayTimer := .stopped
    replayCount := 0
    notices := []
    owedRequests := 0
    owedMgmt := 0
    restartDue := false
    resetReplyDue := false }

/-- The slot is freed at a link reset of its link (01 R23). -/
def freedAtReset (t : Txn) : Bool :=
  t.state = .intake || t.state = .queued || t.state = .fenceWait || t.state = .reply

/-- A slot of the reset link: freed, or marked orphan (01 R23). -/
def resetSlot (x : Link) (o : Option Txn) : Option Txn :=
  match o with
  | none => none
  | some t =>
    if t.link = x then (if freedAtReset t then none else some { t with orphan := true }) else some t

/-- The Transaction Table at a link reset of `x`: slots are freed or orphaned, the response queue is
emptied, and transactions whose predecessor was freed choose again (01 R23). -/
def tableLinkReset (s : State) (x : Link) : State :=
  let gone := ((liveOf s x).filter fun p => freedAtReset p.2).map fun p => p.1
  let s := { s with table := { s.table with
    slots := s.table.slots.map (resetSlot x)
    responses := s.table.responses.set x [] } }
  reexamine s gone

/-- The Management Unit at a link reset of `x` (09 R166). -/
def mgmtLinkReset (s : State) (x : Link) : State :=
  let s := { s with mgmt := { s.mgmt with replies := s.mgmt.replies.set x [] } }
  if s.mgmt.claim = some x then
    revertAtFreeing { s with mgmt := { s.mgmt with claim := none, lease := .stopped } }
  else s

/-- A link reset of `x` with its cause, in every block (10 R180). -/
def linkResetEvent (s : State) (x : Link) (cause : Cause) : State :=
  let s := raiseAlert s .linkDown (some x) none (some cause) none
  let s := modLink s x (resetLinkCtl (cause = .restart))
  let s := tableLinkReset s x
  let s := removeLocks s fun e => e.holder = x
  let s := discardTarget s x
  let s := mgmtLinkReset s x
  settle (tenureLinkReset s x)

/-- A link reset that the hub causes: LINK-RESET goes out at the same event (10 R179). -/
def hubLinkReset (s : State) (x : Link) (cause : Cause) : State :=
  linkResetEvent (putOnWire s x [.linkReset]) x cause

end Sys2Proof.Machine
end

