-- ==== Sys2Proof/Machine/Settings.lean ====
section
/-! DEFINITION. The settings records (09 R155 to R158; 11 section 11.10): their fields by number, what
a read returns, which values a write may name, and what a write does. -/

namespace Sys2Proof.Machine

/-- The fields of the settings records. -/
inductive Field where
  | creditLimit (x : Link)
  | tenureMode
  | quantum (x : Link)
  | idleLimit (x : Link)
  | closeOnHandover
  | policy
  | openLimit
  | rowIdle
  | bypassLimit
  | missStreak
  | hitStreak
  | refreshMode
  | group
  | refi
  | forceLevel
  | cueLink
  | caching (x : Link)
  | filterEnable
  | noticeLimit
  | lockLimit
  | ranks
  | banks
  | rows
  | interleave
  | channelClock
  | actTime
  | preTime
  | minOpen
  | writeRecovery
  | readLatency
  | refreshTime
  | rankGap
  | startWait
  | startRefreshes
  | corrThreshold
  | commitLimit
  | lease
  | alertLink
  | status (f : StatusField)
  deriving DecidableEq, Repr

/-- The fields of a record, from field 0 (11 section 11.10); STATUS apart. -/
def recordFields : Nat → List Field
  | 0x01 => [.creditLimit .a]
  | 0x02 => [.creditLimit .b]
  | 0x03 => [.tenureMode, .quantum .a, .quantum .b, .idleLimit .a, .idleLimit .b, .closeOnHandover]
  | 0x04 => [.policy, .openLimit, .rowIdle, .bypassLimit, .missStreak, .hitStreak]
  | 0x05 => [.refreshMode, .group, .refi, .forceLevel, .cueLink]
  | 0x06 => [.caching .a, .caching .b, .filterEnable, .noticeLimit]
  | 0x07 => [.lockLimit]
  | 0x08 => [.ranks, .banks, .rows, .interleave]
  | 0x09 => [.channelClock, .actTime, .preTime, .minOpen, .writeRecovery, .readLatency,
      .refreshTime, .rankGap, .startWait, .startRefreshes, .corrThreshold]
  | 0x0A => [.commitLimit, .lease, .alertLink]
  | _ => []

/-- A field by its record and field number. -/
def fieldOf (record field : Byte) : Option Field :=
  if record = 0x0B then (statusField field.toNat).map Field.status
  else (recordFields record.toNat)[field.toNat]?

/-- TENURE MODE as its code. -/
def tenureModeCode : TenureMode → Nat
  | .shared => 0
  | .tenure => 1

/-- POLICY as its code. -/
def policyCode : Policy → Nat
  | .opened => 0
  | .closed => 1
  | .adaptive => 2

/-- REFRESH MODE as its code. -/
def refreshModeCode : RefreshMode → Nat
  | .internal => 0
  | .linked => 1

/-- INTERLEAVE as its code. -/
def interleaveCode : Interleave → Nat
  | .rowMajor => 0
  | .spanRotate => 1

/-- What a field holds, as a number (11 R184). -/
def readField (s : State) : Field → Nat
  | .creditLimit x => s.settings.creditLimit.get x
  | .tenureMode => tenureModeCode s.settings.tenure.mode
  | .quantum x => s.settings.tenure.quantum.get x
  | .idleLimit x => s.settings.tenure.idleLimit.get x
  | .closeOnHandover => codeOfBool s.settings.tenure.closeOnHandover
  | .policy => policyCode s.settings.rows.policy
  | .openLimit => s.settings.rows.openLimit
  | .rowIdle => s.settings.rows.rowIdle
  | .bypassLimit => s.settings.rows.bypassLimit
  | .missStreak => s.settings.rows.missStreak
  | .hitStreak => s.settings.rows.hitStreak
  | .refreshMode => refreshModeCode s.settings.refresh.mode
  | .group => s.settings.refresh.group
  | .refi => s.settings.refresh.refi
  | .forceLevel => s.settings.refresh.forceLevel
  | .cueLink => linkCode s.settings.refresh.cueLink
  | .caching x => codeOfBool (s.settings.notices.caching.get x)
  | .filterEnable => codeOfBool s.settings.notices.filter
  | .noticeLimit => s.settings.notices.limit
  | .lockLimit => s.settings.lockLimit
  | .ranks => s.settings.geometry.ranks
  | .banks => s.settings.geometry.banks
  | .rows => s.settings.geometry.rows
  | .interleave => interleaveCode s.settings.geometry.interleave
  | .channelClock => s.settings.profile.channelClock
  | .actTime => s.settings.profile.actTime
  | .preTime => s.settings.profile.preTime
  | .minOpen => s.settings.profile.minOpen
  | .writeRecovery => s.settings.profile.writeRecovery
  | .readLatency => s.settings.profile.readLatency
  | .refreshTime => s.settings.profile.refreshTime
  | .rankGap => s.settings.profile.rankGap
  | .startWait => s.settings.profile.startWait
  | .startRefreshes => s.settings.profile.startRefreshes
  | .corrThreshold => s.settings.profile.corrThreshold
  | .commitLimit => s.settings.mgmt.commitLimit
  | .lease => s.settings.mgmt.lease
  | .alertLink => linkCode s.settings.mgmt.alertLink
  | .status f => readStatus s f

/-- The field is of kind stopped-only (09 R155; 03 R53; 08 R136, R137). -/
def stoppedOnly : Field → Bool
  | .openLimit => true
  | .ranks => true
  | .banks => true
  | .rows => true
  | .interleave => true
  | .channelClock => true
  | .actTime => true
  | .preTime => true
  | .minOpen => true
  | .writeRecovery => true
  | .readLatency => true
  | .refreshTime => true
  | .rankGap => true
  | .startWait => true
  | .startRefreshes => true
  | _ => false

/-- The bounds of a field that takes a range of numbers or of codes. -/
def fieldRange : Field → Nat × Nat
  | .creditLimit _ => (1, 32)
  | .tenureMode => (0, 1)
  | .quantum _ => (1, 255)
  | .idleLimit _ => (0, 63)
  | .closeOnHandover => (0, 1)
  | .policy => (0, 2)
  | .openLimit => (1, 8)
  | .rowIdle => (0, 255)
  | .bypassLimit => (0, 15)
  | .missStreak => (1, 7)
  | .hitStreak => (1, 7)
  | .refreshMode => (0, 1)
  | .group => (1, 4)
  | .refi => (4, 63)
  | .forceLevel => (1, 8)
  | .cueLink => (0, 1)
  | .caching _ => (0, 1)
  | .filterEnable => (0, 1)
  | .noticeLimit => (1, 255)
  | .lockLimit => (1, 255)
  | .ranks => (1, 2)
  | .banks => (4, 8)
  | .rows => (4096, 32768)
  | .interleave => (0, 1)
  | .channelClock => (200, 400)
  | .actTime => (2, 15)
  | .preTime => (2, 15)
  | .minOpen => (4, 40)
  | .writeRecovery => (2, 15)
  | .readLatency => (2, 8)
  | .refreshTime => (8, 255)
  | .rankGap => (0, 63)
  | .startWait => (100, 1000)
  | .startRefreshes => (2, 16)
  | .corrThreshold => (1, 65535)
  | .commitLimit => (1, 255)
  | .lease => (1, 255)
  | .alertLink => (0, 1)
  | .status _ => (1, 0)

/-- The further condition of a field on its value: a list of values, a bound by another field, or the
credit sums (09 R157). -/
def fieldCheck (s : State) (f : Field) (v : Nat) : Bool :=
  match f with
  | .creditLimit x =>
    v + max (linkOf s (otherLink x)).currentLimit (s.settings.creditLimit.get (otherLink x)) ≤ 48
  | .group => v ≠ 3
  | .openLimit => v ≤ s.settings.geometry.banks
  | .banks => v = 4 || v = 8
  | .rows => v = 4096 || v = 8192 || v = 16384 || v = 32768
  | .channelClock => v % 50 = 0
  | _ => true

/-- A MGMT-WRITE may name this value (BAD_VALUE otherwise). -/
def valueOk (s : State) (f : Field) (v : Nat) : Bool :=
  (fieldRange f).1 ≤ v && v ≤ (fieldRange f).2 && fieldCheck s f v

/-- The link of a code, for a value that is one. -/
def linkOfCode (v : Nat) : Link := if v = 0 then .a else .b

/-- The settings with one field set to a value that is valid for it. -/
def setField (c : Settings) (f : Field) (v : Nat) : Settings :=
  match f with
  | .creditLimit x => { c with creditLimit := c.creditLimit.set x v }
  | .tenureMode => { c with tenure.mode := if v = 0 then .shared else .tenure }
  | .quantum x => { c with tenure.quantum := c.tenure.quantum.set x v }
  | .idleLimit x => { c with tenure.idleLimit := c.tenure.idleLimit.set x v }
  | .closeOnHandover => { c with tenure.closeOnHandover := v = 1 }
  | .policy =>
    { c with rows.policy := if v = 0 then .opened else if v = 1 then .closed else .adaptive }
  | .openLimit => { c with rows.openLimit := v }
  | .rowIdle => { c with rows.rowIdle := v }
  | .bypassLimit => { c with rows.bypassLimit := v }
  | .missStreak => { c with rows.missStreak := v }
  | .hitStreak => { c with rows.hitStreak := v }
  | .refreshMode => { c with refresh.mode := if v = 0 then .internal else .linked }
  | .group => { c with refresh.group := v }
  | .refi => { c with refresh.refi := v }
  | .forceLevel => { c with refresh.forceLevel := v }
  | .cueLink => { c with refresh.cueLink := linkOfCode v }
  | .caching x => { c with notices.caching := c.notices.caching.set x (v = 1) }
  | .filterEnable => { c with notices.filter := v = 1 }
  | .noticeLimit => { c with notices.limit := v }
  | .lockLimit => { c with lockLimit := v }
  | .ranks => { c with geometry.ranks := v }
  | .banks => { c with geometry.banks := v }
  | .rows => { c with geometry.rows := v }
  | .interleave => { c with geometry.interleave := if v = 0 then .rowMajor else .spanRotate }
  | .channelClock => { c with profile.channelClock := v }
  | .actTime => { c with profile.actTime := v }
  | .preTime => { c with profile.preTime := v }
  | .minOpen => { c with profile.minOpen := v }
  | .writeRecovery => { c with profile.writeRecovery := v }
  | .readLatency => { c with profile.readLatency := v }
  | .refreshTime => { c with profile.refreshTime := v }
  | .rankGap => { c with profile.rankGap := v }
  | .startWait => { c with profile.startWait := v }
  | .startRefreshes => { c with profile.startRefreshes := v }
  | .corrThreshold => { c with profile.corrThreshold := v }
  | .commitLimit => { c with mgmt.commitLimit := v }
  | .lease => { c with mgmt.lease := v }
  | .alertLink => { c with mgmt.alertLink := linkOfCode v }
  | .status _ => c

/-- A field is set, and nothing else happens. -/
def storeField (s : State) (f : Field) (v : Nat) : State :=
  { s with settings := setField s.settings f v }

/-- A write of TENURE MODE: a change takes the holder to NONE (04 R85). -/
def storeTenureMode (s : State) (v : Nat) : State :=
  if tenureModeCode s.settings.tenure.mode = v then s
  else withTenure (storeField s .tenureMode v) noTenure

/-- A write of REFRESH MODE: a change clears cue-seen and reloads a running timer (07 R122). -/
def storeRefreshMode (s : State) (v : Nat) : State :=
  if refreshModeCode s.settings.refresh.mode = v then s
  else
    let s := storeField s .refreshMode v
    let s := withRefresh s { s.refresh with cueSeen := false }
    if timerRuns s.refresh.timer then loadRefreshTimer s else s

/-- A write of FORCE_LEVEL is judged at the write (07 R122, R124). -/
def storeForceLevel (s : State) (v : Nat) : State := forceTest (storeField s .forceLevel v)

/-- A write of CUE_LINK clears cue-seen (07 R122). -/
def storeCueLink (s : State) (v : Nat) : State :=
  let s := storeField s .cueLink v
  withRefresh s { s.refresh with cueSeen := false }

/-- A write of FILTER_ENABLE; writing no clears both Recent Line Lists (06 R102). -/
def storeFilterEnable (s : State) (v : Nat) : State :=
  let s := storeField s .filterEnable v
  if v = 0 then clearRecent s else s

/-- What a MGMT-WRITE that passed its checks does, by its field. -/
def writeField (s : State) (f : Field) (v : Nat) : State :=
  match f with
  | .tenureMode => storeTenureMode s v
  | .refreshMode => storeRefreshMode s v
  | .forceLevel => storeForceLevel s v
  | .cueLink => storeCueLink s v
  | .filterEnable => storeFilterEnable s v
  | f => storeField s f v

end Sys2Proof.Machine
end

