-- ==== Sys2Proof/Machine/Mgmt.lean ====
section
/-! DEFINITION. The Management Unit (file 09): the taking of a management packet and the effect of each
kind. An effect answers the state after it and the packet's outcome: decided, or undecided for a long
operation that has begun (R149). -/

namespace Sys2Proof.Machine

/-- How a packet's entry joins the reply list: its status, absent while undecided, and its value. -/
abbrev Decision := Option MgmtStatus × ReplyValue

/-- The packet is refused. -/
def refusal (s : State) (status : MgmtStatus) : State × Decision := (s, some status, .none)

/-- The packet is answered OK without a value. -/
def okReply (s : State) : State × Decision := (s, some .ok, .none)

/-- A long operation has begun: its reply follows at its end. -/
def begun (s : State) : State × Decision := (s, none, .none)

/-- A kind that needs the claim, from a link that does not hold it, is answered NOT_OWNER (R150). -/
def withClaim (s : State) (x : Link) (effect : State → State × Decision) : State × Decision :=
  if s.mgmt.claim = some x then effect s else refusal s .notOwner

/-- The lease is loaded with LEASE (R152). -/
def loadLease (s : State) : State :=
  { s with mgmt := { s.mgmt with lease := loaded (msUnits s.settings.mgmt.lease) } }

/-- A packet of the holder renews the lease, with the LEASE in force after it (R152). -/
def renewLease (s : State) (x : Link) : State := if s.mgmt.claim = some x then loadLease s else s

/-- A packet joins the end of its link's reply list (R148, R149). -/
def joinReplies (s : State) (x : Link) (kind : MgmtKind) (d : Decision) : State :=
  { s with mgmt := { s.mgmt with
    replies := s.mgmt.replies.set x (s.mgmt.replies.get x ++ [⟨kind, d.1, d.2, s.event⟩]) } }

/-- A management packet that arrives during a warm reset is an overrun, or is discarded and owes its
credit (R162). -/
def discardPacket (s : State) (x : Link) : State :=
  if replyRoom ≤ (s.mgmt.replies.get x).length + s.mgmt.discarded.get x
    then raiseProtocol s x .mgmtOverrun
  else modLink { s with mgmt := { s.mgmt with
    discarded := s.mgmt.discarded.set x (s.mgmt.discarded.get x + 1) } } x (owe s.event 0 1)

/-- An accepted management packet arrives: it is discarded in a warm reset, an overrun with 2 replies
in the list, or taken (R147, R148, R152). -/
def arriveMgmt (x : Link) (kind : MgmtKind) (effect : State → State × Decision) (s : State) :
    State :=
  if warmReset s then discardPacket s x
  else if replyRoom ≤ (s.mgmt.replies.get x).length then raiseProtocol s x .mgmtOverrun
  else
    let r := effect s
    settle (renewLease (joinReplies r.1 x kind r.2) x)

/-- A management packet arrives on a link (10 R172, 09 R147). -/
def takeMgmt (s : State) (x : Link) (seq : Byte) (kind : MgmtKind)
    (effect : State → State × Decision) : State :=
  receive s x seq (arriveMgmt x kind effect)

/-! ## Settings records (R155) -/

/-- MGMT-READ (R150, R155). -/
def mgmtReadEffect (record field : Byte) (s : State) : State × Decision :=
  match fieldOf record field with
  | none => refusal s .badIndex
  | some f => (s, some .ok, .word (BitVec.ofNat 32 (readField s f)))

/-- The channel is INIT or QUIESCED. -/
def channelStopped (s : State) : Bool := s.chan.state = .init || s.chan.state = .quiesced

/-- The field may not be named by a MGMT-WRITE (R158). -/
def readOnly : Field → Bool
  | .status _ => true
  | _ => false

/-- A MGMT-WRITE of a field from the holder (R150, R155). -/
def writeChecked (f : Field) (value : BitVec 32) (s : State) : State × Decision :=
  if readOnly f then refusal s .badIndex
  else if stoppedOnly f && !channelStopped s then refusal s .wrongState
  else if valueOk s f value.toNat then okReply (writeField s f value.toNat)
  else refusal s .badValue

/-- MGMT-WRITE (R150, R155). -/
def mgmtWriteEffect (x : Link) (record field : Byte) (value : BitVec 32) (s : State) :
    State × Decision :=
  withClaim s x fun s =>
    match fieldOf record field with
    | none => refusal s .badIndex
    | some f => writeChecked f value s

/-- A MGMT-WRITE of a named field. -/
def writeFieldEffect (x : Link) (f : Field) (value : BitVec 32) (s : State) : State × Decision :=
  withClaim s x (writeChecked f value)

/-! ## Tables (02 R35 to R42) -/

/-- The tables by their codes (11 section 11.8). -/
inductive TableName where
  | window
  | region
  | default
  deriving DecidableEq, Repr

/-- A table by its code. -/
def tableName (code : Byte) : Option TableName :=
  match code.toNat with
  | 0 => some .window
  | 1 => some .region
  | 2 => some .default
  | _ => none

/-- How many entries a table has (02 R35 step 1). -/
def tableLength : TableName → Nat
  | .window => 16
  | .region => 32
  | .default => 1

/-- A table and an index inside it. -/
def tableIndex (table index : Byte) : Option (TableName × Nat) :=
  match tableName table with
  | none => none
  | some n => if index.toNat < tableLength n then some (n, index.toNat) else none

/-- A set by its code: 0 ACTIVE, 1 SHADOW. -/
def tableSet (s : State) (code : Byte) : Option TableSet :=
  match code.toNat with
  | 0 => some s.xlate.active
  | 1 => some s.xlate.shadow
  | _ => none

/-- An entry of a set as its twelve bytes. -/
def readEntry (t : TableSet) (n : TableName) (i : Nat) : BitVec 96 :=
  match n with
  | .window => entryOfWindow (t.windows.getD i coldWindow)
  | .region => entryOfRegion (t.regions.getD i coldRegion)
  | .default => entryOfDefault t.default

/-- An entry of a set replaced by what twelve bytes say; none for BAD_VALUE (02 R35). -/
def writeEntry (t : TableSet) (n : TableName) (i : Nat) (e : BitVec 96) : Option TableSet :=
  match n with
  | .window => (windowOfEntry e).map fun w => { t with windows := t.windows.set i w }
  | .region => (regionOfEntry e).map fun r => { t with regions := t.regions.set i r }
  | .default => (rightsOfEntry e).map fun r => { t with default := r }

/-- TABLE-READ (02 R36). -/
def tableReadEffect (set table index : Byte) (s : State) : State × Decision :=
  match tableSet s set, tableIndex table index with
  | some t, some (n, i) => (s, some .ok, .entry (readEntry t n i))
  | _, _ => refusal s .badIndex

/-- TABLE-WRITE (02 R35). -/
def tableWriteEffect (x : Link) (table index : Byte) (e : BitVec 96) (s : State) :
    State × Decision :=
  withClaim s x fun s =>
    match tableIndex table index with
    | none => refusal s .badIndex
    | some (n, i) =>
      if s.xlate.commit = .draining then refusal s .busy
      else match writeEntry s.xlate.shadow n i e with
        | none => refusal s .badValue
        | some t => okReply { s with xlate := { s.xlate with shadow := t } }

/-- TABLE-REVERT (02 R37). -/
def tableRevertEffect (x : Link) (s : State) : State × Decision :=
  withClaim s x fun s =>
    if s.xlate.commit = .draining then refusal s .busy else okReply (revertShadow s)

/-- A long operation begins. -/
def beginLong (s : State) (kind : LongKind) (x : Link) : State :=
  { s with mgmt := { s.mgmt with longOp := some (kind, x) } }

/-- The commit state becomes DRAINING with the commit timer loaded (02 R39). -/
def beginDrain (s : State) (x : Link) : State :=
  beginLong { s with xlate := { s.xlate with
    commit := .draining
    commitTimer := loaded (commitUnits s.settings.mgmt.commitLimit) } } .commit x

/-- The switch made at once, answered with the epoch after it (02 R39). -/
def switchNow (s : State) : State × Decision :=
  let s := commitSwitch s
  (s, some .ok, epochValue s)

/-- A commit is refused in STARTING, QUIESCING and RESUMING (02 R39). -/
def commitBarred (s : State) : Bool :=
  s.chan.state = .starting || s.chan.state = .quiescing || s.chan.state = .resuming

/-- TABLE-COMMIT (02 R39). -/
def tableCommitEffect (x : Link) (s : State) : State × Decision :=
  withClaim s x fun s =>
    if commitBarred s then refusal s .wrongState
    else if s.xlate.commit = .draining then refusal s .busy
    else if channelStopped s || !anyOnPath s then switchNow s
    else if s.mgmt.longOp.isSome then refusal s .busy
    else begun (beginDrain s x)

/-! ## The claim (R151) -/

/-- CLAIM. -/
def claimEffect (x : Link) (s : State) : State × Decision :=
  if s.mgmt.claim = some (otherLink x) then refusal s .claimed
  else okReply (loadLease { s with mgmt := { s.mgmt with claim := some x } })

/-- The claim becomes FREE, and SHADOW is reverted (R151, R153). -/
def freeClaim (s : State) : State :=
  revertAtFreeing { s with mgmt := { s.mgmt with claim := none, lease := .stopped } }

/-- RELEASE. -/
def releaseEffect (x : Link) (s : State) : State × Decision :=
  if s.mgmt.claim = some x then okReply (freeClaim s) else refusal s .notOwner

/-! ## The channel operations (08 R131 to R135) -/

/-- The geometry and the timing profile can run together (08 R131). -/
def profileRuns (s : State) : Bool :=
  s.settings.profile.actTime + s.settings.profile.readLatency ≤ s.settings.profile.minOpen

/-- The start sequence begins (08 R131, R132 step 1). -/
def beginStart (s : State) (x : Link) : State :=
  beginLong { s with
    dram := forgetRanks s.dram s.settings.geometry.ranks
    chan := { s.chan with
      state := .starting
      sleeping := []
      clockOn := true
      startTimer := loaded (usUnits s.settings.profile.startWait)
      startPhase := .waiting } } .start x

/-- CHANNEL-START (08 R131). -/
def channelStartEffect (x : Link) (s : State) : State × Decision :=
  withClaim s x fun s =>
    if s.chan.state ≠ .init then refusal s .wrongState
    else if s.mgmt.longOp.isSome then refusal s .busy
    else if !profileRuns s then refusal s .badValue
    else begun (beginStart s x)

/-- CHANNEL-QUIESCE (08 R133). -/
def channelQuiesceEffect (x : Link) (s : State) : State × Decision :=
  withClaim s x fun s =>
    if s.chan.state ≠ .run then refusal s .wrongState
    else if s.mgmt.longOp.isSome then refusal s .busy
    else begun (beginLong { s with chan := { s.chan with
      state := .quiescing, lastRun := some s.settings.geometry } } .quiesce x)

/-- The resume wait in timebase units: a tenth of the start wait, rounded up (08 R135). -/
def resumeWait (s : State) : Nat := (usUnits s.settings.profile.startWait + 9) / 10

/-- The resume sequence begins (08 R135 step 1, 07 R128). -/
def beginResume (s : State) (x : Link) : State :=
  let ranks := installedRanks s
  let s := sendDram s (ranks.map DramCommand.srExit)
  let s := { s with chan := { s.chan with
    state := .resuming
    sleeping := s.chan.sleeping.filter fun r => !ranks.contains r
    resumeTimer := loaded (resumeWait s)
    resumePhase := .waiting } }
  let s := loadRefreshTimer (withRefresh s { s.refresh with debt := 0, cueSeen := false })
  beginLong s .resume x

/-- CHANNEL-RESUME (08 R135). -/
def channelResumeEffect (x : Link) (s : State) : State × Decision :=
  withClaim s x fun s =>
    if s.chan.state ≠ .quiesced then refusal s .wrongState
    else if s.mgmt.longOp.isSome then refusal s .busy
    else if !(profileRuns s && ranksSleep s) then refusal s .badValue
    else begun (beginResume s x)

/-! ## The warm reset (R162) -/

/-- The service of a bank that has sent no WRITE-COLUMN and has nothing outstanding sends no further
command and ends; one that has begun to write goes on (08 R145). A bank ACTIVATING or PRECHARGING
runs its time first. -/
def stopUnbegun (b : Bank) : Bank :=
  match b.serving with
  | none => b
  | some v =>
    if v.wrote then b
    else if v.due = 0 && (b.state = .closed || b.state = .openRow) then
      { b with
        serving := none
        closeAfter := false
        closePending := b.closePending || b.state = .openRow }
    else { b with serving := some { v with toRead := [], toWrite := [], reserved := false } }

/-- The channel's work at the taking of a warm reset: every bank is asked to close, and services that
may not go on end (08 R145). -/
def beginWarmWork (s : State) : State :=
  let s := requestCloses s (positions s)
  { s with
    sched := { s.sched with banks := s.sched.banks.map stopUnbegun }
    chan := { s.chan with warm := some [] } }

/-- HUB-RESET is taken: any other long operation is abandoned (R162). -/
def hubResetEffect (x : Link) (s : State) : State × Decision :=
  withClaim s x fun s =>
    let s := if s.xlate.commit = .draining then abandonCommit s else s
    let s := { s with mgmt := { s.mgmt with discarded := .both 0 } }
    begun (beginWarmWork (beginLong s .hubReset x))

end Sys2Proof.Machine
end

