-- ==== Sys2Proof/Machine/Requests.lean ====
section
/-! DEFINITION. The arrival of requests (01 R3) and the intake step (01 R5 to R11; 05 R89, R91, R93,
R95). -/

namespace Sys2Proof.Machine

/-! ## Arrival -/

/-- A record at its arrival (01 R1, R3); the arrival number is given when it takes its slot. -/
def arriving (x : Link) (kind : ReqKind) (tag : Byte) : Txn where
  state := .intake
  link := x
  tag := tag
  kind := kind
  addr := none
  count := none
  unusedSet := false
  arrival := 0
  epoch := none
  phys := none
  loc := none
  transNo := none
  masks := none
  data := []
  statuses := []
  mergeNeeded := false
  lockWait := none
  pred := none
  bypass := 0
  stale := false
  status := none
  orphan := false
  replySince := 0

/-- A request arrives within credit and takes the lowest FREE slot, or is a credit overrun (01 R3). -/
def arriveRequest (t : Txn) (s : State) : State :=
  if (linkOf s t.link).currentLimit ≤ (liveOf s t.link).length then
    raiseProtocol s t.link .requestOverrun
  else match freeSlot s.table.slots with
    | none => raiseProtocol s t.link .requestOverrun
    | some i =>
      let s' := setSlot s i (some { t with arrival := s.table.arrivalCounter })
      { s' with table := { s'.table with arrivalCounter := s'.table.arrivalCounter + 1 } }

/-- The record of a READ or LOCK-READ. -/
def readRequest (x : Link) (kind : ReqKind) (tag count maskCount : Byte) (addr : LinkAddr) : Txn :=
  { arriving x kind tag with
    addr := some addr
    count := some count.toNat
    unusedSet := maskCount ≠ 0 }

/-- The record of a WRITE or LOCK-WRITE; a mask count of 0 is an absent mask list (11 section 11.3). -/
def writeRequest (x : Link) (kind : ReqKind) (tag count : Byte) (addr : LinkAddr)
    (masks : List Mask) (data : List Block) : Txn :=
  let masks := if masks.isEmpty then none else some masks
  { arriving x kind tag with
    addr := some addr
    count := some count.toNat
    masks := masks
    data := data
    mergeNeeded := someMerge masks }

/-- The record of a LOCK-DROP. -/
def dropRequest (x : Link) (tag : Byte) (unused : BitVec 16) (addr : LinkAddr) : Txn :=
  { arriving x .lockDrop tag with addr := some addr, count := some 1, unusedSet := unused ≠ 0 }

/-- READ. -/
def execRead (x : Link) (seq tag count maskCount : Byte) (addr : LinkAddr) (s : State) :
    Host.Outcome State Fault Refusal :=
  .next (receive s x seq (arriveRequest (readRequest x .read tag count maskCount addr)))

/-- WRITE. -/
def execWrite (x : Link) (seq tag count : Byte) (addr : LinkAddr) (masks : List Mask)
    (data : List Block) (s : State) : Host.Outcome State Fault Refusal :=
  .next (receive s x seq (arriveRequest (writeRequest x .write tag count addr masks data)))

/-- LOCK-READ. -/
def execLockRead (x : Link) (seq tag count maskCount : Byte) (addr : LinkAddr) (s : State) :
    Host.Outcome State Fault Refusal :=
  .next (receive s x seq (arriveRequest (readRequest x .lockRead tag count maskCount addr)))

/-- LOCK-WRITE. -/
def execLockWrite (x : Link) (seq tag count : Byte) (addr : LinkAddr) (masks : List Mask)
    (data : List Block) (s : State) : Host.Outcome State Fault Refusal :=
  .next (receive s x seq (arriveRequest (writeRequest x .lockWrite tag count addr masks data)))

/-- LOCK-DROP. -/
def execLockDrop (x : Link) (seq tag : Byte) (unused : BitVec 16) (addr : LinkAddr) (s : State) :
    Host.Outcome State Fault Refusal :=
  .next (receive s x seq (arriveRequest (dropRequest x tag unused addr)))

/-- FENCE. -/
def execFence (x : Link) (seq tag : Byte) (s : State) : Host.Outcome State Fault Refusal :=
  .next (receive s x seq (arriveRequest (arriving x .fence tag)))

/-! ## The intake step -/

/-- Another live slot of the link holds the tag (01 R8). Where the only ones are requests not yet
stepped, which arrived later, the spec says both: a free value (log entry 7). -/
def tagTaken (s : State) (i : Nat) (t : Txn) : Bool :=
  let same := (liveOf s t.link).filter fun p => p.1 ≠ i && p.2.tag = t.tag
  (same.any fun p => p.2.state ≠ .intake) || (!same.isEmpty && Config.youngerTagRefuses)

/-- The slot enters QUEUED (01 R11). -/
def enterQueued (s : State) (i : Nat) : State := modSlot s i fun t => { t with state := .queued }

/-- QUEUED and blocked on the entry of a block (01 R13, 05 R91). -/
def queueBlocked (s : State) (i block : Nat) : State := waitOn (enterQueued s i) i block

/-- QUEUED with its ordering point (01 R11, R13). -/
def queueFree (s : State) (i : Nat) : State := orderingPoint (enterQueued s i) i

/-- A LOCK-READ at the Lock Table (05 R89). -/
def placeLockRead (s : State) (x : Link) (i block : Nat) : State :=
  if 2 ≤ (locksOf s x).length then enterReply s i .lockRefused
  else match lockOn s block with
    | some e => if e.holder = x then enterReply s i .lockRefused else queueBlocked s i block
    | none => queueFree (takeLock s i x block) i

/-- A LOCK-WRITE at the Lock Table (05 R93). -/
def placeLockWrite (s : State) (x : Link) (i block : Nat) : State :=
  if heldBy s x block then
    queueFree (modLock s block fun e => { e with
      state := .writing, owner := some i, timer := .stopped }) i
  else enterReply s i .lockLost

/-- A LOCK-DROP at the Lock Table (05 R95). -/
def placeLockDrop (s : State) (x : Link) (i block : Nat) : State :=
  if heldBy s x block then enterReply (removeLock s block) i .ok else enterReply s i .lockLost

/-- A READ or WRITE that passed its checks: blocked on another link's entry, or free (05 R91). -/
def placeAccess (s : State) (i : Nat) (t : Txn) : State :=
  match blockingEntry s t with
  | some block => queueBlocked s i block
  | none => queueFree s i

/-- A translated request goes on as its kind requires (01 R11). -/
def placeRequest (s : State) (i : Nat) (t : Txn) (phys : Nat) : State :=
  match t.kind with
  | .lockRead => placeLockRead s t.link i phys
  | .lockWrite => placeLockWrite s t.link i phys
  | .lockDrop => placeLockDrop s t.link i phys
  | _ => placeAccess s i t

/-- The Translation Unit is consulted: the epoch is recorded whatever the outcome (01 R6, 02 R33). -/
def consult (s : State) (i : Nat) (t : Txn) : State :=
  let t := { t with epoch := some s.xlate.epoch }
  match translate s t with
  | .error refusal => enterReply (setSlot s i (some t)) i refusal
  | .ok phys =>
    let t := { t with phys := some phys, loc := some (locate s.settings.geometry phys) }
    placeRequest (setSlot s i (some t)) i t phys

/-- A FENCE enters FENCE-WAIT, and goes on at once if its condition holds (01 R11, R20). -/
def placeFence (s : State) (i : Nat) (t : Txn) : State :=
  settleFence (setSlot s i (some { t with state := .fenceWait })) t.link

/-- The checks of the intake step in their order (01 R6). -/
def intakeStep (s : State) (i : Nat) (t : Txn) : State :=
  if malformed t then enterReply s i .malformed
  else if tagTaken s i t then enterReply s i .tagInUse
  else if t.kind = .fence then placeFence s i t
  else if s.chan.state ≠ .run then enterReply s i .notReady
  else if misaligned t then enterReply s i .align
  else consult s i t

/-- The slot whose intake step may be taken on a link (01 R5). -/
def intakeReady (s : State) (x : Link) : Option (Nat × Txn) :=
  if fenceWaiting s x || s.xlate.commit = .draining || warmReset s then none
  else (intakeOrder s x).head?

/-- The intake step of the oldest slot. -/
def takeIntake (x : Link) (s : State) : State :=
  match intakeReady s x with
  | none => s
  | some p => settle (intakeStep s p.1 p.2)

/-- INTAKE_STEP. -/
def execIntakeStep (x : Link) (s : State) : Host.Outcome State Fault Refusal :=
  happens (intakeReady s x).isSome s (takeIntake x)

end Sys2Proof.Machine
end

