-- ==== Sys2Proof/Machine/DramSteps.lean ====
section
/-! DEFINITION. The issue of a transaction (03 R57) and the steps of the DRAM channel (03 R49, R50, R62;
07 R125; 08 R132, R138 to R144). -/

namespace Sys2Proof.Machine

/-! ## Issue -/

/-- A transaction passed over by the issue of a younger one of its bank has its bypass count raised,
while it is below BYPASS_LIMIT (03 R57). -/
def raiseBypass (limit : Nat) (s : State) (i : Nat) : State :=
  modSlot s i fun t => { t with bypass := if t.bypass < limit then t.bypass + 1 else t.bypass }

/-- The slots passed over: eligible, in the same bank queue, older (03 R57). -/
def passedOver (s : State) (pos : Nat) (t : Txn) : List Nat :=
  ((bankQueue s pos).filter fun p => eligible s p.2 && arrivedBefore s p.2 t).map fun p => p.1

/-- The bank at the issue of a transaction: classified, last row replaced, timer stopped, serving
(03 R57). -/
def bankAtIssue (s : State) (i : Nat) (t : Txn) (b : Bank) : Bank :=
  { classify s b (rowOf t) with
    lastRow := rowOf t, idleTimer := .stopped, serving := some (planService i t s.event) }

/-- The state of the slot on the channel (01 R16). -/
def onChannelState (t : Txn) : SlotState := if isWrite t && t.mergeNeeded then .merge else .access

/-- A write that stores no block completes when its bank is OPEN with its row (08 R139). -/
def completeEmpty (s : State) (pos : Nat) : State :=
  match bankAt s pos with
  | none => s
  | some b =>
    match b.serving with
    | none => s
    | some v =>
      if b.state = .openRow && b.row = slotRow s v.slot && serviceSpent v
        then reportWrite s pos v.slot else s

/-- The issue of the transaction in slot `i` at a bank (03 R57). -/
def issueAt (s : State) (pos i : Nat) (t : Txn) : State :=
  let passed := passedOver s pos t
  let s := if isWrite t then reserveNotices s i t else s
  let s := passed.foldl (raiseBypass s.settings.rows.bypassLimit) s
  let s := touchOpenRows (modBank s pos (bankAtIssue s i t)) pos
  let s := modSlot s i fun t => { t with state := onChannelState t }
  let s := { s with sched := { s.sched with lastGranted := pos } }
  completeEmpty s pos

/-- The grant of the issue arbiter. -/
def issueGranted (s : State) : State :=
  match grantee s with
  | none => s
  | some pos =>
    match choice s pos with
    | none => s
    | some p => settle (issueAt s pos p.1 p.2)

/-- ISSUE. -/
def execIssue (s : State) : Host.Outcome State Fault Refusal :=
  happens (grantee s).isSome s issueGranted

/-! ## Commands of a service -/

/-- The service of a bank, if it may go on and no command of an earlier one is ready (03 R56). -/
def serviceToSend (s : State) (pos : Nat) : Option (Bank × Service) :=
  (bankAt s pos).bind fun b => b.serving.bind fun v =>
    if mayContinue s v && !earlierCommandReady s v.issued then some (b, v) else none

/-- The column of block `k` of the span in a slot. -/
def columnOf (s : State) (i k : Nat) : Nat :=
  (((slotAt s i).bind fun t => t.loc).map fun l => l.column + k).getD 0

/-- The first cell of block `k` of the span in a slot. -/
def cellOfBlock (s : State) (i k : Nat) : Nat :=
  (((slotAt s i).bind fun t => t.loc).map fun l => blockCell l k).getD 0

/-- ACTIVATE may be sent to the bank, with this row, while the channel is RUN or QUIESCING (03 R49, R52;
08 R130, R138). -/
def activateReady (s : State) (pos : Nat) : Option Nat :=
  match serviceToSend s pos with
  | none => none
  | some (b, v) =>
    if b.state = .closed && channelServes s && (v.reserved || hasRoom s (rankOf s pos))
      then slotRow s v.slot else none

/-- ACTIVATE is sent: the bank enters ACTIVATING and joins its rank's open-row list (03 R49, R51). -/
def sendActivate (pos : Nat) (s : State) : State :=
  match activateReady s pos with
  | none => s
  | some row =>
    let s := modBank s pos fun b => { b with
      state := .activating
      row := some row
      serving := b.serving.map fun v => { v with reserved := false }
      activatedAt := s.event }
    settle (sendDram (joinOpenRows s pos) [.activate pos row])

/-- ACTIVATE_SENT. -/
def execActivateSent (pos : Nat) (s : State) : Host.Outcome State Fault Refusal :=
  happens (activateReady s pos).isSome s (sendActivate pos)

/-- The bank is in a given state. -/
def bankIs (s : State) (pos : Nat) (st : BankState) : Bool := (bankAt s pos).any fun b => b.state = st

/-- The bank serves a transaction that has sent no WRITE-COLUMN. -/
def servesUnbegun (s : State) (pos : Nat) : Bool :=
  (bankAt s pos).any fun b => b.serving.any fun v => !v.wrote

/-- The activation time has passed: the bank is OPEN. During a warm reset a service that has not begun
to write ends here (03 R49; 08 R139, R145). -/
def completeActivation (pos : Nat) (s : State) : State :=
  let s := modBank s pos fun b => { b with state := .openRow }
  settle (if warmReset s && servesUnbegun s pos then releaseBank s pos else completeEmpty s pos)

/-- ACTIVATION_COMPLETE. -/
def execActivationComplete (pos : Nat) (s : State) : Host.Outcome State Fault Refusal :=
  happens (bankIs s pos .activating) s (completeActivation pos)

/-- A column command may be sent to the bank: it is OPEN with the row (08 R138). -/
def columnReady (s : State) (pos : Nat) : Option Service :=
  match serviceToSend s pos with
  | none => none
  | some (b, v) => if b.state = .openRow && b.row = slotRow s v.slot then some v else none

/-- The service and the block of the next READ-COLUMN (08 R139, R143). -/
def readColumnReady (s : State) (pos : Nat) : Option (Service × Nat) :=
  match columnReady s pos with
  | none => none
  | some v => v.toRead.head?.map fun k => (v, k)

/-- READ-COLUMN is sent; its data are due (08 R138). -/
def sendReadColumn (pos : Nat) (s : State) : State :=
  match readColumnReady s pos with
  | none => s
  | some (v, k) =>
    let s' := modBank s pos fun b => { b with
      serving := some { v with toRead := v.toRead.drop 1, due := v.due + 1 } }
    let s' := { s' with chan := { s'.chan with readsDue := s'.chan.readsDue ++ [⟨pos, k⟩] } }
    sendDram s' [.readColumn pos (columnOf s v.slot k)]

/-- READ_COLUMN_SENT. -/
def execReadColumnSent (pos : Nat) (s : State) : Host.Outcome State Fault Refusal :=
  happens (readColumnReady s pos).isSome s (sendReadColumn pos)

/-- The service and the block of the next WRITE-COLUMN: the reads of the service are over and no read
data are due on the data path (08 R138, R143). -/
def writeColumnReady (s : State) (pos : Nat) : Option (Service × Nat × Block) :=
  match columnReady s pos with
  | none => none
  | some v =>
    if v.toRead.isEmpty && v.due = 0 && s.chan.readsDue.isEmpty then
      v.toWrite.head?.map fun w => (v, w)
    else none

/-- WRITE-COLUMN is sent: the block is stored with new check bits, and after the last one the write is
performed (08 R138 to R140, R143). -/
def sendWriteColumn (pos : Nat) (s : State) : State :=
  match writeColumnReady s pos with
  | none => s
  | some (v, k, data) =>
    let rest := v.toWrite.drop 1
    let s' := modBank s pos fun b => { b with
      serving := some { v with toWrite := rest, wrote := true }, writtenAt := s.event }
    let s' := { s' with dram := writeBlock s'.dram (cellOfBlock s v.slot k) data }
    let s' := sendDram s' [.writeColumn pos (columnOf s v.slot k) data]
    settle (if rest.isEmpty then reportWrite s' pos v.slot else s')

/-- WRITE_COLUMN_SENT. -/
def execWriteColumnSent (pos : Nat) (s : State) : Host.Outcome State Fault Refusal :=
  happens (writeColumnReady s pos).isSome s (sendWriteColumn pos)

/-! ## Read data -/

/-- What the next read data belong to: the data due, the service, and the transaction. -/
def dataDue (s : State) : Option (ReadDue × Service × Txn) :=
  match s.chan.readsDue with
  | [] => none
  | r :: _ =>
    (bankAt s r.pos).bind fun b => b.serving.bind fun v => (slotAt s v.slot).map fun t => (r, v, t)

/-- The cause of an UNCORRECTABLE alert: READ, or MERGE for a merge read (08 R142). -/
def readCause (t : Txn) : Cause := if isRead t then .read else .merge

/-- The data of the READ-COLUMN sent first arrive, with the bits that were found in error since the
block was last looked at, and are checked (08 R138, R140 to R142). -/
def arriveData (es : List ErrMask) (s : State) : State :=
  match dataDue s with
  | none => s
  | some (r, v, t) =>
    let base := cellOfBlock s v.slot r.index
    let s := { s with dram := damage s.dram base es }
    let classes := blockClasses s.dram base
    let block := blockPassedOn s.dram base
    let s := takeWords t.link (t.phys.getD 0 + 32 * r.index) (readCause t) s false classes
    let v := { v with
      due := v.due - 1
      got := v.got ++ [(r.index, blockStatusOf classes, block)] }
    let s := { s with chan := { s.chan with readsDue := s.chan.readsDue.drop 1 } }
    let s := modBank s r.pos fun b => { b with serving := some v }
    settle (if v.due = 0 && v.toRead.isEmpty then afterLastRead s r.pos v t else s)

/-- READ_COLUMN_DATA_ARRIVAL. -/
def execReadColumnDataArrival (e0 e1 e2 e3 : ErrMask) (s : State) :
    Host.Outcome State Fault Refusal :=
  happens (dataDue s).isSome s (arriveData [e0, e1, e2, e3])

/-! ## Precharge -/

/-- PRECHARGE may be sent for a close request, which says that its times have passed: no transaction's
command and no close of a lower position goes before it (03 R50, R56; log entries 1 and 4). -/
def closeReady (s : State) (pos : Nat) : Bool :=
  (bankAt s pos).any wantsClose && !anyCommandReady (noteClocks s pos) &&
    !lowerCloseDue (noteClocks s pos) pos

/-- PRECHARGE may be sent for the bank's own CONFLICT access, which says that its times have passed
(03 R56, R57; log entries 1 and 4). -/
def conflictReady (s : State) (pos : Nat) : Bool :=
  match serviceToSend (noteClocks s pos) pos with
  | none => false
  | some (b, v) => b.state = .openRow && b.row ≠ slotRow s v.slot

/-- PRECHARGE is sent: the bank leaves its list, and a CONFLICT access holds a reservation (03 R49,
R51, R52). -/
def sendPrecharge (pos : Nat) (s : State) : State :=
  let s := modBank (noteClocks s pos) pos fun b => { b with
    state := .precharging
    row := none
    closePending := false
    idleTimer := .stopped
    serving := b.serving.map fun v => { v with reserved := true } }
  settle (sendDram (leaveOpenRows s pos) [.precharge pos])

/-- PRECHARGE_SENT. -/
def execPrechargeSent (pos : Nat) (s : State) : Host.Outcome State Fault Refusal :=
  happens (closeReady s pos || conflictReady s pos) s (sendPrecharge pos)

/-- The precharge time of a bank has passed. During a warm reset a service that has not begun to write
ends here (03 R49, 08 R145). -/
def completeBankPrecharge (pos : Nat) (s : State) : State :=
  let s := modBank s pos fun b => { b with state := .closed }
  settle (if warmReset s && servesUnbegun s pos then releaseBank s pos else s)

/-- The precharge time after the PRECHARGE-ALLs of a start has passed: the start refreshes begin
(08 R132 step 3). -/
def completeStartPrecharge (s : State) : State :=
  { s with chan := { s.chan with startPhase := .refreshing 0 [] } }

/-- The precharge that a PRECHARGE_COMPLETE names is in progress. -/
def prechargeRuns (s : State) : PrechargeTarget → Bool
  | .bank pos => bankIs s pos .precharging
  | .start => s.chan.startPhase = .precharging && !warmReset s

/-- What the end of a precharge does. -/
def completePrecharge : PrechargeTarget → State → State
  | .bank pos => completeBankPrecharge pos
  | .start => completeStartPrecharge

/-- PRECHARGE_COMPLETE. -/
def execPrechargeComplete (target : PrechargeTarget) (s : State) :
    Host.Outcome State Fault Refusal :=
  happens (prechargeRuns s target) s (completePrecharge target)

/-- The row idle timer of a bank expires: the bank requests its own close (03 R62). The timer ran for a
timebase unit or more, so the bank's clocks have passed (log entry 4). -/
def expireRowIdle (pos : Nat) (s : State) : State :=
  settle (requestClose
    (modBank (noteClocks s pos) pos fun b => { b with idleTimer := .stopped }) pos)

/-- ROW_IDLE_TIMER_EXPIRY. -/
def execRowIdleTimerExpiry (pos : Nat) (s : State) : Host.Outcome State Fault Refusal :=
  happens ((bankAt s pos).any fun b => timerRuns b.idleTimer) s (expireRowIdle pos)

/-! ## Refresh commands -/

/-- The rank is the next one of a round of the start sequence (08 R132 step 3). -/
def startRefreshNext (s : State) (rank : Nat) : Bool :=
  match s.chan.startPhase with
  | .refreshing _ sent =>
    !warmReset s && rank = sent.length && rank < s.settings.geometry.ranks
  | _ => false

/-- The rank is the next one of a round of an episode, every bank of it is CLOSED, and no command of a
transaction and no close goes before it (03 R56, 07 R125). -/
def episodeRefreshNext (s : State) (rank : Nat) : Bool :=
  match s.refresh.episode with
  | .holds _ .refreshing =>
    !warmReset s && rank = s.refresh.sent.length && rank < s.settings.geometry.ranks &&
      rankClosed s rank && !anyCommandReady s && !anyCloseDue s
  | _ => false

/-- A rank of the start round is sent its REFRESH. -/
def noteStartRefresh (rank : Nat) (s : State) : State :=
  match s.chan.startPhase with
  | .refreshing done sent =>
    { s with chan := { s.chan with startPhase := .refreshing done (sent ++ [rank]) } }
  | _ => s

/-- A rank of the episode's round is sent its REFRESH: its banks enter REFRESHING (03 R49). -/
def refreshRank (rank : Nat) (s : State) : State :=
  let s := (positionsOf s rank).foldl (fun st p =>
    modBank st p fun b => { b with state := .refreshing }) s
  withRefresh s { s.refresh with sent := s.refresh.sent ++ [rank], sentAt := some s.event }

/-- REFRESH is sent to a rank. -/
def sendRefresh (rank : Nat) (s : State) : State :=
  let s' := if startRefreshNext s rank then noteStartRefresh rank s else refreshRank rank s
  sendDram s' [.refresh rank]

/-- REFRESH_COMMAND_SENT. -/
def execRefreshCommandSent (rank : Nat) (s : State) : Host.Outcome State Fault Refusal :=
  happens (startRefreshNext s rank || episodeRefreshNext s rank) s (sendRefresh rank)

/-- A bank of the rank is REFRESHING. -/
def rankRefreshing (s : State) (rank : Nat) : Bool :=
  (positionsOf s rank).any fun p => bankIs s p .refreshing

/-- The refresh time of a rank has passed: its banks are CLOSED with last row absent, and the round may
be complete (03 R49; 07 R125). -/
def completeRefresh (rank : Nat) (s : State) : State :=
  let s := (positionsOf s rank).foldl (fun st p =>
    modBank st p fun b =>
      if b.state = .refreshing then { b with state := .closed, lastRow := none } else b) s
  settle (testRound s)

/-- REFRESH_COMPLETE. -/
def execRefreshComplete (rank : Nat) (s : State) : Host.Outcome State Fault Refusal :=
  happens (rankRefreshing s rank) s (completeRefresh rank)

end Sys2Proof.Machine
end

