-- ==== Sys2Proof/Machine/TimerSteps.lean ====
section
/-! DEFINITION. The expiries of the blocks' timers, and the credit-free packets REFRESH-CUE and
NOTICE-ACK (02 R42; 04 R72, R74; 05 R96; 06 R110, R111; 07 R120, R121; 09 R152). -/

namespace Sys2Proof.Machine

/-! ## Refresh -/

/-- The refresh timer expires in INTERNAL mode: GROUP is added and the timer is loaded (07 R120). -/
def expireRefreshTimer (s : State) : State := settle (addDebt (loadRefreshTimer s))

/-- REFRESH_TIMER_EXPIRY. -/
def execRefreshTimerExpiry (s : State) : Host.Outcome State Fault Refusal :=
  happens (timerRuns s.refresh.timer && s.settings.refresh.mode = .internal) s expireRefreshTimer

/-- The cue monitor expires: a cue seen is forgotten; with none GROUP is added, after CUE_MISSING, and
the monitor is loaded (07 R121). -/
def expireCueMonitor (s : State) : State :=
  let s := loadRefreshTimer s
  if s.refresh.cueSeen then withRefresh s { s.refresh with cueSeen := false }
  else settle (addDebt
    (raiseAlert s .cueMissing (some s.settings.refresh.cueLink) none none none))

/-- CUE_MONITOR_EXPIRY. -/
def execCueMonitorExpiry (s : State) : Host.Outcome State Fault Refusal :=
  happens (timerRuns s.refresh.timer && s.settings.refresh.mode = .linked) s expireCueMonitor

/-- Cues are counted in this channel state (07 R121). -/
def cuesCount (s : State) : Bool := channelServes s || s.chan.state = .resuming

/-- A cue is taken by the Refresh Controller (07 R121). -/
def takeCue (x : Link) (s : State) : State :=
  match s.settings.refresh.mode with
  | .internal => s
  | .linked =>
    if x ≠ s.settings.refresh.cueLink then raiseProtocol s x .wrongCue
    else if cuesCount s then settle (addDebt (withRefresh s { s.refresh with cueSeen := true }))
    else s

/-- REFRESH_CUE. -/
def execRefreshCue (x : Link) (seq : Byte) (s : State) : Host.Outcome State Fault Refusal :=
  .next (receive s x seq (takeCue x))

/-! ## Notices -/

/-- A NOTICE-ACK is matched against the SENT entries of its link's queue (06 R110). -/
def takeNoticeAck (x : Link) (number : Byte) (s : State) : State :=
  match lineOfNumber (targetOf s x) number with
  | none => raiseProtocol s x .unknownAck (some number.toNat)
  | some line => settle (removeOrRearm (dropWaiters s x line false) x line)

/-- NOTICE_ACK. -/
def execNoticeAck (x : Link) (seq number : Byte) (s : State) :
    Host.Outcome State Fault Refusal :=
  .next (receive s x seq (takeNoticeAck x number))

/-- A SENT entry times out (06 R111). -/
def expireNotice (y : Link) (number : Byte) (s : State) : State :=
  match runningNotice (targetOf s y) number with
  | none => s
  | some line =>
    let s := forgetRecent (dropWaiters s y line true) y [line]
    let s := raiseAlert s .noticeTimeout (some y) (some line) none (some number.toNat)
    settle (removeOrRearm s y line)

/-- NOTICE_TIMER_EXPIRY. -/
def execNoticeTimerExpiry (y : Link) (number : Byte) (s : State) :
    Host.Outcome State Fault Refusal :=
  happens (runningNotice (targetOf s y) number).isSome s (expireNotice y number)

/-! ## Locks -/

/-- The HELD entry on a block whose hold timer runs. -/
def runningLock (s : State) (block : Nat) : Option LockEntry :=
  s.locks.find? fun e => e.block = block && e.state = .held && timerRuns e.timer

/-- The hold timer of a HELD entry expires: LOCK_BROKEN, and the waiters go on (05 R96). -/
def expireLock (block : Nat) (s : State) : State :=
  match runningLock s block with
  | none => s
  | some e =>
    settle (removeLock
      (raiseAlert s .lockBroken (some e.holder) (some block) (some .expiry) none) block)

/-- LOCK_HOLD_EXPIRY. -/
def execLockHoldExpiry (block : Nat) (s : State) : Host.Outcome State Fault Refusal :=
  happens (runningLock s block).isSome s (expireLock block)

/-! ## Tenure -/

/-- The quantum expires: the phase becomes OPEN (04 R72). -/
def expireQuantum (s : State) : State :=
  settle (withTenure s { s.tenure with quantum := .stopped, phase := some .opened })

/-- QUANTUM_TIMER_EXPIRY. -/
def execQuantumTimerExpiry (s : State) : Host.Outcome State Fault Refusal :=
  happens (timerRuns s.tenure.quantum && s.tenure.holder.isSome) s expireQuantum

/-- The idle timer expires: hand-over due, or lapsed (04 R74). -/
def expireIdle (s : State) : State :=
  match s.tenure.holder with
  | none => s
  | some x =>
    if hasWaitingWork s (otherLink x) then
      settle (if s.tenure.due = .no then setDue s (.toLink (otherLink x))
        else withTenure s { s.tenure with idle := .stopped })
    else settle (withTenure s { s.tenure with idle := .lapsed })

/-- IDLE_TIMER_EXPIRY. -/
def execIdleTimerExpiry (s : State) : Host.Outcome State Fault Refusal :=
  happens (idleRuns s.tenure.idle && s.tenure.holder.isSome) s expireIdle

/-! ## Commit and lease -/

/-- The commit timer expires while DRAINING: the commit is abandoned (02 R42). -/
def expireCommit (s : State) : State :=
  let s := abandonCommit s
  settle (endLong s .commit .commitTimeout (epochValue s))

/-- COMMIT_TIMER_EXPIRY. -/
def execCommitTimerExpiry (s : State) : Host.Outcome State Fault Refusal :=
  happens (timerRuns s.xlate.commitTimer && s.xlate.commit = .draining) s expireCommit

/-- The lease expires: the claim is FREE, LEASE_EXPIRED is raised, SHADOW is reverted (09 R152,
R153). -/
def expireLease (s : State) : State :=
  raiseAlert (freeClaim s) .leaseExpired s.mgmt.claim none none none

/-- LEASE_TIMER_EXPIRY. -/
def execLeaseTimerExpiry (s : State) : Host.Outcome State Fault Refusal :=
  happens (timerRuns s.mgmt.lease && s.mgmt.claim.isSome) s expireLease

end Sys2Proof.Machine
end

