-- ==== Sys2Proof/Machine/ManagementCommands.lean ====
section
/-! DEFINITION. The management commands (file 09), one meaning for each row. -/

namespace Sys2Proof.Machine

/-- MGMT_READ. -/
def execMgmtRead (x : Link) (seq record field : Byte) (s : State) :
    Host.Outcome State Fault Refusal :=
  .next (takeMgmt s x seq .mgmtRead (mgmtReadEffect record field))

/-- MGMT_WRITE. -/
def execMgmtWrite (x : Link) (seq record field : Byte) (value : BitVec 32) (s : State) :
    Host.Outcome State Fault Refusal :=
  .next (takeMgmt s x seq .mgmtWrite (mgmtWriteEffect x record field value))

/-- WRITE_TENURE_MODE (04 R85). -/
def execWriteTenureMode (x : Link) (seq : Byte) (value : BitVec 32) (s : State) :
    Host.Outcome State Fault Refusal :=
  .next (takeMgmt s x seq .mgmtWrite (writeFieldEffect x .tenureMode value))

/-- WRITE_REFRESH_MODE (07 R122). -/
def execWriteRefreshMode (x : Link) (seq : Byte) (value : BitVec 32) (s : State) :
    Host.Outcome State Fault Refusal :=
  .next (takeMgmt s x seq .mgmtWrite (writeFieldEffect x .refreshMode value))

/-- WRITE_FORCE_LEVEL (07 R122). -/
def execWriteForceLevel (x : Link) (seq : Byte) (value : BitVec 32) (s : State) :
    Host.Outcome State Fault Refusal :=
  .next (takeMgmt s x seq .mgmtWrite (writeFieldEffect x .forceLevel value))

/-- WRITE_CUE_LINK (07 R122). -/
def execWriteCueLink (x : Link) (seq : Byte) (value : BitVec 32) (s : State) :
    Host.Outcome State Fault Refusal :=
  .next (takeMgmt s x seq .mgmtWrite (writeFieldEffect x .cueLink value))

/-- WRITE_FILTER_ENABLE (06 R102). -/
def execWriteFilterEnable (x : Link) (seq : Byte) (value : BitVec 32) (s : State) :
    Host.Outcome State Fault Refusal :=
  .next (takeMgmt s x seq .mgmtWrite (writeFieldEffect x .filterEnable value))

/-- WRITE_CREDIT_LIMIT (R157). -/
def execWriteCreditLimit (x : Link) (seq : Byte) (limited : Link) (value : BitVec 32) (s : State) :
    Host.Outcome State Fault Refusal :=
  .next (takeMgmt s x seq .mgmtWrite (writeFieldEffect x (.creditLimit limited) value))

/-- WRITE_ALERT_LINK (R161). -/
def execWriteAlertLink (x : Link) (seq : Byte) (value : BitVec 32) (s : State) :
    Host.Outcome State Fault Refusal :=
  .next (takeMgmt s x seq .mgmtWrite (writeFieldEffect x .alertLink value))

/-- WRITE_LEASE (R152, R156). -/
def execWriteLease (x : Link) (seq : Byte) (value : BitVec 32) (s : State) :
    Host.Outcome State Fault Refusal :=
  .next (takeMgmt s x seq .mgmtWrite (writeFieldEffect x .lease value))

/-- WRITE_CORR_THRESHOLD (08 R141). -/
def execWriteCorrThreshold (x : Link) (seq : Byte) (value : BitVec 32) (s : State) :
    Host.Outcome State Fault Refusal :=
  .next (takeMgmt s x seq .mgmtWrite (writeFieldEffect x .corrThreshold value))

/-- WRITE_OPEN_LIMIT (03 R53). -/
def execWriteOpenLimit (x : Link) (seq : Byte) (value : BitVec 32) (s : State) :
    Host.Outcome State Fault Refusal :=
  .next (takeMgmt s x seq .mgmtWrite (writeFieldEffect x .openLimit value))

/-- TABLE_READ. -/
def execTableRead (x : Link) (seq set table index : Byte) (s : State) :
    Host.Outcome State Fault Refusal :=
  .next (takeMgmt s x seq .tableRead (tableReadEffect set table index))

/-- TABLE_WRITE. -/
def execTableWrite (x : Link) (seq table index : Byte) (entry : BitVec 96) (s : State) :
    Host.Outcome State Fault Refusal :=
  .next (takeMgmt s x seq .tableWrite (tableWriteEffect x table index entry))

/-- TABLE_REVERT. -/
def execTableRevert (x : Link) (seq : Byte) (s : State) : Host.Outcome State Fault Refusal :=
  .next (takeMgmt s x seq .tableRevert (tableRevertEffect x))

/-- TABLE_COMMIT. -/
def execTableCommit (x : Link) (seq : Byte) (s : State) : Host.Outcome State Fault Refusal :=
  .next (takeMgmt s x seq .tableCommit (tableCommitEffect x))

/-- CLAIM. -/
def execClaim (x : Link) (seq : Byte) (s : State) : Host.Outcome State Fault Refusal :=
  .next (takeMgmt s x seq .claim (claimEffect x))

/-- RELEASE. -/
def execRelease (x : Link) (seq : Byte) (s : State) : Host.Outcome State Fault Refusal :=
  .next (takeMgmt s x seq .release (releaseEffect x))

/-- CHANNEL_START. -/
def execChannelStart (x : Link) (seq : Byte) (s : State) : Host.Outcome State Fault Refusal :=
  .next (takeMgmt s x seq .channelStart (channelStartEffect x))

/-- CHANNEL_QUIESCE. -/
def execChannelQuiesce (x : Link) (seq : Byte) (s : State) : Host.Outcome State Fault Refusal :=
  .next (takeMgmt s x seq .channelQuiesce (channelQuiesceEffect x))

/-- CHANNEL_RESUME. -/
def execChannelResume (x : Link) (seq : Byte) (s : State) : Host.Outcome State Fault Refusal :=
  .next (takeMgmt s x seq .channelResume (channelResumeEffect x))

/-- HUB_RESET. -/
def execHubReset (x : Link) (seq : Byte) (s : State) : Host.Outcome State Fault Refusal :=
  .next (takeMgmt s x seq .hubReset (hubResetEffect x))

end Sys2Proof.Machine
end

