-- ==== Sys2Proof/Machine/Sequences.lean ====
section
/-! DEFINITION. The start and resume sequences (08 R132, R135), the reset point of a warm reset (09
R163, 10 R181) and the cold reset (01 R26). -/

namespace Sys2Proof.Machine

/-- LOAD-SETTINGS to each of the installed ranks (08 R132 step 4, R135 step 2). -/
def loadSettings (s : State) : State :=
  sendDram s ((installedRanks s).map fun r =>
    .loadSettings r s.settings.profile.readLatency)

/-! ## Start -/

/-- The start timer expires: PRECHARGE-ALL goes to each installed rank (08 R132 step 2). During a warm
reset the rest of the sequence is not sent (08 R145). -/
def expireStartTimer (s : State) : State :=
  if warmReset s then { s with chan := { s.chan with startTimer := .stopped } }
  else sendDram { s with chan := { s.chan with startTimer := .stopped, startPhase := .precharging } }
    ((installedRanks s).map DramCommand.prechargeAll)

/-- START_TIMER_EXPIRY. -/
def execStartTimerExpiry (s : State) : Host.Outcome State Fault Refusal :=
  happens (timerRuns s.chan.startTimer) s expireStartTimer

/-- A round of the start refreshes has been sent to every installed rank; how many are done before
it. -/
def startRoundSent (s : State) : Option Nat :=
  match s.chan.startPhase with
  | .refreshing done sent =>
    if sent.length = s.settings.geometry.ranks && !warmReset s then some done else none
  | _ => none

/-- A start refresh round completes (08 R132 steps 3 and 4). -/
def completeStartRound (s : State) : State :=
  match startRoundSent s with
  | none => s
  | some done =>
    if done + 1 < s.settings.profile.startRefreshes then
      { s with chan := { s.chan with startPhase := .refreshing (done + 1) [] } }
    else loadSettings { s with chan := { s.chan with startPhase := .settling } }

/-- START_REFRESH_ROUND_COMPLETE. -/
def execStartRefreshRoundComplete (s : State) : Host.Outcome State Fault Refusal :=
  happens (startRoundSent s).isSome s completeStartRound

/-- The settings wait of a start has passed: RUN (08 R132 step 5; 03 R66; 07 R128). -/
def endStart (s : State) : State :=
  let s := formBanks { s with chan := { s.chan with state := .run, startPhase := .none } }
  let s := loadRefreshTimer (withRefresh s { s.refresh with debt := 0, cueSeen := false })
  settle (endLong s .start .ok .none)

/-- START_SEQUENCE_END. -/
def execStartSequenceEnd (s : State) : Host.Outcome State Fault Refusal :=
  happens (s.chan.startPhase = .settling && !warmReset s) s endStart

/-! ## Resume -/

/-- The entry to self-refresh of a warm reset taken in RESUMING (08 R145): SR-ENTER goes to each awake rank,
and these ranks sleep again. The bank records have kept the values of the last entry (03 R66); the Refresh
Controller takes those of this one (07 R120, R127). -/
def sleepAgain (s : State) : State :=
  let ranks := installedRanks s
  sendDram (restRefresh { s with chan := { s.chan with
    resumePhase := .none
    sleeping := joinRanks s.chan.sleeping ranks
    warm := some ranks } }) (ranks.map DramCommand.srEnter)

/-- The resume timer expires: LOAD-SETTINGS goes to each awake rank (08 R135 step 2). During a warm
reset the resume wait has passed, and the ranks sleep again (08 R145). -/
def expireResumeTimer (s : State) : State :=
  let s := { s with chan := { s.chan with resumeTimer := .stopped } }
  if warmReset s then sleepAgain s
  else loadSettings { s with chan := { s.chan with resumePhase := .settling } }

/-- RESUME_TIMER_EXPIRY. -/
def execResumeTimerExpiry (s : State) : Host.Outcome State Fault Refusal :=
  happens (timerRuns s.chan.resumeTimer) s expireResumeTimer

/-- The settings wait of a resume has passed: RUN (08 R135 step 3; 03 R66; 07 R128). During a warm reset
the ranks sleep again instead (08 R145). -/
def endResume (s : State) : State :=
  if warmReset s then sleepAgain s
  else
    let s := reformBanks { s with chan := { s.chan with state := .run, resumePhase := .none } }
    settle (endLong (forceTest s) .resume .ok .none)

/-- RESUME_SEQUENCE_END. -/
def execResumeSequenceEnd (s : State) : Host.Outcome State Fault Refusal :=
  happens (s.chan.resumePhase = .settling) s endResume

/-! ## The reset point -/

/-- The channel reports the end of its warm-reset work: where the ranks are awake, once each was sent
SR-ENTER (08 R145, log entry 23). -/
def warmWorkDone (s : State) : Bool :=
  match s.chan.warm with
  | none => false
  | some sent => !(channelServes s || s.chan.state = .resuming) ||
      (installedRanks s).all fun r => sent.contains r

/-- The channel was not started, so a warm reset leaves it INIT (08 R145). -/
def warmToInit (s : State) : Bool := s.chan.state = .init || s.chan.state = .starting

/-- The Channel Controller after a warm reset (08 R145). -/
def warmChannel (s : State) : Channel :=
  { s.chan with
    state := if warmToInit s then .init else .quiesced
    clockOn := s.chan.clockOn && !warmToInit s
    startTimer := .stopped
    resumeTimer := .stopped
    startPhase := .none
    resumePhase := .none
    readsDue := []
    lastRun := if s.chan.state = .run then some s.settings.geometry else s.chan.lastRun
    warm := none }

/-- The Bank Scheduler after a warm reset (03 R68). -/
def warmScheduler (s : State) : Scheduler :=
  ⟨if warmToInit s then [] else s.sched.banks.map fun _ => freshBank, [], [], 15, s.event, s.event⟩

/-- The entry of HUB-RESET stands in the reply list of a link. -/
def resetEntryOf (s : State) (x : Link) : Bool :=
  s.mgmt.longOp = some (.hubReset, x) &&
    (s.mgmt.replies.get x).any fun e => e.kind = .hubReset && e.status.isNone

/-- The management replies of a link that a warm reset discards (10 R181). -/
def discardedReplies (s : State) (x : Link) : Nat :=
  (s.mgmt.replies.get x).length - (if resetEntryOf s x then 1 else 0)

/-- A Link Controller at the reset point (10 R181). -/
def warmLink (s : State) (x : Link) : LinkCtl :=
  let l := { linkOf s x with notices := [] }
  if inService s x then
    { owe s.event (liveOf s x).length (discardedReplies s x) l with
      restartDue := true, resetReplyDue := resetEntryOf s x }
  else l

/-- The reply list of a link after the reset point: the reply to HUB-RESET alone (09 R163, R164). -/
def warmReplies (s : State) (x : Link) : List MgmtEntry :=
  if resetEntryOf s x then [⟨.hubReset, some .ok, .none, s.event⟩] else []

/-- The reset point: every block takes its warm values (09 R163, R164; 01 R25; 02 R45; 03 R68; 04 R86;
05 R100; 06 R115; 07 R129; 08 R145; 10 R181). -/
def takeResetPoint (s : State) : State :=
  { s with
    links := ⟨warmLink s .a, warmLink s .b⟩
    table := emptyTable
    xlate := { s.xlate with
      shadow := s.xlate.active, commit := .steady, commitTimer := .stopped, heldRevert := false }
    sched := warmScheduler s
    tenure := noTenure
    locks := []
    notices := .both emptyTarget
    refresh := idleRefresh
    chan := warmChannel s
    mgmt := { s.mgmt with
      replies := ⟨warmReplies s .a, warmReplies s .b⟩
      longOp := none
      discarded := .both 0 } }

/-- RESET_POINT. -/
def execResetPoint (s : State) : Host.Outcome State Fault Refusal :=
  happens (warmWorkDone s) s takeResetPoint

/-! ## Cold reset -/

/-- The cold reset: every block at its cold values; the DRAM's contents are not preserved (01 R26, 02
R46, 03 R68, 04 R86, 05 R100, 06 R116, 07 R129, 08 R146, 09 R165, 10 R182). The queue of commands
stands outside the hub and is kept; so is the count of free choices, so that none is made twice. -/
def coldReset (s : State) : State :=
  { State.reset with
    dram := ⟨[], [], s.dram.generation + 1⟩
    free := s.free
    pending := s.pending }

/-- COLD_RESET. -/
def execColdReset (s : State) : Host.Outcome State Fault Refusal := .next (coldReset s)

end Sys2Proof.Machine
end

