-- ==== Sys2Proof/Machine/Sends.lean ====
section
/-! DEFINITION. The taking of packets from the sources of a link (10 R175, R181; 01 R21; 09 R149,
R161). -/

namespace Sys2Proof.Machine

/-- The response of the head slot is handed: the slot becomes FREE, a request credit is owed, and a
FENCE that waited for it may go on (01 R20, R21; 10 R175). -/
def handResponse (x : Link) (s : State) : State :=
  match s.table.responses.get x with
  | [] => s
  | i :: rest =>
    match slotAt s i with
    | none => s
    | some t =>
      let s := sendSequenced s x (responseOf t)
      let s := freeTxn s i
      let s := { s with table := { s.table with responses := s.table.responses.set x rest } }
      settleFence (modLink s x (owe s.event 1 0)) x

/-- SEND_RESPONSE. -/
def execSendResponse (x : Link) (s : State) : Host.Outcome State Fault Refusal :=
  happens (mayTake s x .response) s (handResponse x)

/-- The MGMT-REPLY of a decided entry. -/
def replyOf (e : MgmtEntry) : HubPacket := .mgmtReply e.kind (e.status.getD .ok) e.value

/-- The reply of the head entry is handed: a management credit is owed (09 R148, R149; 10 R175,
R181). -/
def handReply (x : Link) (s : State) : State :=
  match s.mgmt.replies.get x with
  | [] => s
  | e :: rest =>
    let s := sendSequenced s x (replyOf e)
    let s := { s with mgmt := { s.mgmt with replies := s.mgmt.replies.set x rest } }
    modLink s x fun l => { owe s.event 0 1 l with resetReplyDue := false }

/-- SEND_MGMT_REPLY. -/
def execSendMgmtReply (x : Link) (s : State) : Host.Outcome State Fault Refusal :=
  happens (mayTake s x .reply) s (handReply x)

/-- The oldest NOTICE of the notice send list is sent. -/
def handNotice (x : Link) (s : State) : State :=
  match (linkOf s x).notices with
  | [] => s
  | n :: rest =>
    modLink (sendSequenced s x (.notice n.number n.addr)) x fun l => { l with notices := rest }

/-- SEND_NOTICE. -/
def execSendNotice (x : Link) (s : State) : Host.Outcome State Fault Refusal :=
  happens (mayTake s x .notice) s (handNotice x)

/-- The oldest alert record is sent on the alert link (09 R161). -/
def handAlert (s : State) : State :=
  match s.mgmt.alerts with
  | [] => s
  | a :: rest =>
    let s := sendSequenced s s.settings.mgmt.alertLink (.alert a)
    { s with mgmt := { s.mgmt with alerts := rest } }

/-- SEND_ALERT. -/
def execSendAlert (s : State) : Host.Outcome State Fault Refusal :=
  happens (mayTake s s.settings.mgmt.alertLink .alert) s handAlert

/-- A CREDIT with the owed counts is sent, and both return to 0 (10 R175, R178). -/
def handCredit (x : Link) (s : State) : State :=
  let s := sendSequenced s x (.credit (linkOf s x).owedRequests (linkOf s x).owedMgmt)
  modLink s x fun l => { l with owedRequests := 0, owedMgmt := 0 }

/-- SEND_CREDIT. -/
def execSendCredit (x : Link) (s : State) : Host.Outcome State Fault Refusal :=
  happens (mayTake s x .credit) s (handCredit x)

/-- The restarting CREDIT is sent, and restart due becomes no (10 R181). -/
def handRestart (x : Link) (s : State) : State :=
  modLink (handCredit x s) x fun l => { l with restartDue := false }

/-- RESTARTING_CREDIT: due after the reply to HUB-RESET, where that is to come first. -/
def execRestartingCredit (x : Link) (s : State) : Host.Outcome State Fault Refusal :=
  happens (canSend s x && (linkOf s x).restartDue && !(linkOf s x).resetReplyDue) s (handRestart x)

end Sys2Proof.Machine
end

