-- ==== Sys2Proof/Machine/LinkSteps.lean ====
section
/-! DEFINITION. Training, acknowledgement, retry and link reset at the Link Controller (10 R168 to R182).
A sequence byte or a send mark of a packet is compared as a number: 64 or more names nothing. -/

namespace Sys2Proof.Machine

/-- The link is in a given state. -/
def linkIs (s : State) (x : Link) (st : LinkState) : Bool := (linkOf s x).state = st

/-! ## Training (10 R168, R170, R171) -/

/-- The quiet time of DOWN is over. -/
def leaveDown (x : Link) (s : State) : State :=
  modLink s x fun l => { l with state := .training, downTimer := .stopped }

/-- DOWN_TIMER_EXPIRY. -/
def execDownTimerExpiry (x : Link) (s : State) : Host.Outcome State Fault Refusal :=
  happens (linkIs s x .down && timerRuns (linkOf s x).downTimer) s (leaveDown x)

/-- The hub's TRAIN is sent and the train timer loaded (10 R170). -/
def sendTrain (s : State) (x : Link) : State :=
  modLink (sendLevel s x trainPacket) x fun l => { l with trainTimer := loaded (usUnits 8) }

/-- The first TRAIN of a training: the current limit takes the pending limit, and the grant takes the
current limit (10 R170, 09 R157). -/
def sendFirst (x : Link) (s : State) : State :=
  let limit := s.settings.creditLimit.get x
  sendTrain (modLink s x fun l => { l with
    currentLimit := limit, grant := limit, trainSent := true }) x

/-- SEND_FIRST_TRAIN: in TRAINING, once no slot of the link is live. -/
def execSendFirstTrain (x : Link) (s : State) : Host.Outcome State Fault Refusal :=
  happens (linkIs s x .training && !(linkOf s x).trainSent && (liveOf s x).isEmpty) s (sendFirst x)

/-- TRAIN_TIMER_EXPIRY: the TRAIN is sent again. -/
def execTrainTimerExpiry (x : Link) (s : State) : Host.Outcome State Fault Refusal :=
  happens (linkIs s x .training && timerRuns (linkOf s x).trainTimer) s fun s => sendTrain s x

/-- The link becomes UP (10 R170). -/
def enterUp (l : LinkCtl) : LinkCtl := { l with state := .up, trainTimer := .stopped }

/-- A TRAIN of the partner has been taken in this training. -/
def noteSeen (l : LinkCtl) : LinkCtl := { l with partnerSeen := true }

/-- A good TRAIN taken in TRAINING (10 R170). -/
def takeTrain (x : Link) (seen : Bool) (s : State) : State :=
  if !(linkOf s x).trainSent then modLink s x noteSeen
  else if !(linkOf s x).partnerSeen then
    let s := sendTrain (modLink s x noteSeen) x
    if seen then modLink s x enterUp else s
  else if seen then modLink s x enterUp
  else sendLevel s x trainPacket

/-- A good TRAIN taken in UP or RETRY: with seen no it resets the link, with seen yes it is answered
(10 R171). -/
def takeLateTrain (x : Link) (seen : Bool) (s : State) : State :=
  if seen then sendLevel s x fun l => .train l.grant 2 true
  else linkResetEvent s x .restart

/-- The seen flag: any byte but 0x01 is no (11 section 11.7). -/
def seenFlag (b : Byte) : Bool := b = 1

/-- TRAIN. The grant fields of the partner's TRAIN are not used (10 R170). -/
def execTrain (x : Link) (_requestGrant _mgmtGrant seen : Byte) (s : State) :
    Host.Outcome State Fault Refusal :=
  .next (match (linkOf s x).state with
    | .down => s
    | .training => takeTrain x (seenFlag seen) (beginEvent s)
    | _ => takeLateTrain x (seenFlag seen) (beginEvent s))

/-! ## Acknowledgement and retry (10 R173, R174, R176, R177) -/

/-- The sequence number names a packet in the replay buffer. -/
def namesPacket (replay : List (Seq × HubPacket)) (n : Byte) : Bool :=
  replay.any fun p => p.1.toNat = n.toNat

/-- The packets from a named one on. -/
def fromPacket (replay : List (Seq × HubPacket)) (n : Byte) : List (Seq × HubPacket) :=
  replay.dropWhile fun p => p.1.toNat ≠ n.toNat

/-- The replay buffer after a taking that may have removed packets or caused a resend: progress
returns the replay count to 0, and the replay timer is stopped, reloaded or left (10 R176). -/
def withReplay (kept : List (Seq × HubPacket)) (resend : Bool) (l : LinkCtl) : LinkCtl :=
  let progress := kept.length < l.replay.length
  { l with
    replay := kept
    replayCount := if progress then 0 else l.replayCount
    replayTimer := if kept.isEmpty then .stopped
      else if progress || resend then loaded (usUnits 16) else l.replayTimer }

/-- A LINK-ACK acts on the replay buffer (10 R176). -/
def actOnAck (s : State) (x : Link) (acked : Byte) : State :=
  if namesPacket (linkOf s x).replay acked then
    modLink s x fun l => withReplay ((fromPacket l.replay acked).drop 1) false l
  else s

/-- A RETRY-REQ acts on the replay buffer (10 R176). -/
def actOnRetryReq (s : State) (x : Link) (wanted : Byte) : State :=
  if namesPacket (linkOf s x).replay wanted then
    let again := fromPacket (linkOf s x).replay wanted
    modLink (putOnWire s x (resent again)) x (withReplay again true)
  else if wanted.toNat = (linkOf s x).nextSend.toNat then
    sendAck (modLink s x (withReplay [] false)) x
  else s

/-- A good LINK-ACK or RETRY-REQ in RETRY whose send mark is the expected sequence returns the link to
UP (10 R174). -/
def judgeMark (s : State) (x : Link) (mark : Byte) : State :=
  if linkIs s x .retry && expectedSeq s x mark then modLink s x leaveRetry else s

/-- LINK_ACK. -/
def execLinkAck (x : Link) (acked mark : Byte) (s : State) : Host.Outcome State Fault Refusal :=
  happens (inService s x) s fun s => actOnAck (judgeMark s x mark) x acked

/-- RETRY_REQ. -/
def execRetryReq (x : Link) (wanted mark : Byte) (s : State) : Host.Outcome State Fault Refusal :=
  happens (inService s x) s fun s => actOnRetryReq (judgeMark s x mark) x wanted

/-- ACK_TIMER_EXPIRY: a LINK-ACK of the latest accepted packet is sent (10 R173). -/
def execAckTimerExpiry (x : Link) (s : State) : Host.Outcome State Fault Refusal :=
  happens (timerRuns (linkOf s x).ackTimer) s fun s => sendAck s x

/-- The retry timer expires (10 R174). -/
def expireRetry (x : Link) (s : State) : State :=
  if (linkOf s x).retryCount < 8 then
    modLink (sendRetryReq s x) x fun l => { l with
      retryCount := l.retryCount + 1, retryTimer := loaded (usUnits 4) }
  else hubLinkReset s x .retry

/-- RETRY_TIMER_EXPIRY. -/
def execRetryTimerExpiry (x : Link) (s : State) : Host.Outcome State Fault Refusal :=
  happens (linkIs s x .retry && timerRuns (linkOf s x).retryTimer) s (expireRetry x)

/-- The replay timer expires (10 R177). -/
def expireReplay (x : Link) (s : State) : State :=
  if (linkOf s x).replayCount < 4 then
    modLink (putOnWire s x (resent (linkOf s x).replay)) x fun l => { l with
      replayCount := l.replayCount + 1, replayTimer := loaded (usUnits 16) }
  else hubLinkReset s x .replay

/-- REPLAY_TIMER_EXPIRY. -/
def execReplayTimerExpiry (x : Link) (s : State) : Host.Outcome State Fault Refusal :=
  happens (inService s x && timerRuns (linkOf s x).replayTimer) s (expireReplay x)

/-! ## Link reset and packets not passed on -/

/-- LINK_RESET: in UP and RETRY a link reset, else discarded (10 R179). -/
def execLinkReset (x : Link) (s : State) : Host.Outcome State Fault Refusal :=
  happens (inService s x) s fun s => linkResetEvent s x .partnerReset

/-- The packet is bad for the receiver: a failed CRC, or a sequence byte that is not the expected one
(10 R174). -/
def isBad (s : State) (x : Link) : BadPacket → Bool
  | .crc => true
  | .sequence n => !expectedSeq s x n

/-- RECEIVE_BAD_PACKET: in UP it puts the link in RETRY, else it is discarded (10 R168, R174). -/
def execReceiveBadPacket (x : Link) (why : BadPacket) (s : State) :
    Host.Outcome State Fault Refusal :=
  happens (linkIs s x .up && isBad s x why) s fun s => enterRetry s x

/-- RECEIVE_UNKNOWN_PACKET: an accepted packet that nothing takes raises PROTOCOL (10 R172). A packet
of a link-level kind with a length of no layout carries no sequence number and is only reported
(log entry 13). -/
def execReceiveUnknownPacket (x : Link) (seq : Option Byte) (s : State) :
    Host.Outcome State Fault Refusal :=
  match seq with
  | some n => .next (receive s x n fun s => raiseProtocol s x .unknownPacket)
  | none => happens (inService s x) s fun s => raiseProtocol s x .unknownPacket

end Sys2Proof.Machine
end

