-- ==== Sys2Proof/Machine/Clock.lean ====
section
/-! DEFINITION. One timebase unit of 0.25 us (00 Time): the alert clock advances (09 R159) and every
running timer counts down. A timer at 0 waits for the command of its expiry. -/

namespace Sys2Proof.Machine

/-- The timers of a Link Controller count down. -/
def tickLink (l : LinkCtl) : LinkCtl :=
  { l with
    downTimer := tickTimer l.downTimer
    trainTimer := tickTimer l.trainTimer
    ackTimer := tickTimer l.ackTimer
    retryTimer := tickTimer l.retryTimer
    replayTimer := tickTimer l.replayTimer }

/-- The row idle timer of a bank counts down. -/
def tickBank (b : Bank) : Bank := { b with idleTimer := tickTimer b.idleTimer }

/-- The hold timer of a lock entry counts down. -/
def tickLock (e : LockEntry) : LockEntry := { e with timer := tickTimer e.timer }

/-- The notice timers of a target count down. -/
def tickTarget (n : NoticeTarget) : NoticeTarget :=
  { n with queue := n.queue.map fun e => { e with timer := tickTimer e.timer } }

/-- One timebase unit passes, which is longer than any minimum open and write recovery time (08 R137). -/
def tick (s : State) : State :=
  { s with
    links := ⟨tickLink s.links.a, tickLink s.links.b⟩
    xlate := { s.xlate with commitTimer := tickTimer s.xlate.commitTimer }
    sched := { s.sched with
      banks := s.sched.banks.map tickBank, openedBy := s.event, writtenBy := s.event }
    tenure := { s.tenure with
      quantum := tickTimer s.tenure.quantum, idle := tickIdle s.tenure.idle }
    locks := s.locks.map tickLock
    notices := ⟨tickTarget s.notices.a, tickTarget s.notices.b⟩
    refresh := { s.refresh with timer := tickTimer s.refresh.timer }
    chan := { s.chan with
      startTimer := tickTimer s.chan.startTimer, resumeTimer := tickTimer s.chan.resumeTimer }
    mgmt := { s.mgmt with lease := tickTimer s.mgmt.lease, clock := s.mgmt.clock + 1 } }

end Sys2Proof.Machine
end

