-- ==== Sys2Proof/Machine/Frames.lean ====
section
/-! DEFINITION. The frames of the packets the hub sends (file 11): kind codes, bodies, and the whole
frame. -/

namespace Sys2Proof.Machine

/-- The kind code of a sequenced packet of the hub (11 section 11.2). -/
def hubKindCode : HubPacket → Byte
  | .readData _ _ _ => 0x41
  | .writeDone _ _ => 0x42
  | .lockDone _ _ => 0x43
  | .fenceDone _ _ => 0x44
  | .mgmtReply _ _ _ => 0x50
  | .notice _ _ => 0x51
  | .alert _ => 0x52
  | .credit _ _ => 0x53

/-- A number as one byte. -/
def oneByte (n : Nat) : Byte := BitVec.ofNat 8 n

/-- The presence byte of an alert (11 section 11.6). -/
def presence (a : Alert) : Nat :=
  codeOfBool a.link.isSome + 2 * codeOfBool a.addr.isSome + 4 * codeOfBool a.cause.isSome
    + 8 * codeOfBool a.value.isSome

/-- The body of an ALERT (11 section 11.6). -/
def alertBody (a : Alert) : List Byte :=
  [oneByte (alertKindCode a.kind), oneByte (presence a), oneByte ((a.link.map linkCode).getD 0),
      oneByte ((a.cause.map causeCode).getD 0)]
    ++ bytesBE 4 (a.addr.getD 0) ++ bytesBE 2 (a.value.getD 0) ++ bytesBE 4 a.time.toNat
    ++ [oneByte a.droppedBefore]

/-- The value of a MGMT-REPLY (11 section 11.8). -/
def replyValueBytes : ReplyValue → List Byte
  | .none => []
  | .word v => bytesBE 4 v.toNat
  | .entry v => bytesBE 12 v.toNat

/-- The body of a sequenced packet of the hub (11 sections 11.4 to 11.8). -/
def HubPacket.body : HubPacket → List Byte
  | .readData tag status blocks =>
    [tag, oneByte (memStatusCode status), oneByte blocks.length]
      ++ (blocks.map fun b => oneByte (blockStatusCode b.1))
      ++ blocks.flatMap fun b => blockBytes b.2
  | .writeDone tag status => [tag, oneByte (memStatusCode status)]
  | .lockDone tag status => [tag, oneByte (memStatusCode status)]
  | .fenceDone tag status => [tag, oneByte (memStatusCode status)]
  | .mgmtReply kind status value =>
    [oneByte (mgmtKindCode kind), oneByte (mgmtStatusCode status)] ++ replyValueBytes value
  | .notice number addr => number :: bytesBE 5 addr.toNat
  | .alert record => alertBody record
  | .credit requests mgmt => [oneByte requests, oneByte mgmt, 0]

/-- A sequence number as the byte of a frame. -/
def seqByte (n : Seq) : Byte := n.setWidth 8

/-- The frame of a packet on the wire (11 section 11.1): the sequence byte of a link-level packet is
0. -/
def frameOfPacket : WirePacket → List Byte
  | .sequenced seq p => frameBytes (hubKindCode p) (seqByte seq) p.body
  | .train requestGrant mgmtGrant seen =>
    frameBytes 0x70 0 [oneByte requestGrant, oneByte mgmtGrant, oneByte (codeOfBool seen)]
  | .linkAck acked mark => frameBytes 0x71 0 [seqByte acked, seqByte mark]
  | .retryReq wanted mark => frameBytes 0x72 0 [seqByte wanted, seqByte mark]
  | .linkReset => frameBytes 0x73 0 []

end Sys2Proof.Machine
end

