-- ==== Sys2Proof/Machine/Dispatch.lean ====
section
/-! DEFINITION. One arm for each command, calling its meaning. -/

namespace Sys2Proof.Machine

def exec (i : Instr) (s : State) : Host.Outcome State Fault Refusal :=
  match i with
  | .coldReset => Sys2Proof.Machine.execColdReset s
  | .read x seq tag count maskCount addr => Sys2Proof.Machine.execRead x seq tag count maskCount addr s
  | .write x seq tag count addr masks data => Sys2Proof.Machine.execWrite x seq tag count addr masks data s
  | .lockRead x seq tag count maskCount addr => Sys2Proof.Machine.execLockRead x seq tag count maskCount addr s
  | .lockWrite x seq tag count addr masks data => Sys2Proof.Machine.execLockWrite x seq tag count addr masks data s
  | .lockDrop x seq tag unused addr => Sys2Proof.Machine.execLockDrop x seq tag unused addr s
  | .fence x seq tag => Sys2Proof.Machine.execFence x seq tag s
  | .intakeStep x => Sys2Proof.Machine.execIntakeStep x s
  | .issue => Sys2Proof.Machine.execIssue s
  | .activateSent pos => Sys2Proof.Machine.execActivateSent pos s
  | .activationComplete pos => Sys2Proof.Machine.execActivationComplete pos s
  | .readColumnSent pos => Sys2Proof.Machine.execReadColumnSent pos s
  | .readColumnDataArrival e0 e1 e2 e3 => Sys2Proof.Machine.execReadColumnDataArrival e0 e1 e2 e3 s
  | .writeColumnSent pos => Sys2Proof.Machine.execWriteColumnSent pos s
  | .prechargeSent pos => Sys2Proof.Machine.execPrechargeSent pos s
  | .prechargeComplete target => Sys2Proof.Machine.execPrechargeComplete target s
  | .rowIdleTimerExpiry pos => Sys2Proof.Machine.execRowIdleTimerExpiry pos s
  | .refreshCommandSent rank => Sys2Proof.Machine.execRefreshCommandSent rank s
  | .refreshComplete rank => Sys2Proof.Machine.execRefreshComplete rank s
  | .refreshTimerExpiry => Sys2Proof.Machine.execRefreshTimerExpiry s
  | .cueMonitorExpiry => Sys2Proof.Machine.execCueMonitorExpiry s
  | .refreshCue x seq => Sys2Proof.Machine.execRefreshCue x seq s
  | .noticeAck x seq number => Sys2Proof.Machine.execNoticeAck x seq number s
  | .noticeTimerExpiry y number => Sys2Proof.Machine.execNoticeTimerExpiry y number s
  | .lockHoldExpiry block => Sys2Proof.Machine.execLockHoldExpiry block s
  | .quantumTimerExpiry => Sys2Proof.Machine.execQuantumTimerExpiry s
  | .idleTimerExpiry => Sys2Proof.Machine.execIdleTimerExpiry s
  | .commitTimerExpiry => Sys2Proof.Machine.execCommitTimerExpiry s
  | .leaseTimerExpiry => Sys2Proof.Machine.execLeaseTimerExpiry s
  | .mgmtRead x seq record field => Sys2Proof.Machine.execMgmtRead x seq record field s
  | .mgmtWrite x seq record field value => Sys2Proof.Machine.execMgmtWrite x seq record field value s
  | .writeTenureMode x seq value => Sys2Proof.Machine.execWriteTenureMode x seq value s
  | .writeRefreshMode x seq value => Sys2Proof.Machine.execWriteRefreshMode x seq value s
  | .writeForceLevel x seq value => Sys2Proof.Machine.execWriteForceLevel x seq value s
  | .writeCueLink x seq value => Sys2Proof.Machine.execWriteCueLink x seq value s
  | .writeFilterEnable x seq value => Sys2Proof.Machine.execWriteFilterEnable x seq value s
  | .writeCreditLimit x seq limited value => Sys2Proof.Machine.execWriteCreditLimit x seq limited value s
  | .writeAlertLink x seq value => Sys2Proof.Machine.execWriteAlertLink x seq value s
  | .writeLease x seq value => Sys2Proof.Machine.execWriteLease x seq value s
  | .writeCorrThreshold x seq value => Sys2Proof.Machine.execWriteCorrThreshold x seq value s
  | .writeOpenLimit x seq value => Sys2Proof.Machine.execWriteOpenLimit x seq value s
  | .tableRead x seq set table index => Sys2Proof.Machine.execTableRead x seq set table index s
  | .tableWrite x seq table index entry => Sys2Proof.Machine.execTableWrite x seq table index entry s
  | .tableRevert x seq => Sys2Proof.Machine.execTableRevert x seq s
  | .tableCommit x seq => Sys2Proof.Machine.execTableCommit x seq s
  | .claim x seq => Sys2Proof.Machine.execClaim x seq s
  | .release x seq => Sys2Proof.Machine.execRelease x seq s
  | .channelStart x seq => Sys2Proof.Machine.execChannelStart x seq s
  | .startTimerExpiry => Sys2Proof.Machine.execStartTimerExpiry s
  | .startRefreshRoundComplete => Sys2Proof.Machine.execStartRefreshRoundComplete s
  | .startSequenceEnd => Sys2Proof.Machine.execStartSequenceEnd s
  | .channelQuiesce x seq => Sys2Proof.Machine.execChannelQuiesce x seq s
  | .channelResume x seq => Sys2Proof.Machine.execChannelResume x seq s
  | .resumeTimerExpiry => Sys2Proof.Machine.execResumeTimerExpiry s
  | .resumeSequenceEnd => Sys2Proof.Machine.execResumeSequenceEnd s
  | .hubReset x seq => Sys2Proof.Machine.execHubReset x seq s
  | .resetPoint => Sys2Proof.Machine.execResetPoint s
  | .sendResponse x => Sys2Proof.Machine.execSendResponse x s
  | .sendMgmtReply x => Sys2Proof.Machine.execSendMgmtReply x s
  | .sendNotice x => Sys2Proof.Machine.execSendNotice x s
  | .sendAlert => Sys2Proof.Machine.execSendAlert s
  | .sendCredit x => Sys2Proof.Machine.execSendCredit x s
  | .restartingCredit x => Sys2Proof.Machine.execRestartingCredit x s
  | .downTimerExpiry x => Sys2Proof.Machine.execDownTimerExpiry x s
  | .sendFirstTrain x => Sys2Proof.Machine.execSendFirstTrain x s
  | .trainTimerExpiry x => Sys2Proof.Machine.execTrainTimerExpiry x s
  | .train x requestGrant mgmtGrant seen => Sys2Proof.Machine.execTrain x requestGrant mgmtGrant seen s
  | .linkAck x acked mark => Sys2Proof.Machine.execLinkAck x acked mark s
  | .retryReq x wanted mark => Sys2Proof.Machine.execRetryReq x wanted mark s
  | .linkReset x => Sys2Proof.Machine.execLinkReset x s
  | .receiveBadPacket x why => Sys2Proof.Machine.execReceiveBadPacket x why s
  | .receiveUnknownPacket x seq => Sys2Proof.Machine.execReceiveUnknownPacket x seq s
  | .ackTimerExpiry x => Sys2Proof.Machine.execAckTimerExpiry x s
  | .retryTimerExpiry x => Sys2Proof.Machine.execRetryTimerExpiry x s
  | .replayTimerExpiry x => Sys2Proof.Machine.execReplayTimerExpiry x s

end Sys2Proof.Machine
end

