-- ==== Sys2Proof/Safety.lean ====
section
/-! DEFINITION. What every state of the hub is to satisfy: the laws that the spec says its blocks keep
(R1, R3, R4, R5, R34, R40, R51, R54, R56, R69, R70, R87, R101, R105, R107, R109, R119, R148, R155, R157, R160,
R167); and the words in which the statements speak of a command's answer. -/

namespace Sys2Proof.Machine

/-- The Transaction Table has 48 slots (01 R1). -/
def slotsLaw (s : State) : Prop := s.table.slots.length = slotCount

/-- The debt lies between 0 and 8 (07 R119). -/
def debtLaw (s : State) : Prop := s.refresh.debt ≤ debtMax

/-- The Alert Queue holds at most 16 records and the drop count is at most 255 (09 R160). -/
def alertLaw (s : State) : Prop := s.mgmt.alerts.length ≤ alertRoom ∧ s.mgmt.dropped ≤ 255

/-- A management reply list holds at most 2 entries (09 R148). -/
def replyLaw (s : State) : Prop := ∀ x, (s.mgmt.replies.get x).length ≤ replyRoom

/-- The four sums of credit limits are at most 48 (09 R157). -/
def creditLaw (s : State) : Prop :=
  (linkOf s .a).currentLimit + (linkOf s .b).currentLimit ≤ 48 ∧
    (linkOf s .a).currentLimit + s.settings.creditLimit.b ≤ 48 ∧
    s.settings.creditLimit.a + (linkOf s .b).currentLimit ≤ 48 ∧
    s.settings.creditLimit.a + s.settings.creditLimit.b ≤ 48

/-- The counts of a Link Controller keep their ranges (10 R167). -/
def linkLaw (s : State) : Prop :=
  ∀ x, (linkOf s x).replay.length ≤ replayRoom ∧ (linkOf s x).unacked ≤ 7 ∧
    (linkOf s x).retryCount ≤ 8 ∧ (linkOf s x).replayCount ≤ 4

/-- Each settings field holds a number of its range (09 R155). -/
def settingsLaw (s : State) : Prop :=
  ∀ f, readOnly f = false →
    (fieldRange f).1 ≤ readField s f ∧ readField s f ≤ (fieldRange f).2

/-- A set holds 16 windows and 32 regions (02 R34). -/
def setLaw (t : TableSet) : Prop := t.windows.length = 16 ∧ t.regions.length = 32

/-- Both sets do. -/
def tablesLaw (s : State) : Prop := setLaw s.xlate.active ∧ setLaw s.xlate.shadow

/-- The DRAM's bytes and bit errors are in canonical form. -/
def dramLaw (s : State) : Prop := Memory.wf s.dram.cells = true ∧ Errors.wf s.dram.errors = true

/-- A physical block appears in at most one lock entry, and each link holds at most 2 (05 R87). -/
def lockLaw (s : State) : Prop :=
  (s.locks.map fun e => e.block).Nodup ∧ ∀ x, (locksOf s x).length ≤ 2

/-- A Recent Line List holds at most 8 lines and no line twice (06 R109). -/
def recentLaw (s : State) : Prop :=
  ∀ y, (targetOf s y).recent.length ≤ recentRoom ∧ (targetOf s y).recent.Nodup

/-- In SHARED mode the holder is NONE and every other field is absent or stopped (04 R69). -/
def sharedLaw (s : State) : Prop := s.settings.tenure.mode = .shared → s.tenure = noTenure

/-- No transaction in QUEUED, ACCESS or MERGE carries an epoch other than the current one (02 R40), and
none stands there unless the channel is RUN or QUIESCING (02 R39). -/
def epochLaw (s : State) : Prop :=
  ∀ i t, slotAt s i = some t → onChannelPath t = true →
    t.epoch = some s.xlate.epoch ∧ channelServes s = true

/-- While a link holds tenure, every transaction in ACCESS or MERGE belongs to it (04 R70). -/
def tenureLaw (s : State) : Prop :=
  ∀ x i t, s.tenure.holder = some x → slotAt s i = some t → inFlight t = true → t.link = x

/-- A link has at most as many live slots as its current limit (01 R3, R4). -/
def liveLaw (s : State) : Prop := ∀ x, (liveOf s x).length ≤ (linkOf s x).currentLimit

/-- At most one FENCE of a link is in FENCE-WAIT (01 R5). -/
def fenceLaw (s : State) : Prop :=
  ∀ i j t u, slotAt s i = some t → slotAt s j = some u → t.state = .fenceWait →
    u.state = .fenceWait → t.link = u.link → i = j

/-- A transaction in ACCESS or MERGE waits for no lock entry (05 R91; 03 R54). -/
def flightLaw (s : State) : Prop :=
  ∀ i t, slotAt s i = some t → inFlight t = true → t.lockWait = none

/-- The position last granted is one of the 16 (03 R56). -/
def positionLaw (s : State) : Prop := s.sched.lastGranted < 16

/-- A Notice Queue holds at most 16 entries, at most one for a line, no two SENT with one number, and names
a waiter at most once in an entry (06 R101, R105, R107). -/
def noticeLaw (s : State) : Prop :=
  ∀ y, (targetOf s y).queue.length ≤ noticeRoom ∧
    (targetOf s y).queue.Pairwise (fun e f => e.line ≠ f.line ∧
      ∀ k a b, e.state = .sent k a → f.state ≠ .sent k b) ∧
    ∀ e ∈ (targetOf s y).queue, e.waiters.Nodup

/-- The reservations of a rank (03 R52). -/
def reservations (s : State) (rank : Nat) : Nat :=
  ((positionsOf s rank).filter fun p => (bankAt s p).any holdsReservation).length

/-- Each rank's open-row list holds each bank at most once, holds exactly the banks of that rank in OPEN or
ACTIVATING, and is not longer than the limit in force (03 R51, R53). -/
def openRowsLaw (s : State) : Prop :=
  ∀ rank < 2, (openRowList s rank).Nodup ∧
    (∀ p, p ∈ openRowList s rank ↔ rankOf s p = rank ∧
      ∃ b, bankAt s p = some b ∧ (b.state = .openRow ∨ b.state = .activating)) ∧
    (openRowList s rank).length ≤ openLimitInForce s

/-- What the law of the open-row lists rests on. In RUN and QUIESCING there is a record for each installed
bank (03 R48), and the open rows and reservations of a rank are within the limit in force (03 R52). In every
other state no bank is OPEN or ACTIVATING (03 R66). The geometry under which the channel last left RUN is the
one of the records that stand (03 R66). -/
def bankLaw (s : State) : Prop :=
  (channelServes s = true → s.sched.banks.length = bankCount s ∧
    ∀ rank < 2, (openRowList s rank).length + reservations s rank ≤ openLimitInForce s) ∧
  (channelServes s = false → ∀ b ∈ s.sched.banks, b.state ≠ .openRow ∧ b.state ≠ .activating) ∧
  (s.chan.state = .init ∨ s.chan.state = .starting → s.chan.lastRun = none) ∧
  (s.chan.state = .quiescing → s.chan.lastRun = some s.settings.geometry) ∧
  (s.chan.state = .quiesced ∨ s.chan.state = .resuming →
    ∀ g, s.chan.lastRun = some g → s.sched.banks.length = g.ranks * g.banks)

/-! ## Words the statements share -/

/-- A good sequenced packet with this sequence byte is accepted on the link (10 R172, R174). -/
def accepts (s : State) (x : Link) (seq : Byte) : Prop :=
  inService s x = true ∧ expectedSeq s x seq = true

/-- The state at which a packet accepted on link `x` is passed on: the event has begun, a link in RETRY
is UP again, and the acceptance is counted (10 R172 to R174). -/
def accepted (s : State) (x : Link) : State :=
  acceptPacket
    (if linkIs s x .retry then modLink (beginEvent s) x leaveRetry else beginEvent s) x

/-- The command is answered by `u` and the consequences of its event. -/
def answers (c : Instr) (s u : State) : Prop := exec c s = .next (settle u)

/-- The command's event cannot happen: it leaves the state as it is (log entry 2). -/
def idles (c : Instr) (s : State) : Prop := exec c s = .next s

/-- The record a request row brings and its sequence byte (01 R1, R3). -/
def requestOf : Instr → Option (Txn × Byte)
  | .read x seq tag count m addr => some (readRequest x .read tag count m addr, seq)
  | .write x seq tag count addr masks data => some (writeRequest x .write tag count addr masks data, seq)
  | .lockRead x seq tag count m addr => some (readRequest x .lockRead tag count m addr, seq)
  | .lockWrite x seq tag count addr masks data =>
      some (writeRequest x .lockWrite tag count addr masks data, seq)
  | .lockDrop x seq tag unused addr => some (dropRequest x tag unused addr, seq)
  | .fence x seq tag => some (arriving x .fence tag, seq)
  | _ => none

/-- A table in which slot `i` is in REPLY with a status at the end of its link's response queue, as at the
event after `s`. -/
def repliedTable (s : State) (i : Nat) (t : Txn) (st : MemStatus) : TxnTable :=
  { s.table with
    slots := s.table.slots.set i (some { t with
      state := .reply, status := some st, replySince := s.event + 1 })
    responses := s.table.responses.set t.link (s.table.responses.get t.link ++ [i]) }

/-- A table in which the transaction of slot `i` is decided with a status at the event `s` stands at: in REPLY
at the end of its link's response queue, or, an orphan, freed (01 R15, R24). -/
def decidedTable (s : State) (i : Nat) (t : Txn) (st : MemStatus) : TxnTable :=
  if t.orphan then { s.table with slots := s.table.slots.set i none }
  else { s.table with
    slots := s.table.slots.set i (some { t with
      state := .reply, status := some st, replySince := s.event })
    responses := s.table.responses.set t.link (s.table.responses.get t.link ++ [i]) }

/-- The bank at a position serves no transaction. -/
def unserved (s : State) (pos : Nat) : State :=
  { s with sched := { s.sched with
    banks := s.sched.banks.modify pos fun b => { b with serving := none } } }

/-- Slot `i` owns the lock entry `e`, the one entry it owns, which is in this state. -/
def ownsEntry (s : State) (i : Nat) (st : LockState) (e : LockEntry) : Prop :=
  e ∈ s.locks ∧ e.owner = some i ∧ e.state = st ∧
    ∀ f ∈ s.locks, f.owner = some i → f.state = st → f = e

/-- Slot `i` owns no lock entry in this state. -/
def ownsNone (s : State) (i : Nat) (st : LockState) : Prop :=
  ∀ e ∈ s.locks, ¬ (e.owner = some i ∧ e.state = st)

/-- The DRAM work of the transaction in slot `i` ends at a bank, from `v` to `w`: each slot whose predecessor
it was chooses again, and the bank takes its after-access decision (01 R14; 03 R57, R61). -/
def serviceEnds (v w : State) (pos i : Nat) : Prop :=
  ∃ x, (∀ j, slotAt x j = (slotAt v j).map fun t =>
      if t.pred = some i then { t with pred := choosePred v j t } else t) ∧
    x = { v with table := { v.table with slots := x.table.slots } } ∧ w = afterAccess x pos

/-- The request passes MALFORMED, TAG_IN_USE, NOT_READY and ALIGN at its intake step. -/
def passesTable (s : State) (i : Nat) (t : Txn) : Prop :=
  malformed t = false ∧ tagTaken s i t = false ∧ t.kind ≠ .fence ∧ s.chan.state = .run ∧
    misaligned t = false

/-- A request as the Translation Unit leaves it: epoch, physical address, location (02 R33). -/
def located (s : State) (t : Txn) (p : Nat) : Txn :=
  { t with
    epoch := some s.xlate.epoch
    phys := some p
    loc := some (locate s.settings.geometry p) }

/-- A window translates an address of a link: valid, serving the link, covering the address (02 R27,
R28). -/
def windowTakes (w : Window) (x : Link) (a : LinkAddr) : Prop :=
  w.valid = true ∧ (w.links = .both ∨ (w.links = .a ∧ x = .a) ∨ (w.links = .b ∧ x = .b)) ∧
    w.linkBase.toNat ≤ a.toNat ∧ a.toNat < w.linkBase.toNat + 65536 * 2 ^ w.sizeCode

/-- A valid region contains a physical address (02 R30). -/
def regionHolds (r : Region) (p : Nat) : Prop :=
  r.valid = true ∧ r.base.toNat ≤ p / 65536 ∧ p / 65536 ≤ r.limit.toNat

/-- The rights that govern a physical address: those of the lowest region that contains it, or the Default
Region's (02 R31). -/
def rightsGoverning (t : TableSet) (p : Nat) (rights : Rights) : Prop :=
  (∃ (k : Nat) (r : Region), t.regions[k]? = some r ∧ regionHolds r p ∧
    (∀ j < k, ∀ q, t.regions[j]? = some q → ¬ regionHolds q p) ∧ rights = r.rights) ∨
  ((∀ r ∈ t.regions, ¬ regionHolds r p) ∧ rights = t.default)

/-- A scheduler with a bank taken out of the open-row list of a rank (03 R51). -/
def listWithout (c : Scheduler) (rank pos : Nat) : Scheduler :=
  if rank = 0 then { c with openRows0 := c.openRows0.filter fun p => p ≠ pos }
  else { c with openRows1 := c.openRows1.filter fun p => p ≠ pos }

/-- A scheduler with a bank at the end of the open-row list of a rank (03 R51). -/
def listAtEnd (c : Scheduler) (rank pos : Nat) : Scheduler :=
  if rank = 0 then { c with openRows0 := c.openRows0.filter (fun p => p ≠ pos) ++ [pos] }
  else { c with openRows1 := c.openRows1.filter (fun p => p ≠ pos) ++ [pos] }

/-- A management packet with this sequence byte is taken on the link: accepted, outside a warm reset, with
fewer than 2 replies listed (09 R147, R148, R162). -/
def mgmtTakes (s : State) (x : Link) (seq : Byte) : Prop :=
  accepts s x seq ∧ warmReset s = false ∧ (s.mgmt.replies.get x).length < 2

/-- A taken packet's entry joins its link's reply list, and a packet of the claim holder loads the lease
timer (09 R149, R152). -/
def replyListed (s : State) (x : Link) (kind : MgmtKind) (status : Option MgmtStatus)
    (value : ReplyValue) : State :=
  { s with mgmt := { s.mgmt with
    replies := s.mgmt.replies.set x
      (s.mgmt.replies.get x ++ [⟨kind, status, value, s.event⟩])
    lease := if s.mgmt.claim = some x then .running (4000 * s.settings.mgmt.lease)
      else s.mgmt.lease } }

/-- The link, the sequence byte and the kind of a management packet (09 R147). -/
def mgmtOf : Instr → Option (Link × Byte × MgmtKind)
  | .mgmtRead x seq _ _ => some (x, seq, .mgmtRead)
  | .mgmtWrite x seq _ _ _ => some (x, seq, .mgmtWrite)
  | .writeTenureMode x seq _ => some (x, seq, .mgmtWrite)
  | .writeRefreshMode x seq _ => some (x, seq, .mgmtWrite)
  | .writeForceLevel x seq _ => some (x, seq, .mgmtWrite)
  | .writeCueLink x seq _ => some (x, seq, .mgmtWrite)
  | .writeFilterEnable x seq _ => some (x, seq, .mgmtWrite)
  | .writeCreditLimit x seq _ _ => some (x, seq, .mgmtWrite)
  | .writeAlertLink x seq _ => some (x, seq, .mgmtWrite)
  | .writeLease x seq _ => some (x, seq, .mgmtWrite)
  | .writeCorrThreshold x seq _ => some (x, seq, .mgmtWrite)
  | .writeOpenLimit x seq _ => some (x, seq, .mgmtWrite)
  | .tableRead x seq _ _ _ => some (x, seq, .tableRead)
  | .tableWrite x seq _ _ _ => some (x, seq, .tableWrite)
  | .tableRevert x seq => some (x, seq, .tableRevert)
  | .tableCommit x seq => some (x, seq, .tableCommit)
  | .claim x seq => some (x, seq, .claim)
  | .release x seq => some (x, seq, .release)
  | .channelStart x seq => some (x, seq, .channelStart)
  | .channelQuiesce x seq => some (x, seq, .channelQuiesce)
  | .channelResume x seq => some (x, seq, .channelResume)
  | .hubReset x seq => some (x, seq, .hubReset)
  | _ => none

/-- The field and the value a MGMT-WRITE names: none where its record and field name no field (09 R155). -/
def writeNames : Instr → Option (Option Field × BitVec 32)
  | .mgmtWrite _ _ record field v => some (fieldOf record field, v)
  | .writeTenureMode _ _ v => some (some .tenureMode, v)
  | .writeRefreshMode _ _ v => some (some .refreshMode, v)
  | .writeForceLevel _ _ v => some (some .forceLevel, v)
  | .writeCueLink _ _ v => some (some .cueLink, v)
  | .writeFilterEnable _ _ v => some (some .filterEnable, v)
  | .writeCreditLimit _ _ y v => some (some (.creditLimit y), v)
  | .writeAlertLink _ _ v => some (some .alertLink, v)
  | .writeLease _ _ v => some (some .lease, v)
  | .writeCorrThreshold _ _ v => some (some .corrThreshold, v)
  | .writeOpenLimit _ _ v => some (some .openLimit, v)
  | _ => none

/-- A link reset of a Link Controller (10 R180): DOWN with 2 us of quiet, everything of the old connection
gone; the grant and the current limit stand. -/
def downAgain (l : LinkCtl) (seen : Bool) : LinkCtl :=
  { l with
    state := .down, downTimer := .running 8, trainSent := false, partnerSeen := seen
    trainTimer := .stopped, nextSend := 0, expected := 0, unacked := 0, ackTimer := .stopped
    retryCount := 0, retryTimer := .stopped, replay := [], replayTimer := .stopped, replayCount := 0
    notices := [], owedRequests := 0, owedMgmt := 0, restartDue := false, resetReplyDue := false }

/-- A sequenced packet is sent: the next send sequence, a place in the replay buffer, and the replay timer
loaded with 16 us if the buffer was empty (10 R169, R177). -/
def sent (l : LinkCtl) (p : HubPacket) : LinkCtl :=
  { l with
    nextSend := l.nextSend + 1
    replay := l.replay ++ [(l.nextSend, p)]
    replayTimer := if l.replay = [] then .running 64 else l.replayTimer }

/-- The link carries exactly these packets at the event after `s`, and the other link none. -/
def carries (s : State) (x : Link) (ps : List WirePacket) : State :=
  { s with event := s.event + 1, wire := (PerLink.both []).set x ps, channelOut := [] }

/-- The link and the sequence byte of a sequenced packet (10 R169, R172). -/
def sequencedOf : Instr → Option (Link × Byte)
  | .refreshCue x seq => some (x, seq)
  | .noticeAck x seq _ => some (x, seq)
  | .receiveUnknownPacket x seq => seq.map fun n => (x, n)
  | c => match requestOf c with
    | some (r, seq) => some (r.link, seq)
    | none => (mgmtOf c).map fun m => (m.1, m.2.1)

/-- The blocks at a link reset of link `x`, one after another (10 R180): the alert, the Link Controller, the
Transaction Table, the Lock Table, the Notice Unit, the Management Unit, the Tenure Arbiter. -/
def resetAt (s : State) (x : Link) (cause : Cause) : State :=
  let down : State := { raiseAlert s .linkDown (some x) none (some cause) none with
    links := s.links.set x (downAgain (linkOf s x) (decide (cause = .restart))) }
  let freed := removeLocks (tableLinkReset down x) fun e => e.holder = x
  tenureLinkReset (mgmtLinkReset (discardTarget freed x) x) x

end Sys2Proof.Machine
end

