-- ==== Sys2Proof/Certificates/Slice0/Obligations.lean ====
section
/-! DEFINITION. The statements about the hub, chapter by chapter of the spec.

A command's answer is written in one of two ways. Where nothing follows from the event, the next state is
given outright. Where consequences may follow at the same event, the answer is `settle u` with `u` given
outright: `u` holds what the command itself does and leaves every other field, and the statements about
`settle` say what the consequences do and what they leave. -/

open Sys2Proof Sys2Proof.Machine

/-! ## The queue of commands -/

/-- A step takes the front command and runs it on the state with the queue's rest. -/
def Obligations.StepRunsFrontCommand : Prop :=
  ∀ (c : Instr) (rest : List Instr) (s : State),
    step { s with pending := c :: rest } = exec c { s with pending := rest }

/-- On an empty queue a step is one timebase unit: the alert clock advances by one, every running timer
falls by one, a timer that is stopped, paused, lapsed or at 0 stays, the minimum open and write recovery
times that ran are known to have passed, and nothing else changes. That it is so is the model's choice (log
entries 3 and 4). -/
def Obligations.EmptyQueueIsOneTimebaseUnit : Prop :=
  (∀ n, tickTimer (.running (n + 1)) = .running n ∧ tickTimer (.running 0) = .running 0 ∧
    tickTimer (.paused n) = .paused n ∧ tickTimer .stopped = .stopped ∧
    tickIdle (.running (n + 1)) = .running n ∧ tickIdle (.running 0) = .running 0 ∧
    tickIdle (.paused n) = .paused n ∧ tickIdle .stopped = .stopped ∧ tickIdle .lapsed = .lapsed) ∧
  (∀ s : State, s.pending = [] → ∃ t, step s = .next t ∧
    (∀ x, linkOf t x = { linkOf s x with
      downTimer := tickTimer (linkOf s x).downTimer
      trainTimer := tickTimer (linkOf s x).trainTimer
      ackTimer := tickTimer (linkOf s x).ackTimer
      retryTimer := tickTimer (linkOf s x).retryTimer
      replayTimer := tickTimer (linkOf s x).replayTimer }) ∧
    (∀ y, targetOf t y = { targetOf s y with
      queue := (targetOf s y).queue.map fun e => { e with timer := tickTimer e.timer } }) ∧
    t = { s with
      links := t.links
      notices := t.notices
      xlate := { s.xlate with commitTimer := tickTimer s.xlate.commitTimer }
      sched := { s.sched with
        banks := s.sched.banks.map fun b => { b with idleTimer := tickTimer b.idleTimer }
        openedBy := s.event
        writtenBy := s.event }
      tenure := { s.tenure with
        quantum := tickTimer s.tenure.quantum, idle := tickIdle s.tenure.idle }
      locks := s.locks.map fun e => { e with timer := tickTimer e.timer }
      refresh := { s.refresh with timer := tickTimer s.refresh.timer }
      chan := { s.chan with
        startTimer := tickTimer s.chan.startTimer, resumeTimer := tickTimer s.chan.resumeTimer }
      mgmt := { s.mgmt with clock := s.mgmt.clock + 1, lease := tickTimer s.mgmt.lease } })

/-- Every command is answered by a next state, and none touches the queue. -/
def Obligations.EveryCommandIsAnswered : Prop :=
  ∀ (c : Instr) (s : State), ∃ t, exec c s = .next t ∧ t.pending = s.pending

/-! ## Cold reset -/

/-- R26: after a cold reset, and at power-up, every slot is FREE, the response queues and the bank queues
are empty, both counters are 0 and both links are DOWN; no request arrives on a link that has not trained,
and the first request to arrive takes slot 0 with arrival number 0. -/
def Obligations.ColdResetEmptiesTheTable : Prop :=
  ∀ s : State, ∃ t, exec .coldReset s = .next t ∧ ∀ u, u = t ∨ u = State.reset →
    (∀ i, slotAt u i = none) ∧ u.table.slots.length = 48 ∧
    (∀ x, u.table.responses.get x = []) ∧ (∀ pos, bankQueue u pos = []) ∧
    u.table.arrivalCounter = 0 ∧ u.table.transCounter = 0 ∧ (∀ x, (linkOf u x).state = .down) ∧
    (∀ c r seq, requestOf c = some (r, seq) → ∀ v : State,
      ((linkOf v r.link).state = .down ∨ (linkOf v r.link).state = .training →
        exec c v = .next v) ∧
      (accepts v r.link seq → v.table = u.table → 0 < (linkOf v r.link).currentLimit →
        ∃ w, exec c v = .next w ∧ slotAt w 0 = some { r with arrival := 0 } ∧
          ∀ i, i ≠ 0 → slotAt w i = none))

/-- The cold values of the other blocks (02 R46, 03 R67 and R68, 04 R86, 05 R100, 06 R116, 07 R129, 08 R146,
09 R165, 10 R167 and R182). The queue of commands and the model's own counts of free choices and of DRAM
contents go on (log entry 27). The fields of State.reset whose value after a cold reset no rule states, the
round of 07 R117 among them, hold the model's values (log entry 33). -/
def Obligations.ColdResetGivesTheColdValues : Prop :=
  ∀ s : State, ∃ t, exec .coldReset s = .next t ∧
    t = { State.reset with
      dram := ⟨[], [], s.dram.generation + 1⟩, free := s.free, pending := s.pending } ∧
    (∀ x, (linkOf t x).downTimer = .running 8 ∧ (linkOf t x).currentLimit = 24 ∧
      (linkOf t x).replay = [] ∧ (linkOf t x).expected = 0 ∧ (linkOf t x).nextSend = 0) ∧
    (∀ z, z = t.xlate.active ∨ z = t.xlate.shadow →
      (∀ w ∈ z.windows, w.valid = false) ∧ (∀ r ∈ z.regions, r.valid = false) ∧
      z.default.accessA = .none ∧ z.default.accessB = .none) ∧
    t.xlate.epoch = 0 ∧ t.xlate.commit = .steady ∧ t.xlate.commitTimer = .stopped ∧
    t.sched.banks = [] ∧ t.sched.lastGranted = 15 ∧
    t.tenure = ⟨none, none, .stopped, .stopped, .no, false⟩ ∧ t.locks = [] ∧
    (∀ y, targetOf t y = ⟨[], [], 0⟩) ∧
    t.refresh.debt = 0 ∧ t.refresh.timer = .stopped ∧ t.refresh.episode = .none ∧
    t.chan.state = .init ∧ t.chan.sleeping = [] ∧ t.chan.correctedCount = 0 ∧
    t.mgmt.claim = none ∧ t.mgmt.alerts = [] ∧ t.mgmt.dropped = 0 ∧ t.mgmt.clock = 0 ∧
    t.settings.creditLimit = ⟨24, 24⟩ ∧ t.settings.lockLimit = 64 ∧
    t.settings.tenure = ⟨.shared, ⟨16, 16⟩, ⟨4, 4⟩, true⟩ ∧
    t.settings.rows = ⟨.adaptive, 4, 0, 4, 3, 3⟩ ∧ t.settings.refresh = ⟨.internal, 1, 31, 6, .a⟩ ∧
    t.settings.notices = ⟨⟨false, false⟩, true, 32⟩ ∧
    t.settings.geometry = ⟨1, 8, 8192, .rowMajor⟩ ∧ t.settings.mgmt = ⟨16, 100, .a⟩ ∧
    t.settings.profile.channelClock = 200 ∧ t.settings.profile.actTime = 5 ∧
    t.settings.profile.preTime = 5 ∧ t.settings.profile.minOpen = 14 ∧
    t.settings.profile.writeRecovery = 6 ∧ t.settings.profile.readLatency = 4 ∧
    t.settings.profile.refreshTime = 52 ∧ t.settings.profile.rankGap = 4 ∧
    t.settings.profile.startWait = 200 ∧ t.settings.profile.startRefreshes = 8 ∧
    t.settings.profile.corrThreshold = 16

/-- R116: after a cold reset both Notice Queues and both Recent Line Lists are empty, both notice counters
are 0, no notice timer runs, as no entry has one, and the NOTICES record holds its defaults; with both
caching fields no, no write needs notices; STATUS shows 0 notice entries for each link after either reset.
-/
def Obligations.ColdResetEmptiesTheNoticeUnit : Prop :=
  ∀ s : State, ∃ t, exec .coldReset s = .next t ∧
    (∀ y, (targetOf t y).queue = [] ∧ (targetOf t y).recent = [] ∧ (targetOf t y).counter = 0) ∧
    t.settings.notices = ⟨⟨false, false⟩, true, 32⟩ ∧
    (∀ (u : State) (r : Txn), u.settings.notices.caching = ⟨false, false⟩ →
      needsNotices u r = false ∧ notifiedSet u r = []) ∧
    (∀ y, readStatus t (.notices y) = 0) ∧
    (∀ u, warmWorkDone u = true → ∃ v, exec .resetPoint u = .next v ∧
      ∀ y, readStatus v (.notices y) = 0)

/-! ## Requests: arrival (chapter 1) -/

/-- R1, R2, R3: a request accepted within credit takes the lowest-numbered FREE slot with the record it
brings and the arrival counter's value; the counter advances by one; nothing else changes. -/
def Obligations.RequestTakesLowestFreeSlot : Prop :=
  ∀ (c : Instr) (r : Txn) (seq : Byte) (s : State) (i : Nat), requestOf c = some (r, seq) →
    accepts s r.link seq → (liveOf s r.link).length < (linkOf s r.link).currentLimit →
    i < s.table.slots.length → slotAt s i = none → (∀ j < i, slotAt s j ≠ none) →
    exec c s = .next { accepted s r.link with table := { s.table with
      slots := s.table.slots.set i (some { r with arrival := s.table.arrivalCounter })
      arrivalCounter := s.table.arrivalCounter + 1 } }

/-- The fields a request's record has at its arrival (01 R1, R3): in INTAKE, no orphan, bypass count 0,
everything that is set later absent; merge needed is yes exactly for a write with a mask that selects some
bytes of its block but not all. The link, the tag, the kind, the link address and the count are those of the
command, the masks and the data those of a WRITE or LOCK-WRITE, a mask list of none being absent; the count
of a LOCK-DROP is 1, a FENCE has neither address nor count; and a non-zero value in a field that the
request's layout marks unused is noted (01 R7, 11 section 11.3). -/
def Obligations.ArrivingRecordHoldsTheArrivalFields : Prop :=
  (∀ (c : Instr) (r : Txn) (seq : Byte), requestOf c = some (r, seq) →
    r.state = .intake ∧ r.epoch = none ∧ r.phys = none ∧ r.loc = none ∧ r.transNo = none ∧
    r.statuses = [] ∧ r.lockWait = none ∧ r.pred = none ∧ r.bypass = 0 ∧ r.stale = false ∧
    r.status = none ∧ r.orphan = false ∧
    (r.addr = none ↔ r.kind = .fence) ∧ (r.count = none ↔ r.kind = .fence) ∧
    (r.kind = .lockDrop → r.count = some 1) ∧
    (r.mergeNeeded = true ↔ isWrite r = true ∧
      ∃ ms, r.masks = some ms ∧ ∃ m ∈ ms, m ≠ 0 ∧ m ≠ BitVec.allOnes 32)) ∧
  ∀ (x : Link) (seq tag count unused : Byte) (addr : LinkAddr) (unused2 : BitVec 16)
    (masks : List Mask) (data : List Block),
    let brings (c : Instr) (r : Txn) (k : ReqKind) (a : Option LinkAddr) (n : Option Nat) : Prop :=
      requestOf c = some (r, seq) ∧ r.link = x ∧ r.tag = tag ∧ r.kind = k ∧ r.addr = a ∧ r.count = n
    let plain (r : Txn) : Prop := r.masks = none ∧ r.data = [] ∧ r.mergeNeeded = false
    let carried (r : Txn) : Prop :=
      r.masks = (if masks = [] then none else some masks) ∧ r.data = data ∧ r.unusedSet = false
    (∃ r, brings (.read x seq tag count unused addr) r .read (some addr) (some count.toNat) ∧
      plain r ∧ (r.unusedSet = true ↔ unused ≠ 0)) ∧
    (∃ r, brings (.lockRead x seq tag count unused addr) r .lockRead (some addr)
      (some count.toNat) ∧ plain r ∧ (r.unusedSet = true ↔ unused ≠ 0)) ∧
    (∃ r, brings (.write x seq tag count addr masks data) r .write (some addr) (some count.toNat) ∧
      carried r) ∧
    (∃ r, brings (.lockWrite x seq tag count addr masks data) r .lockWrite (some addr)
      (some count.toNat) ∧ carried r) ∧
    (∃ r, brings (.lockDrop x seq tag unused2 addr) r .lockDrop (some addr) (some 1) ∧ plain r ∧
      (r.unusedSet = true ↔ unused2 ≠ 0)) ∧
    (∃ r, brings (.fence x seq tag) r .fence none none ∧ plain r ∧ r.unusedSet = false)

/-- The bound of R4: while the current limits sum to at most 48 and neither link has more live slots than
its limit, a request within credit finds a FREE slot. A request that arrives when the live slots of its link
number its current limit is a credit overrun: it takes no slot, and a PROTOCOL alert names its link (01 R3;
09 R159, R160). -/
def Obligations.RequestCreditAndOverrun : Prop :=
  (∀ (s : State) (x : Link), slotsLaw s → creditLaw s → liveLaw s →
     (liveOf s x).length < (linkOf s x).currentLimit →
     ∃ i < s.table.slots.length, slotAt s i = none ∧ ∀ j < i, slotAt s j ≠ none) ∧
  (∀ (c : Instr) (r : Txn) (seq : Byte) (s : State), requestOf c = some (r, seq) →
     accepts s r.link seq → (linkOf s r.link).currentLimit ≤ (liveOf s r.link).length →
     exec c s = .next { accepted s r.link with mgmt :=
       if s.mgmt.alerts.length < 16 then
         { s.mgmt with
           alerts := s.mgmt.alerts ++ [⟨.protocol, some r.link, none, some .requestOverrun, none,
             s.mgmt.clock, s.mgmt.dropped, s.event + 1⟩]
           dropped := 0 }
       else { s.mgmt with dropped := min 255 (s.mgmt.dropped + 1) } })

/-! ## Requests: the intake step -/

/-- The checks of R6 in their order, down to ALIGN (01 R5 to R10): the first that applies gives the answer,
and the slot is in REPLY with it at the end of its link's response queue. The cases of MALFORMED (01 R7) and
of ALIGN (01 R10). A request that the Translation Unit refuses is answered so, and holds the current epoch
(01 R6; 02 R28, R29, R32). Which intake step may be taken (01 R5; 02 R41; 09 R162): none while a commit
drains, during a warm reset, or while a FENCE of the link is in FENCE-WAIT; else that of the oldest slot of
the link in INTAKE, if there is one; with none INTAKE_STEP changes nothing (log entry 2). A tag is taken (01
R8) where another live slot of the link that was stepped holds it, and free where no other live slot of the
link does; where only slots not yet stepped do, it is a free value (log entry 7). -/
def Obligations.IntakeStepRefusals : Prop :=
  (∀ (s : State) (x : Link) (i : Nat) (t : Txn), intakeReady s x = some (i, t) →
     let refused (st : MemStatus) := answers (.intakeStep x) s
       { beginEvent s with table := repliedTable s i t st }
     (malformed t = true → refused .malformed) ∧
     (malformed t = false → (∃ j u, slotAt s j = some u ∧ j ≠ i ∧ u.link = t.link ∧ u.tag = t.tag ∧
       u.state ≠ .intake) → refused .tagInUse) ∧
     (malformed t = false → tagTaken s i t = false → t.kind ≠ .fence → s.chan.state ≠ .run →
       refused .notReady) ∧
     (malformed t = false → tagTaken s i t = false → t.kind ≠ .fence → s.chan.state = .run →
       misaligned t = true → refused .align)) ∧
  (∀ t : Txn,
     (malformed t = true ↔
       (t.kind ≠ .fence ∧ t.kind ≠ .lockDrop ∧ (t.count.getD 0 < 1 ∨ 8 < t.count.getD 0)) ∨
       ((t.kind = .lockRead ∨ t.kind = .lockWrite) ∧ t.count.getD 0 ≠ 1) ∨
       (isWrite t = true ∧ t.data.length ≠ t.count.getD 0) ∨
       (isWrite t = true ∧ ∃ ms, t.masks = some ms ∧ ms.length ≠ t.count.getD 0) ∨
       ((t.kind = .read ∨ t.kind = .lockRead ∨ t.kind = .lockDrop) ∧ t.unusedSet = true)) ∧
     (∀ a : LinkAddr, t.addr = some a → 1 ≤ t.count.getD 0 →
       (misaligned t = true ↔ a.toNat % 32 ≠ 0 ∨
         a.toNat / 256 ≠ (a.toNat + 32 * t.count.getD 0 - 1) / 256))) ∧
  (∀ (s : State) (x : Link) (i : Nat) (t : Txn) (st : MemStatus), intakeReady s x = some (i, t) →
     passesTable s i t → Machine.translate s { t with epoch := some s.xlate.epoch } = .error st →
     answers (.intakeStep x) s { beginEvent s with
       table := repliedTable s i { t with epoch := some s.xlate.epoch } st }) ∧
  ((∀ (s : State) (x : Link),
     let held : Prop := s.xlate.commit = .draining ∨ s.chan.warm ≠ none ∨
       ∃ i t, slotAt s i = some t ∧ t.link = x ∧ t.state = .fenceWait
     let waits (i : Nat) (t : Txn) : Prop := slotAt s i = some t ∧ t.link = x ∧ t.state = .intake
     (intakeReady s x = none ↔ held ∨ ∀ i t, ¬ waits i t) ∧
     (∀ i t, intakeReady s x = some (i, t) → waits i t ∧
       ∀ j u, waits j u → arrivedBefore s u t = false) ∧
     (intakeReady s x = none → idles (.intakeStep x) s)) ∧
   ∀ (s : State) (i : Nat) (t : Txn),
     let same (j : Nat) (u : Txn) : Prop :=
       slotAt s j = some u ∧ j ≠ i ∧ u.link = t.link ∧ u.tag = t.tag
     ((∀ j u, ¬ same j u) → tagTaken s i t = false) ∧
     ((∃ j u, same j u ∧ u.state ≠ .intake) → tagTaken s i t = true) ∧
     ((∃ j u, same j u) → (∀ j u, same j u → u.state = .intake) →
       tagTaken s i t = Config.youngerTagRefuses))

/-- A READ or WRITE that passes every check enters QUEUED with its epoch, physical address and location:
blocked on the lowest entry of the other link in its span, or at its ordering point (01 R11, R13; 05 R91). A
FENCE that passes its checks enters FENCE-WAIT, and goes on to REPLY with OK at once where no live request
of its link arrived before it (01 R11, R20). -/
def Obligations.IntakeStepQueuesRequests : Prop :=
  (∀ (s : State) (x : Link) (i : Nat) (t : Txn) (p : Nat), intakeReady s x = some (i, t) →
     passesTable s i t → (t.kind = .read ∨ t.kind = .write) →
     Machine.translate s { t with epoch := some s.xlate.epoch } = .ok p →
     (∀ b, blockingEntry s (located s t p) = some b →
       answers (.intakeStep x) s { beginEvent s with table := { s.table with
         slots := s.table.slots.set i (some { located s t p with
           state := .queued, lockWait := some b }) } }) ∧
     (blockingEntry s (located s t p) = none →
       answers (.intakeStep x) s { beginEvent s with table := { s.table with
         slots := s.table.slots.set i (some { located s t p with
           state := .queued
           transNo := some s.table.transCounter
           pred := choosePred s i { located s t p with transNo := none }
           lockWait := none })
         transCounter := s.table.transCounter + 1 } })) ∧
  (∀ (s : State) (x : Link) (i : Nat) (t : Txn), intakeReady s x = some (i, t) →
     t.kind = .fence → tagTaken s i t = false →
     ((∃ p ∈ liveOf s x, arrivedBefore s p.2 t = true) →
       answers (.intakeStep x) s { beginEvent s with table := { s.table with
         slots := s.table.slots.set i (some { t with state := .fenceWait }) } }) ∧
     ((∀ p ∈ liveOf s x, arrivedBefore s p.2 t = false) →
       answers (.intakeStep x) s { beginEvent s with table := repliedTable s i t .ok }))

/-- A LOCK-READ at the Lock Table (05 R89): refused with two entries of its link in use or with its link's
own entry on the block, blocked on the other link's entry, or taking a free entry in PENDING at its ordering
point. A LOCK-WRITE at the Lock Table (05 R93): with a HELD entry of its link on its block the entry becomes
WRITING with its timer stopped and the LOCK-WRITE reaches its ordering point; in every other case it is
answered LOCK_LOST and changes no entry. A LOCK-DROP at the Lock Table (05 R95): a HELD entry of its link on
its block is removed, its waiters are released and the LOCK-DROP is answered OK; in every other case it is
answered LOCK_LOST and changes no entry. -/
def Obligations.IntakeStepTakesLockRequests : Prop :=
  (∀ (s : State) (x : Link) (i : Nat) (t : Txn) (p : Nat), intakeReady s x = some (i, t) →
     passesTable s i t → t.kind = .lockRead →
     Machine.translate s { t with epoch := some s.xlate.epoch } = .ok p →
     (2 ≤ (locksOf s x).length ∨ (∃ e, lockOn s p = some e ∧ e.holder = x) →
       answers (.intakeStep x) s { beginEvent s with
         table := repliedTable s i (located s t p) .lockRefused }) ∧
     ((locksOf s x).length < 2 → ∀ e, lockOn s p = some e → e.holder ≠ x →
       answers (.intakeStep x) s { beginEvent s with table := { s.table with
         slots := s.table.slots.set i (some { located s t p with
           state := .queued, lockWait := some p }) } }) ∧
     ((locksOf s x).length < 2 → lockOn s p = none →
       answers (.intakeStep x) s { beginEvent s with
         locks := s.locks ++ [⟨x, p, .pending, some i, .stopped⟩]
         table := { s.table with
           slots := s.table.slots.set i (some { located s t p with
             state := .queued
             transNo := some s.table.transCounter
             pred := choosePred s i { located s t p with transNo := none }
             lockWait := none })
           transCounter := s.table.transCounter + 1 } })) ∧
  (∀ (s : State) (x : Link) (i : Nat) (t : Txn) (p : Nat), intakeReady s x = some (i, t) →
     passesTable s i t → t.kind = .lockWrite →
     Machine.translate s { t with epoch := some s.xlate.epoch } = .ok p →
     ((∃ e ∈ s.locks, e.block = p ∧ e.holder = x ∧ e.state = .held) →
       answers (.intakeStep x) s { beginEvent s with
         locks := s.locks.map fun e => if e.block = p
           then { e with state := .writing, owner := some i, timer := .stopped } else e
         table := { s.table with
           slots := s.table.slots.set i (some { located s t p with
             state := .queued
             transNo := some s.table.transCounter
             pred := choosePred s i { located s t p with transNo := none }
             lockWait := none })
           transCounter := s.table.transCounter + 1 } }) ∧
     ((∀ e ∈ s.locks, e.block = p → e.holder = x → e.state ≠ .held) →
       answers (.intakeStep x) s { beginEvent s with
         table := repliedTable s i (located s t p) .lockLost })) ∧
  (∀ (s : State) (x : Link) (i : Nat) (t : Txn) (p : Nat), intakeReady s x = some (i, t) →
     passesTable s i t → t.kind = .lockDrop →
     Machine.translate s { t with epoch := some s.xlate.epoch } = .ok p →
     ((∃ e ∈ s.locks, e.block = p ∧ e.holder = x ∧ e.state = .held) →
       answers (.intakeStep x) s (enterReply (removeLock
         (setSlot (beginEvent s) i (some (located s t p))) p) i .ok)) ∧
     ((∀ e ∈ s.locks, e.block = p → e.holder = x → e.state ≠ .held) →
       answers (.intakeStep x) s { beginEvent s with
         table := repliedTable s i (located s t p) .lockLost }))

/-- R14, R15: the predecessor chosen is a live conflicting transaction in QUEUED, ACCESS or MERGE with an
earlier translation number, and no other such transaction has a later one; with none there is no
predecessor. Two transactions conflict where their spans share a block and one of them is a WRITE or
LOCK-WRITE (01 R14). Arrival and translation numbers are ordered by how many numbers were drawn from their
counter since, which holds across the wrap (01 R2; DEDUCED, log entry 17). -/
def Obligations.PredecessorIsLatestConflicting : Prop :=
  (∀ (s : State) (i : Nat) (t : Txn),
     (∀ p, choosePred s i t = some p → ∃ u n, slotAt s p = some u ∧ p ≠ i ∧ onChannelPath u = true ∧
       conflict t u = true ∧ u.transNo = some n ∧
       (∀ m, t.transNo = some m → earlierTrans s n m = true) ∧
       ∀ q v k, slotAt s q = some v → q ≠ i → onChannelPath v = true → conflict t v = true →
         v.transNo = some k → (∀ m, t.transNo = some m → earlierTrans s k m = true) →
         earlierTrans s n k = false) ∧
     (choosePred s i t = none → ∀ q v k, slotAt s q = some v → q ≠ i → onChannelPath v = true →
       conflict t v = true → v.transNo = some k → ∃ m, t.transNo = some m ∧
         earlierTrans s k m = false)) ∧
  ((∀ t u : Txn,
     (onChannelPath t = true ↔ t.state = .queued ∨ t.state = .access ∨ t.state = .merge) ∧
     (conflict t u = true ↔
       (t.kind = .write ∨ t.kind = .lockWrite ∨ u.kind = .write ∨ u.kind = .lockWrite) ∧
       ∃ p q, t.phys = some p ∧ u.phys = some q ∧
         ∃ m < t.count.getD 0, ∃ n < u.count.getD 0, p + 32 * m = q + 32 * n)) ∧
   ∀ (s : State) (t u : Txn) (m n : BitVec 32),
     let since (counter number : BitVec 32) : Nat := (counter - 1 - number).toNat
     (arrivedBefore s t u = true ↔
       since s.table.arrivalCounter u.arrival < since s.table.arrivalCounter t.arrival) ∧
     (earlierTrans s m n = true ↔ since s.table.transCounter n < since s.table.transCounter m))

/-! ## Responses -/

/-- The handing of a response (01 R21; 10 R175, R177, R178): the response of the head slot of the response
queue is sent with the next send sequence and joins the replay buffer, the slot becomes FREE and a request
credit is owed; a FENCE that waited for this alone goes on (R20). The response kinds of the request kinds
and what they carry (01 R21). R20: a FENCE in FENCE-WAIT whose condition holds goes to REPLY with OK, at the
end of its link's response queue; while some live request of its link arrived before it, nothing changes. A
response that may not be taken is not handed (10 R175; log entry 2). -/
def Obligations.ResponsesAreHanded : Prop :=
  (∀ (s : State) (x : Link) (i : Nat) (rest : List Nat) (t : Txn), mayTake s x .response = true →
     s.table.responses.get x = i :: rest → slotAt s i = some t →
     exec (.sendResponse x) s = .next (settleFence { beginEvent s with
       wire := (PerLink.both []).set x [.sequenced (linkOf s x).nextSend (responseOf t)]
       table := { s.table with
         slots := s.table.slots.set i none, responses := s.table.responses.set x rest }
       links := s.links.set x { linkOf s x with
         nextSend := (linkOf s x).nextSend + 1
         replay := (linkOf s x).replay ++ [((linkOf s x).nextSend, responseOf t)]
         replayTimer := if (linkOf s x).replay = [] then .running 64 else (linkOf s x).replayTimer
         owedRequests := (linkOf s x).owedRequests + 1
         owedSince := if (linkOf s x).owedRequests = 0 ∧ (linkOf s x).owedMgmt = 0 then s.event + 1
           else (linkOf s x).owedSince } } x)) ∧
  (∀ (t : Txn) (st : MemStatus), t.status = some st →
     responseOf t = match t.kind with
       | .read | .lockRead => .readData t.tag st (t.statuses.zip t.data)
       | .write | .lockWrite => .writeDone t.tag st
       | .lockDrop => .lockDone t.tag st
       | .fence => .fenceDone t.tag st) ∧
  (∀ (s : State) (x : Link) (i : Nat) (t : Txn), slotAt s i = some t → t.link = x →
     t.state = .fenceWait → fenceLaw s →
     ((∀ p ∈ liveOf s x, arrivedBefore s p.2 t = false) → settleFence s x = enterReply s i .ok) ∧
     ((∃ p ∈ liveOf s x, arrivedBefore s p.2 t = true) → settleFence s x = s)) ∧
  (∀ (s : State) (x : Link), mayTake s x .response = false → idles (.sendResponse x) s)

/-! ## What follows from an event -/

/-- What the consequences of an event leave as it is, and what they are, one after another: the end of a
drain, a forced episode that waited, the holder's idle condition, the clearing and the setting of a
hand-over due, the pass, the grant and an opportunistic episode, the closes of a quiesce, a closing episode,
the room rule, the entry to self-refresh. Their order is the model's choice (log entry 10). At the end of an
event nothing that its rules make follow at the same event is still due: no switch of a drained commit
(R41), no progress of a waiting or closing episode (R124, R125), no pass (R75) or grant (R71) of tenure, no
opportunistic episode (R123), no close that the room rule asks for (R52), no entry to self-refresh (R134). A
forced episode that waited is CLOSING once nothing is in ACCESS or MERGE (07 R124), and a closing one
REFRESHING once every bank is CLOSED (07 R125). At an event of a quiesce with nothing QUEUED, ACCESS or
MERGE the close of every OPEN bank is requested (08 R133; 03 R50). What the tests of an event look at (02
R41; 07 R123, R124; 04 R69): a transaction in QUEUED, ACCESS or MERGE, one in ACCESS or MERGE, an eligible
one, and one that is waiting work. -/
def Obligations.ConsequencesSettle : Prop :=
  (∀ s t : State, t = settle s →
     t.links = s.links ∧ t.table = s.table ∧ t.dram = s.dram ∧ t.settings = s.settings ∧
     t.wire = s.wire ∧ t.event = s.event ∧ t.pending = s.pending ∧
     t.mgmt.claim = s.mgmt.claim ∧ t.mgmt.lease = s.mgmt.lease ∧ t.mgmt.clock = s.mgmt.clock ∧
     t.mgmt.discarded = s.mgmt.discarded ∧
     (∀ y, (targetOf t y).queue = (targetOf s y).queue ∧
       (targetOf t y).counter = (targetOf s y).counter) ∧
     (∀ pos, (bankAt t pos).map
         (fun b => (b.state, b.row, b.behaviour, b.streak, b.serving, b.activatedAt, b.writtenAt)) =
       (bankAt s pos).map
         fun b => (b.state, b.row, b.behaviour, b.streak, b.serving, b.activatedAt, b.writtenAt)) ∧
     t.sched.lastGranted = s.sched.lastGranted ∧ t.sched.openedBy = s.sched.openedBy ∧
     t.sched.writtenBy = s.sched.writtenBy ∧
     t = settleSleep (settleVictims (closingToRefreshing (settleQuiesce (settleGrant (settlePass
       (wantDue (clearDue (judgeIdle (waitingToClosing (settleCommit s)))))))))) ∧
     t.chan = { s.chan with
       state := t.chan.state, sleeping := t.chan.sleeping, warm := t.chan.warm } ∧
     (s.xlate.commit ≠ .draining → t.xlate = s.xlate) ∧
     (s.chan.state ≠ .quiescing → t.locks = s.locks ∧ t.chan.state = s.chan.state ∧
       t.mgmt.alerts = s.mgmt.alerts ∧ t.mgmt.dropped = s.mgmt.dropped)) ∧
  (∀ s t : State, t = settle s →
     (t.xlate.commit = .draining → anyOnPath t = true) ∧
     (∀ k, t.refresh.episode = .holds k .waiting → anyInFlight t = true) ∧
     (∀ k, t.refresh.episode = .holds k .closing → allClosed t = false) ∧
     passReady t = none ∧ grantReady t = none ∧ episodeReady t = false ∧ selfRefreshReady t = false ∧
     (∀ r < t.settings.geometry.ranks, victimClose t r = t)) ∧
  (∀ s : State,
     ((∀ k, s.refresh.episode = .holds k .waiting → anyInFlight s = false → waitingToClosing s = { s with
         refresh := { s.refresh with episode := .holds k .closing } }) ∧
       ((∀ k, s.refresh.episode ≠ .holds k .waiting) ∨ anyInFlight s = true →
         waitingToClosing s = s)) ∧
     ((∀ k, s.refresh.episode = .holds k .closing → allClosed s = true → closingToRefreshing s = { s with
         refresh := { s.refresh with episode := .holds k .refreshing, sent := [], sentAt := none } }) ∧
       ((∀ k, s.refresh.episode ≠ .holds k .closing) ∨ allClosed s = false →
         closingToRefreshing s = s)) ∧
     (s.chan.state = .quiescing → anyOnPath s = false →
       (∀ pos, bankAt (settleQuiesce s) pos = (bankAt s pos).map fun b =>
         if b.serving.isSome then { b with closeAfter := true }
         else if b.state = .openRow then { b with closePending := true }
         else b) ∧
       settleQuiesce s = { s with sched := { s.sched with banks := (settleQuiesce s).sched.banks } }) ∧
     (s.chan.state ≠ .quiescing ∨ anyOnPath s = true → settleQuiesce s = s)) ∧
  (∀ s : State,
     let live (p : Txn → Prop) : Prop := ∃ i t, slotAt s i = some t ∧ p t
     (anyOnPath s = true ↔ live fun t => t.state = .queued ∨ t.state = .access ∨ t.state = .merge) ∧
     (anyInFlight s = true ↔ live fun t => t.state = .access ∨ t.state = .merge) ∧
     (anyEligible s = true ↔ live fun t => eligible s t = true) ∧
     ∀ t, isWaitingWork t = true ↔ t.state = .queued ∧ t.lockWait = none)

/-- R40, R41: while anything is QUEUED, ACCESS or MERGE a drain goes on and ACTIVE stands; with nothing
there the switch is made whole: ACTIVE takes SHADOW, the epoch rises by one modulo 256, both Recent Line
Lists are cleared, the timer stops, the state is STEADY, and the commit's reply is decided OK with the new
epoch. -/
def Obligations.DrainEndsInSwitch : Prop :=
  ∀ s : State, s.xlate.commit = .draining →
    (anyOnPath s = true → (settle s).xlate = s.xlate) ∧
    (anyOnPath s = false →
      (settle s).xlate = { s.xlate with
        active := s.xlate.shadow
        epoch := s.xlate.epoch + 1
        commit := .steady
        commitTimer := .stopped
        heldRevert := false } ∧
      (∀ y, (targetOf (settle s) y).recent = []) ∧
      ∀ x before e after, s.mgmt.longOp = some (.commit, x) →
        s.mgmt.replies.get x = before ++ e :: after →
        (∀ d ∈ before, ¬ (d.kind = .tableCommit ∧ d.status = none)) →
        e.kind = .tableCommit → e.status = none →
        (settle s).mgmt.longOp = none ∧
        (settle s).mgmt.replies.get x = before ++ { e with
          status := some .ok
          value := .word ((s.xlate.epoch + 1).setWidth 32)
          readySince := s.event } :: after)

/-- A pass of tenure (04 R78): the new holder in GUARANTEED with its quantum loaded, no hand-over due, an
idle timer that runs exactly if the holder is idle and its limit is not 0, both Recent Line Lists cleared,
and, with CLOSE_ON_HANDOVER, the close of every bank requested; nothing else changes. When tenure passes and
when it is granted (04 R71, R75, R78): with hand-over due to a link that has waiting work, the pass is made
at the hand-over point; from NONE the grant goes to the link of the oldest waiting transaction once nothing
is in ACCESS or MERGE; with no waiting work the holder stays NONE. The pass at a hand-over point (04 R75,
R79 to R81; 05 R94): the holder has nothing in ACCESS or MERGE and no lock that counts, and no refresh
episode holds the channel or waits for it. A debt of 1 or more is paid first, in RUN and QUIESCING, by an
opportunistic episode; else tenure goes to the link it is due to, or, where it is due to none, to the other
link if that has waiting work and to NONE if not. The grant from NONE (04 R71): under TENURE mode, with
nothing in ACCESS or MERGE and no episode, to the link of the oldest waiting transaction. Where a grant and
an opportunistic episode are both due either may come first (04 R71). -/
def Obligations.TenurePassesAndGrants : Prop :=
  (∀ (s t : State) (y : Link), t = passTenure s y →
     t.tenure.holder = some y ∧ t.tenure.phase = some .guaranteed ∧
     t.tenure.quantum = .running (s.settings.tenure.quantum.get y) ∧ t.tenure.due = .no ∧
     (holderIdle t y = false → t.tenure.idle = .stopped) ∧
     (holderIdle t y = true → t.tenure.idle = if s.settings.tenure.idleLimit.get y = 0 then .stopped
       else if s.refresh.episode = .none then .running (s.settings.tenure.idleLimit.get y)
       else .paused (s.settings.tenure.idleLimit.get y)) ∧
     (∀ z, targetOf t z = { targetOf s z with recent := [] }) ∧
     (∀ pos, bankAt t pos = (bankAt s pos).map fun b =>
       if s.settings.tenure.closeOnHandover = false then b
       else if b.serving.isSome then { b with closeAfter := true }
       else if b.state = .openRow then { b with closePending := true }
       else b) ∧
     t = { s with tenure := t.tenure, notices := t.notices, sched := { s.sched with
       banks := t.sched.banks } }) ∧
  (∀ s : State, s.xlate.commit ≠ .draining → s.refresh.episode = .none → s.refresh.debt = 0 →
     (∀ x y, s.tenure.holder = some x → s.tenure.due = .toLink y → hasWaitingWork s y = true →
       handOverPoint s x = true → (settle s).tenure.holder = some y ∧
         (settle s).tenure.phase = some .guaranteed ∧ (settle s).tenure.due = .no) ∧
     (∀ x y, s.tenure.holder = some x → s.tenure.due = .toLink y → hasWaitingWork s y = true →
       handOverPoint s x = false → (settle s).tenure.holder = some x ∧
         (settle s).tenure.due = .toLink y) ∧
     (s.tenure.holder = none → s.settings.tenure.mode = .tenure → anyInFlight s = false →
       ∀ i t, slotAt s i = some t → isWaitingWork t = true →
         (∀ j u, slotAt s j = some u → j ≠ i → isWaitingWork u = true →
           arrivedBefore s t u = true) →
         (settle s).tenure.holder = some t.link) ∧
     (s.tenure.holder = none → (∀ i t, slotAt s i = some t → isWaitingWork t = false) →
       (settle s).tenure.holder = none)) ∧
  ((∀ (s : State) (x : Link),
     (hasWaitingWork s x = true ↔
       ∃ i t, slotAt s i = some t ∧ t.link = x ∧ t.state = .queued ∧ t.lockWait = none) ∧
     (handOverPoint s x = true ↔ holdsLock s x = false ∧
       ∀ i t, slotAt s i = some t → t.link = x → t.state ≠ .access ∧ t.state ≠ .merge)) ∧
   ∀ s : State,
     let ready (x : Link) : Prop := s.tenure.holder = some x ∧ s.tenure.due ≠ .no ∧
       handOverPoint s x = true ∧ s.refresh.episode = .none
     let serves : Prop := s.chan.state = .run ∨ s.chan.state = .quiescing
     let grants (x : Link) : Prop := s.settings.tenure.mode = .tenure ∧ s.tenure.holder = none ∧
       anyInFlight s = false ∧ s.refresh.episode = .none ∧ ∃ i t, slotAt s i = some t ∧
         isWaitingWork t = true ∧ t.link = x ∧ ∀ j u, slotAt s j = some u → isWaitingWork u = true →
           arrivedBefore s u t = false
     let episode : Prop := serves ∧ s.refresh.episode = .none ∧ 1 ≤ s.refresh.debt ∧
       anyEligible s = false ∧ anyInFlight s = false
     ((∀ x, ¬ ready x) → settlePass s = s) ∧
     (∀ x, ready x →
       (serves → 1 ≤ s.refresh.debt → settlePass s = beginOpportunistic s) ∧
       (¬ serves ∨ s.refresh.debt = 0 →
         (∀ y, s.tenure.due = .toLink y → settlePass s = passTenure s y) ∧
         (s.tenure.due = .toNone → hasWaitingWork s (otherLink x) = true →
           settlePass s = passTenure s (otherLink x)) ∧
         (s.tenure.due = .toNone → hasWaitingWork s (otherLink x) = false →
           settlePass s = { s with tenure := ⟨none, none, .stopped, .stopped, .no, false⟩ }))) ∧
     (∀ x, grantReady s = some x → grants x) ∧ (grantReady s = none → ∀ x, ¬ grants x) ∧
     (episodeReady s = true ↔ episode) ∧
     (grantReady s = none → ¬ episode → settleGrant s = s) ∧
     (grantReady s = none → episode → settleGrant s = beginOpportunistic s) ∧
     (∀ x, grantReady s = some x → ¬ episode → ∃ u, u = passTenure s x ∧
       settleGrant s = if episodeReady u then beginOpportunistic u else u) ∧
     (∀ x, grantReady s = some x → episode → ∃ u, u = { s with free := s.free + 1 } ∧
       (settleGrant s = beginOpportunistic u ∨
         settleGrant s = if episodeReady (passTenure u x) then beginOpportunistic (passTenure u x)
           else passTenure u x)))

/-- The tenure gate (04 R70): open to every transaction in SHARED mode; in TENURE mode open to the holder's
alone, and, with a hand-over due, only while the holder has a lock in HELD or WRITING that counts, and then
not to a LOCK-READ. A lock entry of a link counts if it is HELD, or WRITING and its LOCK-WRITE has no
pending predecessor of the other link. The conditions of an issue (03 R54): QUEUED, no pending predecessor,
no lock wait, the gate open, the notices fitting, the channel RUN or QUIESCING. -/
def Obligations.EligibilityAndTenureGate : Prop :=
  (∀ (s : State) (t : Txn),
     (s.settings.tenure.mode = .shared → gateOpen s t = true) ∧
     (s.settings.tenure.mode = .tenure → (gateOpen s t = true ↔
       s.tenure.holder = some t.link ∧
         (s.tenure.due ≠ .no → holdsLock s t.link = true ∧ t.kind ≠ .lockRead))) ∧
     ∀ x, holdsLock s x = true ↔ ∃ e ∈ s.locks, e.holder = x ∧ (e.state = .held ∨
       (e.state = .writing ∧ ¬ ∃ i w p u, e.owner = some i ∧ slotAt s i = some w ∧ w.pred = some p ∧
         slotAt s p = some u ∧ u.link ≠ x ∧
         (u.state = .queued ∨ u.state = .access ∨ u.state = .merge)))) ∧
  (∀ (s : State) (t : Txn), eligible s t = true ↔
     t.state = .queued ∧
     (∀ p u, t.pred = some p → slotAt s p = some u →
       u.state ≠ .queued ∧ u.state ≠ .access ∧ u.state ≠ .merge) ∧
     t.lockWait = none ∧ gateOpen s t = true ∧
     (newLines s t = [] ∨
       (newLines s t).length + (targetOf s (otherLink t.link)).queue.length ≤ 16) ∧
     (s.chan.state = .run ∨ s.chan.state = .quiescing))

/-! ## Translation and location (chapters 2 and 3) -/

/-- The translation of a request (02 R28, R29, R31, R32): by the lowest valid window that serves its link
and covers its address; UNMAPPED without one, RANGE beyond the installed capacity, then the rights of the
lowest valid region that contains it, or of the Default Region: DENIED without the right its kind needs, and
LOCK_REFUSED for a LOCK-READ outside a lockable region. The installed capacity in bytes (08 R136): RANKS ×
BANKS × ROWS rows of 2048 bytes. The location of a block (03 R47): for an address inside the installed
capacity the rank, bank, row and column lie in their ranges, two addresses share a location only if they lie
in one block, and the blocks of one 256-byte unit lie side by side in one row. -/
def Obligations.TranslationAndLocation : Prop :=
  (∀ (s : State) (t : Txn) (a : LinkAddr), t.addr = some a → 1 ≤ t.count.getD 0 →
     ((∀ w ∈ s.xlate.active.windows, ¬ windowTakes w t.link a) →
       Machine.translate s t = .error .unmapped) ∧
     ∀ (k : Nat) (w : Window), s.xlate.active.windows[k]? = some w → windowTakes w t.link a →
       (∀ j < k, ∀ v : Window, s.xlate.active.windows[j]? = some v → ¬ windowTakes v t.link a) →
       ∀ p, p = w.physBase.toNat + (a.toNat - w.linkBase.toNat) →
         (capacity s.settings.geometry < p + 32 * t.count.getD 0 →
           Machine.translate s t = .error .range) ∧
         (p + 32 * t.count.getD 0 ≤ capacity s.settings.geometry →
           ∀ r, rightsGoverning s.xlate.active p r →
             let right := match t.link with
               | .a => r.accessA
               | .b => r.accessB
             Machine.translate s t = match t.kind with
               | .read => if right = .none then .error .denied else .ok p
               | .write | .lockWrite => if right = .readWrite then .ok p else .error .denied
               | .lockRead =>
                 if right = .readWrite then (if r.lockable then .ok p else .error .lockRefused)
                 else .error .denied
               | .lockDrop | .fence => .ok p)) ∧
  (∀ g : Geometry, capacity g = g.ranks * g.banks * g.rows * 2048) ∧
  (∀ (g : Geometry), (g.banks = 4 ∨ g.banks = 8) → 0 < g.rows →
     (∀ p < capacity g, (locate g p).rank < g.ranks ∧ (locate g p).bank < g.banks ∧
       (locate g p).row < g.rows ∧ (locate g p).column < 64) ∧
     (∀ p q, p < capacity g → q < capacity g → locate g p = locate g q → p / 32 = q / 32) ∧
     (∀ p k, p / 256 = (p + 32 * k) / 256 →
       locate g (p + 32 * k) = { locate g p with column := (locate g p).column + k }) ∧
     (g.interleave = .rowMajor → ∀ p, locate g p =
       ⟨p / 32 / (64 * g.banks * g.rows), p / 32 / 64 % g.banks, p / 32 / (64 * g.banks) % g.rows,
         p / 32 % 64⟩) ∧
     (g.interleave = .spanRotate → ∀ p, locate g p =
       ⟨p / 32 / (64 * g.banks * g.rows), p / 32 / 8 % g.banks, p / 32 / (64 * g.banks) % g.rows,
         p / 32 % 8 + 8 * (p / 32 / (8 * g.banks) % 8)⟩))

/-! ## The Bank Scheduler and the DRAM channel (chapters 3 and 8) -/

/-- The choice of a bank (03 R55): a bank that is not ready, or has no eligible transaction queued, has
none; otherwise the choice is an eligible transaction of its queue: the oldest urgent one if there is any;
else, on an OPEN row under KEEP, the oldest that hits it if there is any; else the oldest. The issue arbiter
(03 R56): it grants only while no episode holds the channel, no warm reset is under way and no command that
continues work, the PRECHARGE of a close included, is ready; then it grants, if any bank requests, the first
in search order after the position last granted whose choice is urgent, or else the first that requests. A
command is ready (03 R56; 08 R138, R145): the ACTIVATE of a CLOSED bank's service with a reservation or
room; the next READ-COLUMN, or, with no read data due, the next WRITE-COLUMN on its row; the PRECHARGE of a
CONFLICT, and that of a close of a bank that is not busy, once its minimum open and write recovery times are
known to have passed. When they are known to have is the model's choice (log entry 4). The room rule (03
R52, R53). A rank has room while its open rows and its reservations number less than the limit in force, the
smaller of OPEN_LIMIT and the banks of a rank. A bank with a choice requests the arbiter, a CLOSED one only
where its rank has room. While a CLOSED bank with a choice finds no room and no bank of the rank has close
pending, the close of the victim is requested: the first in the rank's list that is OPEN, serves nothing,
and has no eligible transaction queued for its open row; with no such bank nothing is requested, and the
room rule requests nothing else. The words of the choice (03 R48, R55; 01 R12): a bank is ready when it is
CLOSED or OPEN, not busy and without close pending; a transaction is urgent when its bypass count is at or
above BYPASS_LIMIT; the choice of a bank is urgent when the transaction chosen is; a bank's position is rank
× N + bank; its queue holds its QUEUED transactions in order of arrival. -/
def Obligations.ArbiterGrants : Prop :=
  (∀ (s : State) (pos : Nat) (b : Bank), bankAt s pos = some b →
     let candidate (i : Nat) (t : Txn) : Prop :=
       slotAt s i = some t ∧ posOf s t = some pos ∧ eligible s t = true
     let hits (t : Txn) : Prop :=
       b.state = .openRow ∧ behaviourOf s b = .keep ∧ rowOf t = b.row
     (choice s pos = none ↔ bankReady b = false ∨ ∀ i t, ¬ candidate i t) ∧
     ∀ i t, choice s pos = some (i, t) → bankReady b = true ∧ candidate i t ∧
       (urgent s t = true → ∀ j u, candidate j u → urgent s u = true →
         arrivedBefore s u t = false) ∧
       (urgent s t = false → (∀ j u, candidate j u → urgent s u = false) ∧
         (hits t → ∀ j u, candidate j u → hits u → arrivedBefore s u t = false) ∧
         (¬ hits t → ∀ j u, candidate j u → ¬ hits u ∧ arrivedBefore s u t = false))) ∧
  (∀ s : State, positionLaw s →
     let distance (pos : Nat) : Nat := (pos + 15 - s.sched.lastGranted) % 16
     let barred : Prop := s.refresh.episode ≠ .none ∨ warmReset s = true ∨
       anyCommandReady s = true ∨ anyCloseDue s = true
     let passed (b : Bank) : Prop :=
       b.activatedAt ≤ s.sched.openedBy ∧ b.writtenAt ≤ s.sched.writtenBy
     let ready (pos : Nat) (b : Bank) (v : Service) : Prop := (warmReset s = true → v.wrote = true) ∧
       ((b.state = .closed ∧ (s.chan.state = .run ∨ s.chan.state = .quiescing) ∧
           (v.reserved = true ∨ hasRoom s (rankOf s pos) = true)) ∨
         (b.state = .openRow ∧ b.row = slotRow s v.slot ∧
           (v.toRead ≠ [] ∨ (v.toWrite ≠ [] ∧ s.chan.readsDue = []))) ∨
         (b.state = .openRow ∧ b.row ≠ slotRow s v.slot ∧ passed b))
     (anyCommandReady s = true ↔
       ∃ pos b v, bankAt s pos = some b ∧ b.serving = some v ∧ ready pos b v) ∧
     (∀ issued, earlierCommandReady s issued = true ↔
       ∃ pos b v, bankAt s pos = some b ∧ b.serving = some v ∧ ready pos b v ∧ v.issued < issued) ∧
     (anyCloseDue s = true ↔ ∃ pos b, bankAt s pos = some b ∧ b.state = .openRow ∧
       b.closePending = true ∧ b.serving = none ∧ passed b) ∧
     (grantee s = none ↔ barred ∨ ∀ q < 16, requests s q = false) ∧
     ∀ pos, grantee s = some pos → ¬ barred ∧ pos < 16 ∧ requests s pos = true ∧
       (urgentChoice s pos = true → ∀ q < 16, requests s q = true → urgentChoice s q = true →
         distance pos ≤ distance q) ∧
       (urgentChoice s pos = false → ∀ q < 16, requests s q = true →
         urgentChoice s q = false ∧ distance pos ≤ distance q)) ∧
  (∀ (s : State) (rank : Nat),
     let reserving := (positionsOf s rank).filter fun p =>
       (bankAt s p).any fun b => b.serving.any fun v => v.reserved
     let inRank (p : Nat) (b : Bank) : Prop :=
       bankAt s p = some b ∧ p / s.settings.geometry.banks = rank
     let short : Prop := (∃ p b, inRank p b ∧ b.state = .closed ∧ choice s p ≠ none) ∧
       hasRoom s rank = false ∧ ∀ p b, inRank p b → b.closePending = false
     let fits (p : Nat) : Prop := ∃ b, bankAt s p = some b ∧ b.state = .openRow ∧ b.serving = none ∧
       ∀ i t, slotAt s i = some t → posOf s t = some p → eligible s t = true → rowOf t ≠ b.row
     (hasRoom s rank = true ↔ (openRowList s rank).length + reserving.length <
       min s.settings.rows.openLimit s.settings.geometry.banks) ∧
     (∀ p b, bankAt s p = some b → (requests s p = true ↔
       choice s p ≠ none ∧ (b.state = .closed → hasRoom s (rankOf s p) = true))) ∧
     (¬ short ∨ (∀ p ∈ openRowList s rank, ¬ fits p) → victimClose s rank = s) ∧
     (short → ∀ before p after, openRowList s rank = before ++ p :: after →
       (∀ q ∈ before, ¬ fits q) → fits p → victimClose s rank = { s with sched := { s.sched with
         banks := s.sched.banks.modify p fun b => { b with closePending := true } } }) ∧
     settleVictims s = (List.range s.settings.geometry.ranks).foldl victimClose s) ∧
  ((∀ b : Bank, bankReady b = true ↔
     (b.state = .closed ∨ b.state = .openRow) ∧ b.serving = none ∧ b.closePending = false) ∧
   ∀ (s : State) (pos i : Nat) (t : Txn),
     (urgent s t = true ↔ s.settings.rows.bypassLimit ≤ t.bypass) ∧
     (urgentChoice s pos = true ↔ ∃ j u, choice s pos = some (j, u) ∧ urgent s u = true) ∧
     (t.loc = none → posOf s t = none ∧ rowOf t = none) ∧
     (∀ l, t.loc = some l → posOf s t = some (l.rank * s.settings.geometry.banks + l.bank) ∧
       rowOf t = some l.row) ∧
     rankOf s pos = pos / s.settings.geometry.banks ∧
     ((i, t) ∈ bankQueue s pos ↔ slotAt s i = some t ∧ t.state = .queued ∧ posOf s t = some pos) ∧
     (bankQueue s pos).Pairwise (fun p q => arrivedBefore s q.2 p.2 = false))

/-- The issue of a transaction (03 R57; 01 R16; 06 R105): its slot is in ACCESS, or in MERGE for a write
with a partly selected block; each older eligible transaction of the bank queue that is passed over has its
bypass count raised, below BYPASS_LIMIT; a write's new lines have RESERVED entries that it claims, and it
joins the claimants of the lines that have one; the bank serves it with the access classified, its last row
replaced, its timer stopped and itself last in its rank's list if it is there; the position is the one last
granted; nothing else changes. A write whose masks select no byte is performed at once where its row is
open. That the transactions passed over are judged eligible before the reservation is made is the model's
choice (log entry 21). The classification of an access under the policies (03 R58, R59, R60): only under
ADAPTIVE does it change the behaviour and the streak. A KEEP bank: a HIT clears the streak, a CONFLICT
raises it by one, up to 7, and at MISS_STREAK the bank is CLOSE with streak 0, an EMPTY leaves it. A CLOSE
bank: a would-hit raises the streak, and at HIT_STREAK the bank is KEEP with streak 0; another row, or no
last row, clears it. The plan of a transaction's DRAM work (08 R139, R143): a read reads every block of its
span in order; a write without merging writes the blocks its masks select; a merge reads the partly selected
ones first. Without a grant ISSUE changes nothing (03 R56, log entry 2). -/
def Obligations.IssueStartsService : Prop :=
  (∀ (s : State) (pos i : Nat) (t : Txn) (b : Bank), grantee s = some pos →
     choice s pos = some (i, t) → bankAt s pos = some b →
     let v := planService i t (s.event + 1)
     let y := otherLink t.link
     ∃ u w, answers .issue s
         (if b.state = .openRow ∧ b.row = rowOf t ∧ v.toRead = [] ∧ v.toWrite = []
           then completeWrite u pos i w else u) ∧
       slotAt u i = some w ∧
       w = { t with state := if isWrite t = true ∧ t.mergeNeeded = true then .merge else .access } ∧
       (∀ j w, j ≠ i → slotAt s j = some w → slotAt u j = some { w with
         bypass := if eligible s w = true ∧ posOf s w = some pos ∧ arrivedBefore s w t = true ∧
           w.bypass < s.settings.rows.bypassLimit then w.bypass + 1 else w.bypass }) ∧
       (∀ j, slotAt s j = none → slotAt u j = none) ∧
       u.table = { s.table with slots := u.table.slots } ∧
       u.sched.banks = s.sched.banks.modify pos (fun b => { classify s b (rowOf t) with
         lastRow := rowOf t, idleTimer := .stopped, serving := some v }) ∧
       openRowList u (rankOf s pos) = (if pos ∈ openRowList s (rankOf s pos)
         then (openRowList s (rankOf s pos)).filter (· ≠ pos) ++ [pos]
         else openRowList s (rankOf s pos)) ∧
       (∀ r, (r = 0 ↔ rankOf s pos ≠ 0) → openRowList u r = openRowList s r) ∧
       u.sched = { s.sched with
         banks := u.sched.banks, openRows0 := u.sched.openRows0, openRows1 := u.sched.openRows1
         lastGranted := pos } ∧
       (isWrite t = false → u.notices = s.notices) ∧
       (isWrite t = true → u.notices = s.notices.set y { targetOf s y with
         queue := ((targetOf s y).queue.map fun e => if e.line ∈ notifiedSet s t
             then { e with claimants := insertSlot s i e.claimants } else e) ++
           (newLines s t).map fun l => ⟨l, .reserved, .stopped, [i], []⟩ }) ∧
       u = { beginEvent s with table := u.table, sched := u.sched, notices := u.notices }) ∧
  (∀ (s : State) (b : Bank) (row : Nat),
     let raised := min 7 (b.streak + 1)
     let adaptive (c : Bank) : Prop := s.settings.rows.policy = .adaptive → classify s b (some row) = c
     (s.settings.rows.policy ≠ .adaptive → classify s b (some row) = b) ∧
     (b.behaviour = .keep →
       (b.state = .openRow → b.row = some row → adaptive { b with streak := 0 }) ∧
       (b.state = .openRow → b.row ≠ some row →
         (raised < s.settings.rows.missStreak → adaptive { b with streak := raised }) ∧
         (s.settings.rows.missStreak ≤ raised → adaptive { b with behaviour := .close, streak := 0 })) ∧
       (b.state ≠ .openRow → adaptive b)) ∧
     (b.behaviour = .close →
       (b.lastRow = some row →
         (raised < s.settings.rows.hitStreak → adaptive { b with streak := raised }) ∧
         (s.settings.rows.hitStreak ≤ raised → adaptive { b with behaviour := .keep, streak := 0 })) ∧
       (b.lastRow ≠ some row → adaptive { b with streak := 0 }))) ∧
  (∀ (i n : Nat) (t : Txn), let v := planService i t n
     v.slot = i ∧ v.issued = n ∧ v.due = 0 ∧ v.got = [] ∧ v.reserved = false ∧ v.wrote = false ∧
     (t.kind = .read ∨ t.kind = .lockRead →
       v.toRead = List.range (t.count.getD 0) ∧ v.toWrite = []) ∧
     (t.kind = .write ∨ t.kind = .lockWrite →
       (t.mergeNeeded = false → v.toRead = [] ∧ v.toWrite =
         ((List.range (t.count.getD 0)).filter fun k => blockUse t k = .full).map fun k =>
           (k, t.data.getD k 0)) ∧
       (t.mergeNeeded = true → v.toWrite = [] ∧ v.toRead =
         (List.range (t.count.getD 0)).filter fun k => blockUse t k = .partialBlock))) ∧
  (∀ s : State, grantee s = none → idles .issue s)

/-- ACTIVATE (03 R49, R51, R52; 08 R138): sent in RUN and QUIESCING for the CLOSED bank of a service that
holds a reservation or finds room, with no command of an earlier issue ready, it opens the row and puts the
bank at the end of its rank's open-row list. The end of an activation (03 R49; 08 R139, R145): the bank is
OPEN; a write that stores no block is performed at once; during a warm reset a service that has not begun to
write ends here. ACTIVATE is not sent, and nothing changes (08 R138; 03 R52, R56; log entry 2), to a bank
that serves nothing, is not CLOSED, or has neither a reservation nor room, outside RUN and QUIESCING, before
a ready command of an earlier issue, and, during a warm reset, for a service that has not begun to write. An
activation ends only at a bank that is ACTIVATING. -/
def Obligations.ActivatesRun : Prop :=
  (∀ (s : State) (pos row : Nat) (b : Bank) (v : Service), bankAt s pos = some b →
     b.serving = some v → b.state = .closed → slotRow s v.slot = some row →
     (s.chan.state = .run ∨ s.chan.state = .quiescing) →
     (warmReset s = true → v.wrote = true) → earlierCommandReady s v.issued = false →
     (v.reserved = true ∨ hasRoom s (rankOf s pos) = true) →
     answers (.activateSent pos) s { beginEvent s with
       sched := { listAtEnd s.sched (rankOf s pos) pos with
         banks := s.sched.banks.modify pos fun b => { b with
           state := .activating
           row := some row
           serving := b.serving.map fun v => { v with reserved := false }
           activatedAt := s.event + 1 } }
       channelOut := [.activate pos row] }) ∧
  (∀ (s : State) (pos : Nat) (b : Bank), bankAt s pos = some b → b.state = .activating →
     let u := { beginEvent s with sched := { s.sched with
       banks := s.sched.banks.modify pos fun b => { b with state := .openRow } } }
     ((∀ v, b.serving = some v → (warmReset s = true → v.wrote = true) ∧
         (v.toRead ≠ [] ∨ v.due ≠ 0 ∨ v.toWrite ≠ [] ∨ b.row ≠ slotRow s v.slot)) →
       answers (.activationComplete pos) s u) ∧
     (warmReset s = false → ∀ v t, b.serving = some v → slotAt s v.slot = some t →
       v.toRead = [] → v.due = 0 → v.toWrite = [] → b.row = slotRow s v.slot →
       answers (.activationComplete pos) s (completeWrite u pos v.slot t)) ∧
     (warmReset s = true → ∀ v, b.serving = some v → v.wrote = false →
       answers (.activationComplete pos) s (releaseBank u pos))) ∧
  (∀ (s : State) (pos : Nat),
     ((∀ b v, bankAt s pos = some b → b.serving = some v →
         b.state ≠ .closed ∨ slotRow s v.slot = none ∨
         (s.chan.state ≠ .run ∧ s.chan.state ≠ .quiescing) ∨
         (v.reserved = false ∧ hasRoom s (rankOf s pos) = false) ∨
         (warmReset s = true ∧ v.wrote = false) ∨ earlierCommandReady s v.issued = true) →
       idles (.activateSent pos) s) ∧
     ((∀ b, bankAt s pos = some b → b.state ≠ .activating) → idles (.activationComplete pos) s))

/-- READ-COLUMN (08 R138, R139, R143): sent on the OPEN row of the service for the next block it is to read,
with no command of an earlier issue ready; its data are due on the data path. WRITE-COLUMN (08 R138 to R140,
R143): sent on the OPEN row of the service once its reads are over and no read data are due, with no command
of an earlier issue ready, it stores the block with new check bits; after the last one the write is
performed. During a warm reset the Transaction Table is not told (09 R162). A column command is not sent,
and nothing changes (08 R138, R143; 03 R56; log entry 2), to a bank that serves nothing or is not OPEN with
the row of its service, before a ready command of an earlier issue, and, during a warm reset, for a service
that has not begun to write; a READ-COLUMN not with every block read, a WRITE-COLUMN not before the reads of
its service are over, while read data are due on the data path, or with every block written. -/
def Obligations.ColumnCommandsAreSent : Prop :=
  (∀ (s : State) (pos k : Nat) (rest : List Nat) (b : Bank) (v : Service) (t : Txn) (l : Location),
     bankAt s pos = some b → b.serving = some v → b.state = .openRow → slotAt s v.slot = some t →
     t.loc = some l → b.row = some l.row → v.toRead = k :: rest →
     (warmReset s = true → v.wrote = true) → earlierCommandReady s v.issued = false →
     exec (.readColumnSent pos) s = .next { beginEvent s with
       sched := { s.sched with banks := s.sched.banks.modify pos fun b => { b with
         serving := some { v with toRead := rest, due := v.due + 1 } } }
       chan := { s.chan with readsDue := s.chan.readsDue ++ [⟨pos, k⟩] }
       channelOut := [.readColumn pos (l.column + k)] }) ∧
  (∀ (s : State) (pos k : Nat) (data : Block) (rest : List (Nat × Block)) (b : Bank) (v : Service)
     (t : Txn) (l : Location), bankAt s pos = some b → b.serving = some v → b.state = .openRow →
     slotAt s v.slot = some t → t.loc = some l → b.row = some l.row → v.toWrite = (k, data) :: rest →
     v.toRead = [] → v.due = 0 → s.chan.readsDue = [] →
     (warmReset s = true → v.wrote = true) → earlierCommandReady s v.issued = false →
     let u := { beginEvent s with
       sched := { s.sched with banks := s.sched.banks.modify pos fun b => { b with
         serving := some { v with toWrite := rest, wrote := true }, writtenAt := s.event + 1 } }
       dram := writeBlock s.dram (blockCell l k) data
       channelOut := [.writeColumn pos (l.column + k) data] }
     (rest ≠ [] → answers (.writeColumnSent pos) s u) ∧
     (rest = [] → warmReset s = false →
       answers (.writeColumnSent pos) s (completeWrite u pos v.slot t)) ∧
     (rest = [] → warmReset s = true → answers (.writeColumnSent pos) s (releaseBank u pos))) ∧
  (∀ (s : State) (pos : Nat),
     let barred (b : Bank) (v : Service) : Prop :=
       b.state ≠ .openRow ∨ b.row ≠ slotRow s v.slot ∨ (warmReset s = true ∧ v.wrote = false) ∨
         earlierCommandReady s v.issued = true
     ((∀ b v, bankAt s pos = some b → b.serving = some v → barred b v ∨ v.toRead = []) →
       idles (.readColumnSent pos) s) ∧
     ((∀ b v, bankAt s pos = some b → b.serving = some v →
         barred b v ∨ v.toRead ≠ [] ∨ v.due ≠ 0 ∨ v.toWrite = [] ∨ s.chan.readsDue ≠ []) →
       idles (.writeColumnSent pos) s))

/-- The data of the READ-COLUMN sent first arrive (08 R138 to R145): the bits found in error join the stored
words, which is how the model lets errors in (log entry 8); the four words are checked in order; the block
is kept with its status. While the service waits for more, that is all. After its last block a read
completes; a merge with an uncorrectable block fails; any other merge goes on to its writes; during a warm
reset the service ends. The bits found in error at an arrival join those a stored word has, and leave every
other word (the model's choice, log entry 8). The words of a POISON block are carried as read, with every
bit in error (08 R142, 01 R21), also those of one bit in error, which R140's table would pass on corrected
(log entry 29); the words of any other block as the check code passes them on (08 R140). With no read data
due on the data path none arrive (08 R138, log entry 2). A service that is given up leaves its bank, which
takes its after-access decision (03 R61). -/
def Obligations.ReadDataArrive : Prop :=
  (∀ (s : State) (e0 e1 e2 e3 : ErrMask) (r : ReadDue) (rest : List ReadDue) (b : Bank) (v : Service)
     (t : Txn) (l : Location), s.chan.readsDue = r :: rest → bankAt s r.pos = some b →
     b.serving = some v → slotAt s v.slot = some t → t.loc = some l →
     let base := blockCell l r.index
     let d := damage s.dram base [e0, e1, e2, e3]
     let checked := takeWords t.link (t.phys.getD 0 + 32 * r.index)
       (if isRead t then .read else .merge) { beginEvent s with dram := d } false (blockClasses d base)
     let got := v.got ++ [(r.index, blockStatusOf (blockClasses d base), blockPassedOn d base)]
     let u (w : Service) : State := { checked with
       chan := { checked.chan with readsDue := rest }
       sched := { s.sched with banks := s.sched.banks.modify r.pos fun b =>
         { b with serving := some w } } }
     let v' := { v with due := v.due - 1, got := got }
     let c : Instr := .readColumnDataArrival e0 e1 e2 e3
     (v.due - 1 ≠ 0 ∨ v.toRead ≠ [] → answers c s (u v')) ∧
     (v.due - 1 = 0 → v.toRead = [] →
       (warmReset s = true → answers c s (releaseBank (u v') r.pos)) ∧
       (warmReset s = false → isRead t = true →
         answers c s (completeRead (u v') r.pos v.slot t got)) ∧
       (warmReset s = false → isRead t = false → (∃ g ∈ got, g.2.1 = .poison) →
         answers c s (failMerge (u v') r.pos v.slot t)) ∧
       (warmReset s = false → isRead t = false → (∀ g ∈ got, g.2.1 ≠ .poison) →
         answers c s { u v' with sched := { s.sched with
           banks := s.sched.banks.modify r.pos fun b =>
             { b with serving := some { v' with toWrite := mergeWrites t got } } } }))) ∧
  (∀ (d : Dram) (base : Nat) (es : List ErrMask), Errors.wf d.errors = true → es.length = 4 →
     (damage d base es).cells = d.cells ∧ (damage d base es).generation = d.generation ∧
     (∀ k < 4, ∀ e, es[k]? = some e →
       errorOf (damage d base es) (base / 8 + k) = errorOf d (base / 8 + k) ||| e) ∧
     (∀ w, w < base / 8 ∨ base / 8 + 4 ≤ w → errorOf (damage d base es) w = errorOf d w) ∧
     ∀ k < 4,
       let word := blockWord (readBlock d base) k
       let found := errorOf d (base / 8 + k)
       (blockClasses d base)[k]? = some (classOfWord word found) ∧
       (.uncorrectable ∈ blockClasses d base → ∀ i < 64,
         (blockWord (blockPassedOn d base) k).getLsbD i = (word.getLsbD i ^^ found.getLsbD i)) ∧
       (.uncorrectable ∉ blockClasses d base →
         blockWord (blockPassedOn d base) k = passedOn word found)) ∧
  ((∀ (s : State) (e0 e1 e2 e3 : ErrMask), s.chan.readsDue = [] →
     idles (.readColumnDataArrival e0 e1 e2 e3) s) ∧
   ∀ (s : State) (pos : Nat), releaseBank s pos = afterAccess (unserved s pos) pos)

/-- The check code (08 R140): a word with no bit in error is clean, one with one bit in error is corrected,
one with two is uncorrectable and passed on as it is stored; a block is POISON with an uncorrectable word,
CORRECTED with a corrected one and none uncorrectable, else OK. The words of a checked block (08 R141, R142;
09 R159): each corrected word is counted, and at CORR_THRESHOLD a CORRECTED alert with the threshold is
raised and the counter returns to 0; the first uncorrectable word of the block raises UNCORRECTABLE with the
link, the block's address and the cause. Raising an alert (09 R159, R160): with fewer than 16 records queued
it joins the queue with the alert clock and the drop count, which returns to 0; with 16 it is dropped and
the count rises, to 255 at most. -/
def Obligations.CheckCodesAndAlerts : Prop :=
  ((∀ (w : Word64) (e : ErrMask),
     (popCount e = 0 → classOfWord w e = .clean ∧ passedOn w e = w) ∧
     (popCount e = 1 → classOfWord w e = .corrected ∧ passedOn w e = w) ∧
     (popCount e = 2 → classOfWord w e = .uncorrectable ∧
       ∀ i < 64, (passedOn w e).getLsbD i = (w.getLsbD i ^^ e.getLsbD i))) ∧
   ∀ classes : List WordClass,
     (blockStatusOf classes = .poison ↔ .uncorrectable ∈ classes) ∧
     (blockStatusOf classes = .corrected ↔ .uncorrectable ∉ classes ∧ .corrected ∈ classes)) ∧
  (∀ (x : Link) (a : Nat) (cause : Cause) (s : State) (p : Bool) (rest : List WordClass),
     takeWords x a cause s p [] = s ∧
     takeWords x a cause s p (.clean :: rest) = takeWords x a cause s p rest ∧
     (s.chan.correctedCount + 1 < s.settings.profile.corrThreshold →
       takeWords x a cause s p (.corrected :: rest) = takeWords x a cause
         { s with chan := { s.chan with correctedCount := s.chan.correctedCount + 1 } } p rest) ∧
     (s.settings.profile.corrThreshold ≤ s.chan.correctedCount + 1 →
       takeWords x a cause s p (.corrected :: rest) = takeWords x a cause
         (raiseAlert { s with chan := { s.chan with correctedCount := 0 } } .corrected none none none
           (some s.settings.profile.corrThreshold)) p rest) ∧
     takeWords x a cause s false (.uncorrectable :: rest) = takeWords x a cause
       (raiseAlert s .uncorrectable (some x) (some a) (some cause) none) true rest ∧
     takeWords x a cause s true (.uncorrectable :: rest) = takeWords x a cause s true rest) ∧
  (∀ (s : State) (k : AlertKind) (x : Option Link) (a : Option Nat) (c : Option Cause)
     (v : Option Nat),
     (s.mgmt.alerts.length < 16 → raiseAlert s k x a c v = { s with mgmt := { s.mgmt with
       alerts := s.mgmt.alerts ++ [⟨k, x, a, c, v, s.mgmt.clock, s.mgmt.dropped, s.event⟩]
       dropped := 0 } }) ∧
     (16 ≤ s.mgmt.alerts.length → raiseAlert s k x a c v = { s with mgmt := { s.mgmt with
       dropped := min 255 (s.mgmt.dropped + 1) } }))

/-- What a merge writes (08 R143): no block that its mask leaves untouched; a fully selected block as the
request gave it; a partly selected block with the request's bytes where the mask selects them and the bytes
read where it does not. What a stored block does to the DRAM (08 R138, R140; file 11), with the list of its
bits in error in canonical form: its 32 cells hold its bytes, byte 0 in the lowest, every other cell holds
what it held, the four words of the block have no bit in error, and every other word's bits in error stand.
What a mask makes of its block (08 R143; 01 R3): a request without masks selects every byte; a mask of no
byte leaves its block untouched, one of every byte selects it fully, any other partly. The cell a block
begins at is the model's numbering of the DRAM's bytes by rank, bank, row, column and byte. -/
def Obligations.MergedAndStoredBlocks : Prop :=
  (∀ (t : Txn) (got : List (Nat × BlockStatus × Block)) (k : Nat) (data : Block),
     (k, data) ∈ mergeWrites t got ↔ k < t.count.getD 0 ∧
       ((blockUse t k = .full ∧ data = t.data.getD k 0) ∨
         (blockUse t k = .partialBlock ∧ ∃ g, (got.find? fun g => g.1 = k) = some g ∧
           ∀ i < 256, data.getLsbD i =
             if ((maskAt t k).getD 0).getLsbD (i / 8) then (t.data.getD k 0).getLsbD i
             else g.2.2.getLsbD i))) ∧
  (∀ (d : Dram) (base : Nat) (data : Block), Errors.wf d.errors = true →
     (∀ k < 32, readCell (writeBlock d base data) (base + k) = data.extractLsb' (8 * k) 8) ∧
     (∀ c, c < base ∨ base + 32 ≤ c → readCell (writeBlock d base data) c = readCell d c) ∧
     readBlock (writeBlock d base data) base = data ∧
     (∀ k < 4, errorOf (writeBlock d base data) (base / 8 + k) = 0) ∧
     (∀ w, w < base / 8 ∨ base / 8 + 4 ≤ w → errorOf (writeBlock d base data) w = errorOf d w) ∧
     (writeBlock d base data).generation = d.generation) ∧
  ((∀ (t : Txn) (k : Nat),
     (t.masks = none → maskAt t k = none ∧ blockUse t k = .full) ∧
     ∀ ms m, t.masks = some ms → ms[k]? = some m → maskAt t k = some m ∧
       (blockUse t k = .untouched ↔ m = 0) ∧ (blockUse t k = .full ↔ ∀ i < 32, m.getLsbD i = true)) ∧
   ∀ (l : Location) (k : Nat),
     blockCell l k = (((l.rank * 8 + l.bank) * 32768 + l.row) * 64 + (l.column + k)) * 32)

/-- A read that completes (01 R17, R24; 05 R90; 06 R109): the bank serves no more; the slot holds the data
and the block statuses and is decided with POISON or OK; the lines it touched leave its link's Recent Line
List; a LOCK-READ's entry becomes HELD with its timer loaded, or, with POISON, is removed; its DRAM work
ends. That the lock entry, the predecessors and the after-access decision come in this order is the model's
choice (log entry 26). The lines a span touches are those that hold one of its blocks (06 R109). -/
def Obligations.ReadsComplete : Prop :=
  (∀ (s : State) (pos i : Nat) (t : Txn) (got : List (Nat × BlockStatus × Block)),
     slotAt s i = some t →
     let st : MemStatus := if (∃ g ∈ got, g.2.1 = .poison) then .poison else .ok
     let u : State := { unserved s pos with
       table := decidedTable s i { t with
         data := got.map fun g => g.2.2, statuses := got.map fun g => g.2.1 } st
       notices := s.notices.set t.link { targetOf s t.link with
         recent := (targetOf s t.link).recent.filter fun l => l ∉ linesTouched t } }
     (ownsNone s i .pending → serviceEnds u (completeRead s pos i t got) pos i) ∧
     (∀ e, ownsEntry s i .pending e →
       (st = .ok → serviceEnds { u with locks := s.locks.map fun f => if f.block = e.block then
         { f with state := .held, owner := none, timer := .running (4 * s.settings.lockLimit) } else f }
           (completeRead s pos i t got) pos i) ∧
       (st = .poison → serviceEnds (removeLock u e.block) (completeRead s pos i t got) pos i))) ∧
  (∀ (t : Txn) (l : Nat), l ∈ linesTouched t ↔
     ∃ p, t.phys = some p ∧ ∃ k < t.count.getD 0, l = (p + 32 * k) / 64 * 64)

/-- A write that is performed (01 R18; 05 R94; 06 R106, R107, R109): the bank serves no more; the entries it
claims come to their notices in queue order, each as NoticesAreSentAndSettled says, and their lines go into
the Recent Line List; a slot that waits on an entry then goes to NOTIFY with its stale flag clear, any other
is decided with OK; a LOCK-WRITE's entry is removed; its DRAM work ends. A merge that fails (01 R18; 05 R94;
06 R108; 08 R144): nothing is stored; it gives up its claims, with the RESERVED entries that no other
claims, and is decided with POISON, its data and masks kept nowhere; the rest as for a performed write. That
the slot, the lock entry, the predecessors and the after-access decision come in this order, and the lines
in queue order, is the model's choice (log entries 26 and 11). -/
def Obligations.WritesArePerformed : Prop :=
  ∀ (s : State) (pos i : Nat) (t : Txn), slotAt s i = some t →
    let y := otherLink t.link
    let ends (u w : State) : Prop :=
      (ownsNone s i .writing → serviceEnds u w pos i) ∧
      (∀ e, ownsEntry s i .writing e → serviceEnds (removeLock u e.block) w pos i)
    let u := performNotices (unserved s pos) i t
    ((∃ e ∈ (targetOf u y).queue, i ∈ e.waiters) → ends { u with table := { s.table with
      slots := s.table.slots.set i (some { t with state := .notify, stale := false }) } }
        (completeWrite s pos i t)) ∧
    ((∀ e ∈ (targetOf u y).queue, i ∉ e.waiters) →
      ends { u with table := decidedTable s i t .ok } (completeWrite s pos i t)) ∧
    ends { unserved s pos with
      table := decidedTable s i { t with data := [], masks := none } .poison
      notices := s.notices.set y { targetOf s y with
        queue := ((targetOf s y).queue.map fun e =>
          { e with claimants := e.claimants.filter fun j => j ≠ i }).filter fun e =>
            ¬ (e.state = .reserved ∧ e.claimants = []) } } (failMerge s pos i t)

/-- PRECHARGE (03 R49 to R52, R56, R57): sent for a close request of an OPEN bank that serves nothing, with
no transaction's command ready and no close PRECHARGE of a lower position, or for the CONFLICT access of a
bank's own service, with no command of an earlier issue ready, which then holds a reservation; the bank
leaves its rank's open-row list. A close PRECHARGE that another command goes before is not sent. That the
PRECHARGE says that its bank's minimum open and write recovery times have passed, and so those that began no
later at other banks, is the model's choice (log entries 1 and 4). The after-access decision (03 R58, R61,
R50): a bank whose row is open closes if a close was requested while it was busy; with KEEP in force it
loads its row idle timer with ROW_IDLE, 0 loading none; with CLOSE in force it stays open only for a choice
that hits the open row. The behaviour in force is KEEP under OPEN, CLOSE under CLOSED and the bank's own
under ADAPTIVE. The end of a precharge (03 R49; 08 R132 step 3, R145), and the row idle timer (03 R62, R50):
the bank is CLOSED, and during a warm reset a service that has not begun to write ends; after the
PRECHARGE-ALLs of a start the refresh rounds begin; the expiry requests the close of its bank. A PRECHARGE
that is neither that of a close nor that of a CONFLICT access whose turn it is, the end of a precharge that
is not in progress, and the expiry of a row idle timer that does not run change nothing (03 R50, R56, R57,
R62; 08 R132, R138; log entry 2). -/
def Obligations.PrechargesRun : Prop :=
  (∀ (s : State) (pos : Nat) (b : Bank), bankAt s pos = some b → b.state = .openRow →
     let known : State := { s with sched := { s.sched with
       openedBy := max s.sched.openedBy b.activatedAt
       writtenBy := max s.sched.writtenBy b.writtenAt } }
     let lower : Prop := ∃ q < pos, ∃ c, bankAt s q = some c ∧ c.state = .openRow ∧
       c.closePending = true ∧ c.serving = none ∧ c.activatedAt ≤ known.sched.openedBy ∧
       c.writtenAt ≤ known.sched.writtenBy
     (b.closePending = true → b.serving = none → anyCommandReady known = true ∨ lower →
       exec (.prechargeSent pos) s = .next s) ∧
     ((b.closePending = true ∧ b.serving = none ∧ anyCommandReady known = false ∧ ¬ lower) ∨
       (∃ v, b.serving = some v ∧ b.row ≠ slotRow s v.slot ∧
         (warmReset s = true → v.wrote = true) ∧ earlierCommandReady known v.issued = false) →
     answers (.prechargeSent pos) s { beginEvent s with
       sched := { listWithout known.sched (rankOf s pos) pos with
         banks := s.sched.banks.modify pos fun b => { b with
           state := .precharging
           row := none
           closePending := false
           idleTimer := .stopped
           serving := b.serving.map fun v => { v with reserved := true } } }
       channelOut := [.precharge pos] })) ∧
  ((∀ (s : State) (b : Bank),
      (s.settings.rows.policy = .opened → behaviourOf s b = .keep) ∧
      (s.settings.rows.policy = .closed → behaviourOf s b = .close) ∧
      (s.settings.rows.policy = .adaptive → behaviourOf s b = b.behaviour)) ∧
   (∀ (s : State) (pos : Nat) (b : Bank), bankAt s pos = some b → b.serving = none →
      let becomes (c : Bank) : Prop := afterAccess s pos = { s with
        sched := { s.sched with banks := s.sched.banks.set pos c } }
      (b.state ≠ .openRow → becomes { b with closeAfter := false }) ∧
      (b.state = .openRow →
        (b.closeAfter = true → becomes { b with closeAfter := false, closePending := true }) ∧
        (b.closeAfter = false →
          (behaviourOf s b = .keep → becomes { b with
            idleTimer := if s.settings.rows.rowIdle = 0 then b.idleTimer
              else .running s.settings.rows.rowIdle }) ∧
          (behaviourOf s b = .close →
            ((∃ j t, choice s pos = some (j, t) ∧ rowOf t = b.row) → becomes b) ∧
            ((∀ j t, choice s pos = some (j, t) → rowOf t ≠ b.row) →
              becomes { b with closePending := true })))))) ∧
  (∀ s : State,
     (∀ pos b, bankAt s pos = some b → b.state = .precharging →
       let u := { beginEvent s with sched := { s.sched with
         banks := s.sched.banks.modify pos fun b => { b with state := .closed } } }
       ((∀ v, b.serving = some v → warmReset s = true → v.wrote = true) →
         answers (.prechargeComplete (.bank pos)) s u) ∧
       (∀ v, b.serving = some v → warmReset s = true → v.wrote = false →
         answers (.prechargeComplete (.bank pos)) s (releaseBank u pos))) ∧
     (s.chan.startPhase = .precharging → warmReset s = false →
       exec (.prechargeComplete .start) s = .next { beginEvent s with
         chan := { s.chan with startPhase := .refreshing 0 [] } }) ∧
     (∀ pos b n, bankAt s pos = some b → b.idleTimer = .running n →
       answers (.rowIdleTimerExpiry pos) s { beginEvent s with sched := { s.sched with
         openedBy := max s.sched.openedBy b.activatedAt
         writtenBy := max s.sched.writtenBy b.writtenAt
         banks := s.sched.banks.modify pos fun b => { b with
           idleTimer := .stopped
           closeAfter := b.closeAfter || b.serving.isSome
           closePending := b.closePending || (b.serving.isNone && decide (b.state = .openRow)) } } })) ∧
  (∀ (s : State) (pos : Nat),
     (let known (b : Bank) : State := { s with sched := { s.sched with
        openedBy := max s.sched.openedBy b.activatedAt
        writtenBy := max s.sched.writtenBy b.writtenAt } }
      (∀ b, bankAt s pos = some b → b.state ≠ .openRow ∨
          ((b.serving = none → b.closePending = false) ∧
           ∀ v, b.serving = some v → b.row = slotRow s v.slot ∨
             (warmReset s = true ∧ v.wrote = false) ∨
             earlierCommandReady (known b) v.issued = true)) →
        idles (.prechargeSent pos) s) ∧
     ((∀ b, bankAt s pos = some b → b.state ≠ .precharging) →
       idles (.prechargeComplete (.bank pos)) s) ∧
     (s.chan.startPhase ≠ .precharging ∨ warmReset s = true → idles (.prechargeComplete .start) s) ∧
     ((∀ b, bankAt s pos = some b → ∀ n, b.idleTimer ≠ .running n) → idles (.rowIdleTimerExpiry pos) s))

/-! ## Refresh (chapter 7) -/

/-- The refresh commands (07 R125, R126; 03 R49; 08 R132): the ranks of a round are sent REFRESH one after
the other, in a start sequence and in an episode whose rank's banks are CLOSED, which are then REFRESHING;
when the refresh time of a rank has passed its banks are CLOSED with last row absent. When that completes a
round, the debt falls by one; at 0, or, in an opportunistic episode, with a transaction eligible, the
episode ends and the tenure timers go on; else the next round begins. It is the model's choice that no rank
gap is counted before a REFRESH of rank 1 (log entry 4), and that the end of a round sends nothing: the next
round is begun by its first REFRESH, a command of its own (log entry 20); between rounds the round field is
empty and without a time (log entry 33). A REFRESH that is not the next of a round of the start sequence or
of an episode, or that a bank of its rank that is not CLOSED, a ready command or a ready close holds back,
and the end of a refresh at a rank of which no bank is REFRESHING change nothing (07 R125; 03 R56; 08 R132,
R138; log entry 2). Every bank of a rank is CLOSED, or every bank, where the records say so. -/
def Obligations.RefreshRounds : Prop :=
  (∀ (s : State) (rank : Nat),
     (∀ done sent, s.chan.startPhase = .refreshing done sent → warmReset s = false →
       rank = sent.length → rank < s.settings.geometry.ranks →
       exec (.refreshCommandSent rank) s = .next { beginEvent s with
         chan := { s.chan with startPhase := .refreshing done (sent ++ [rank]) }
         channelOut := [.refresh rank] }) ∧
     (∀ k, startRefreshNext s rank = false → s.refresh.episode = .holds k .refreshing →
       warmReset s = false → rank = s.refresh.sent.length → rank < s.settings.geometry.ranks →
       rankClosed s rank = true → anyCommandReady s = false → anyCloseDue s = false →
       ∃ u, exec (.refreshCommandSent rank) s = .next u ∧
         (∀ p, bankAt u p = (bankAt s p).map fun b =>
           if rankOf s p = rank then { b with state := .refreshing } else b) ∧
         u = { beginEvent s with
           sched := { s.sched with banks := u.sched.banks }
           refresh := { s.refresh with
             sent := s.refresh.sent ++ [rank], sentAt := some (s.event + 1) }
           channelOut := [.refresh rank] }) ∧
     (∀ p b, bankAt s p = some b → b.state = .refreshing → rankOf s p = rank →
       ∃ v : State, (∀ q, bankAt v q = (bankAt s q).map fun b =>
           if rankOf s q = rank ∧ b.state = .refreshing
             then { b with state := .closed, lastRow := none } else b) ∧
         v = { beginEvent s with sched := { s.sched with banks := v.sched.banks } } ∧
         ((∀ k, s.refresh.episode ≠ .holds k .refreshing) ∨
           (∃ r < s.settings.geometry.ranks, r ∉ s.refresh.sent) ∨ allClosed v = false →
           answers (.refreshComplete rank) s v) ∧
         ∀ k, s.refresh.episode = .holds k .refreshing →
           (∀ r < s.settings.geometry.ranks, r ∈ s.refresh.sent) → allClosed v = true →
           let w := { v with refresh := { s.refresh with
             debt := s.refresh.debt - 1, sent := [], sentAt := none } }
           (s.refresh.debt - 1 ≠ 0 ∧ (k = .forced ∨ anyEligible w = false) →
             answers (.refreshComplete rank) s w) ∧
           (s.refresh.debt - 1 = 0 ∨ (k = .opportunistic ∧ anyEligible w = true) →
             answers (.refreshComplete rank) s { w with
               refresh := { w.refresh with episode := .none }
               tenure := { s.tenure with
                 quantum := resumeTimer s.tenure.quantum, idle := resumeIdle s.tenure.idle } }))) ∧
  (∀ (s : State) (rank : Nat),
     (let next (sent : List Nat) : Prop :=
        warmReset s = false ∧ rank = sent.length ∧ rank < s.settings.geometry.ranks
      (∀ done sent, s.chan.startPhase = .refreshing done sent → ¬ next sent) →
      ((∀ k, s.refresh.episode ≠ .holds k .refreshing) ∨ ¬ next s.refresh.sent ∨
        rankClosed s rank = false ∨ anyCommandReady s = true ∨ anyCloseDue s = true) →
      idles (.refreshCommandSent rank) s) ∧
     ((∀ p b, bankAt s p = some b → rankOf s p = rank → b.state ≠ .refreshing) →
       idles (.refreshComplete rank) s) ∧
     (rankClosed s rank = true ↔ ∀ p b, bankAt s p = some b → rankOf s p = rank → b.state = .closed) ∧
     (allClosed s = true ↔ ∀ p b, bankAt s p = some b → b.state = .closed))

/-- The debt (07 R119 to R121): the refresh timer of INTERNAL mode adds GROUP and is loaded with its period;
the cue monitor of LINKED mode is loaded with twice the period, and forgets a cue seen or, with none, raises
CUE_MISSING and adds GROUP; a cue adds GROUP in RUN, QUIESCING and RESUMING, from CUE_LINK alone, and
another link's cue in LINKED mode raises PROTOCOL. An addition (07 R119) and the forced episode it may begin
(07 R124; 04 R79; 03 R50): the debt never passes 8, and what is lost is reported; with the debt at
FORCE_LEVEL in RUN or QUIESCING an opportunistic episode is forced from then on, and with none a forced one
begins, WAITING while anything is in ACCESS or MERGE and else CLOSING, with the tenure timers paused and the
close of every bank requested. An opportunistic episode begins the same way, in CLOSING (07 R123). The
refresh timer expires while it runs and in its own mode; else REFRESH_TIMER_EXPIRY and CUE_MONITOR_EXPIRY
change nothing (07 R120, R121; log entry 2). The period of the mode in force is GROUP × REFI in INTERNAL
mode and twice that in LINKED mode. A timer that is paused keeps its count and resumes from it (04 R79). -/
def Obligations.DebtAndEpisodes : Prop :=
  (∀ s : State,
     (∀ n, s.refresh.timer = .running n → s.settings.refresh.mode = .internal →
       answers .refreshTimerExpiry s (addDebt { beginEvent s with refresh := { s.refresh with
         timer := .running (s.settings.refresh.group * s.settings.refresh.refi) } })) ∧
     (∀ n, s.refresh.timer = .running n → s.settings.refresh.mode = .linked →
       let monitor : Timer := .running (2 * s.settings.refresh.group * s.settings.refresh.refi)
       (s.refresh.cueSeen = true → exec .cueMonitorExpiry s = .next { beginEvent s with
         refresh := { s.refresh with timer := monitor, cueSeen := false } }) ∧
       (s.refresh.cueSeen = false → answers .cueMonitorExpiry s (addDebt (raiseAlert
         { beginEvent s with refresh := { s.refresh with timer := monitor } }
         .cueMissing (some s.settings.refresh.cueLink) none none none)))) ∧
     (∀ x seq, accepts s x seq →
       (s.settings.refresh.mode = .internal →
         exec (.refreshCue x seq) s = .next (accepted s x)) ∧
       (s.settings.refresh.mode = .linked → x ≠ s.settings.refresh.cueLink →
         exec (.refreshCue x seq) s = .next (raiseAlert (accepted s x) .protocol (some x) none
           (some .wrongCue) none)) ∧
       (s.settings.refresh.mode = .linked → x = s.settings.refresh.cueLink →
         (s.chan.state = .run ∨ s.chan.state = .quiescing ∨ s.chan.state = .resuming →
           answers (.refreshCue x seq) s (addDebt { accepted s x with
             refresh := { s.refresh with cueSeen := true } })) ∧
         (s.chan.state = .init ∨ s.chan.state = .starting ∨ s.chan.state = .quiesced →
           exec (.refreshCue x seq) s = .next (accepted s x))))) ∧
  (∀ s : State,
     let total := s.refresh.debt + s.settings.refresh.group
     let raised := { s with refresh := { s.refresh with debt := min 8 total } }
     let begins (u : State) (k : EpisodeKind) (p : Progress) : Prop :=
       (∀ pos, bankAt u pos = (bankAt s pos).map fun b =>
         if b.serving.isSome then { b with closeAfter := true }
         else if b.state = .openRow then { b with closePending := true }
         else b) ∧
       u = { s with
         refresh := { s.refresh with episode := .holds k p }
         tenure := { s.tenure with
           quantum := pauseTimer s.tenure.quantum, idle := pauseIdle s.tenure.idle }
         sched := { s.sched with banks := u.sched.banks } }
     (total ≤ 8 → addDebt s = forceTest raised) ∧
     (8 < total → addDebt s = forceTest (raiseAlert raised .refreshOverrun none none none
       (some (total - 8)))) ∧
     ((s.chan.state ≠ .run ∧ s.chan.state ≠ .quiescing) ∨
         s.refresh.debt < s.settings.refresh.forceLevel ∨ (∃ p, s.refresh.episode = .holds .forced p) →
       forceTest s = s) ∧
     (s.chan.state = .run ∨ s.chan.state = .quiescing →
       s.settings.refresh.forceLevel ≤ s.refresh.debt →
       (∀ p, s.refresh.episode = .holds .opportunistic p →
         forceTest s = { s with refresh := { s.refresh with episode := .holds .forced p } }) ∧
       (s.refresh.episode = .none →
         begins (forceTest s) .forced (if anyInFlight s then .waiting else .closing))) ∧
     begins (beginOpportunistic s) .opportunistic .closing) ∧
  ((∀ s : State,
     ((∀ n, s.refresh.timer ≠ .running n) ∨ s.settings.refresh.mode = .linked →
       idles .refreshTimerExpiry s) ∧
     ((∀ n, s.refresh.timer ≠ .running n) ∨ s.settings.refresh.mode = .internal →
       idles .cueMonitorExpiry s) ∧
     (s.settings.refresh.mode = .internal →
       refreshPeriod s = s.settings.refresh.group * s.settings.refresh.refi) ∧
     (s.settings.refresh.mode = .linked →
       refreshPeriod s = 2 * s.settings.refresh.group * s.settings.refresh.refi)) ∧
   ∀ n : Nat,
     pauseTimer (.running n) = .paused n ∧ pauseTimer (.paused n) = .paused n ∧
     pauseTimer .stopped = .stopped ∧ resumeTimer (.paused n) = .running n ∧
     resumeTimer (.running n) = .running n ∧ resumeTimer .stopped = .stopped ∧
     pauseIdle (.running n) = .paused n ∧ pauseIdle (.paused n) = .paused n ∧
     pauseIdle .stopped = .stopped ∧ pauseIdle .lapsed = .lapsed ∧
     resumeIdle (.paused n) = .running n ∧ resumeIdle (.running n) = .running n ∧
     resumeIdle .stopped = .stopped ∧ resumeIdle .lapsed = .lapsed)

/-- The entry to self-refresh (08 R134; 03 R66; 05 R99; 04 R83; 07 R127): with nothing QUEUED, ACCESS or
MERGE, every bank CLOSED, no debt and no episode, a QUIESCING channel sends SR-ENTER to each installed rank
and is QUIESCED; the lists of open rows are empty, the last rows absent and the row timers stopped; every
lock entry is removed with LOCK_BROKEN; there is no holder of tenure; the refresh timer is stopped; the
quiesce is answered OK. The entry to self-refresh of a warm reset taken in RUN or QUIESCING (08 R145; 03
R66): each installed rank whose banks are all CLOSED is sent SR-ENTER once; when all have been sent it, with
every bank CLOSED, the ranks are asleep, the lists of open rows are empty, the last rows absent, the row
timers stopped and no close is pending; the refresh timer is stopped, cue-seen becomes no and the debt is 0
(07 R120, R127). This is once: with every installed rank asleep already nothing but SR-ENTER is done. That
the channel's state is left to the reset point is the model's choice (log entry 32). At every other event
nothing enters self-refresh. -/
def Obligations.SelfRefreshEntry : Prop :=
  (∀ s t : State, selfRefreshReady s = true → t = settle s →
     t.chan.state = .quiesced ∧
     (∀ r, r < 2 → (r ∈ t.chan.sleeping ↔ r ∈ s.chan.sleeping ∨ r < s.settings.geometry.ranks)) ∧
     t.channelOut = s.channelOut ++
       (List.range s.settings.geometry.ranks).map DramCommand.srEnter ∧
     t.sched.openRows0 = [] ∧ t.sched.openRows1 = [] ∧
     (∀ pos, bankAt t pos = (bankAt s pos).map fun b => { b with
       idleTimer := .stopped, closePending := false, closeAfter := false, lastRow := none }) ∧
     t.locks = [] ∧ t.tenure = ⟨none, none, .stopped, .stopped, .no, false⟩ ∧
     t.refresh = { s.refresh with timer := .stopped, cueSeen := false } ∧
     (∀ u, u = s.locks.foldl (fun u e =>
         raiseAlert u .lockBroken (some e.holder) (some e.block) (some .quiesce) none) s →
       t.mgmt.alerts = u.mgmt.alerts ∧ t.mgmt.dropped = u.mgmt.dropped) ∧
     (∀ x before e after, s.mgmt.longOp = some (.quiesce, x) →
       s.mgmt.replies.get x = before ++ e :: after →
       (∀ d ∈ before, ¬ (d.kind = .channelQuiesce ∧ d.status = none)) →
       e.kind = .channelQuiesce → e.status = none →
       t.mgmt.longOp = none ∧ t.mgmt.replies.get x = before ++ { e with
         status := some .ok, value := .none, readySince := s.event } :: after)) ∧
  (∀ s t : State, t = settleSleep s →
     let ranks := List.range s.settings.geometry.ranks
     let serves : Prop := s.chan.state = .run ∨ s.chan.state = .quiescing
     (selfRefreshReady s = true ↔ s.chan.state = .quiescing ∧ s.chan.warm = none ∧
       anyOnPath s = false ∧ allClosed s = true ∧ s.refresh.debt = 0 ∧ s.refresh.episode = .none) ∧
     (selfRefreshReady s = false → s.chan.warm = none ∨ ¬ serves → t = s) ∧
     ∀ sent, s.chan.warm = some sent → serves →
       let now := ranks.filter fun r => !sent.contains r && rankClosed s r
       let done : Prop := (∃ r ∈ ranks, r ∉ s.chan.sleeping) ∧
         ∀ r ∈ ranks, r ∈ sent ++ now ∧ rankClosed s r = true
       let sends : State := { s with
         channelOut := s.channelOut ++ now.map DramCommand.srEnter
         chan := { s.chan with warm := some (sent ++ now) } }
       (¬ done → t = sends) ∧
       (done →
         (∀ r, r < 2 → (r ∈ t.chan.sleeping ↔ r ∈ s.chan.sleeping ∨ r ∈ sent ++ now)) ∧
         t = { sends with
           chan := { sends.chan with sleeping := t.chan.sleeping }
           refresh := { s.refresh with timer := .stopped, cueSeen := false, debt := 0 }
           sched := { s.sched with
             openRows0 := [], openRows1 := []
             banks := s.sched.banks.map fun b => { b with
               idleTimer := .stopped, closePending := false, closeAfter := false
               lastRow := none } } }))

/-! ## Notices, locks and timers (chapters 2, 4, 5, 6, 9) -/

/-- NOTICE-ACK and the notice timer (06 R110, R111, R113; 01 R19, R24): a number no SENT entry of the link
holds raises PROTOCOL; else the waiters of the entry drop their waits on it, in order, those with no other
wait go from NOTIFY to REPLY with OK, or STALE_NOTICE once a wait of theirs has timed out, or are freed as
orphans; and the entry is removed, or, with claimants, is RESERVED again. At a timeout the line also leaves
the Recent Line List and NOTICE_TIMEOUT is raised. A NOTICE-ACK whose number no SENT entry of its link's
queue holds (06 R110; 09 R159). Which lines need notices, and which of them need a new entry (06 R103 to
R105). The notices of a performed write (06 R106, R107, R109), entry by entry in queue order: the write is a
claimant no more but a waiter; an entry that is SENT stays so; one that is RESERVED is SENT with the first
number from the target's counter on that no SENT entry holds, the link address of its line and its timer
loaded, the counter goes to the next number, and the Link Controller is handed the NOTICE. A line goes to
the end of the Recent Line List, from which the oldest goes if there were 8 others. Claimants and waiters
stand in order of arrival, each once. That the lines of one event come in queue order is the model's choice
(log entry 11). The reverse lookup of a line (06 R104): the valid window of lowest index that serves the
link and whose physical range contains the line gives its link address; with none there is none. The region
of a physical address is the one whose rights govern it (02 R31). A notice timer expires at a SENT entry
whose timer runs; for any other number nothing changes (06 R111, log entry 2). -/
def Obligations.NoticesAreSentAndSettled : Prop :=
  (∀ (s : State) (y : Link) (number : Byte) (before after : List NoticeEntry) (e : NoticeEntry)
     (a : LinkAddr), noticeLaw s → (targetOf s y).queue = before ++ e :: after →
     e.state = .sent number a →
     let others (i : Nat) : Prop := ∃ d ∈ before ++ after, i ∈ d.waiters
     let gone (s t : State) (late : Bool) : Prop :=
       (targetOf t y).queue = before ++ (if e.claimants = [] then [] else
         [{ e with state := .reserved, timer := .stopped, waiters := [] }]) ++ after ∧
       (∀ i u, slotAt s i = some u →
         let u' := { u with stale := late || u.stale }
         (i ∉ e.waiters → slotAt t i = some u) ∧
         (i ∈ e.waiters → others i → slotAt t i = some u') ∧
         (i ∈ e.waiters → ¬ others i → u.orphan = true → slotAt t i = none) ∧
         (i ∈ e.waiters → ¬ others i → u.orphan = false → slotAt t i = some { u' with
           state := .reply
           status := some (if late || u.stale then .staleNotice else .ok)
           replySince := s.event })) ∧
       (∀ i, slotAt s i = none → slotAt t i = none) ∧
       (∀ z, ∃ l : List Nat, t.table.responses.get z = s.table.responses.get z ++ l ∧
         l.Sublist e.waiters ∧ ∀ i, i ∈ l ↔ i ∈ e.waiters ∧ ¬ others i ∧
           ∃ u, slotAt s i = some u ∧ u.orphan = false ∧ u.link = z) ∧
       t = { s with
         table := { s.table with slots := t.table.slots, responses := t.table.responses }
         notices := s.notices.set y { targetOf s y with
           queue := (targetOf t y).queue, recent := (targetOf t y).recent }
         mgmt := t.mgmt }
     (∀ seq, accepts s y seq → ∃ t, answers (.noticeAck y seq number) s t ∧
       gone (accepted s y) t false ∧ (targetOf t y).recent = (targetOf s y).recent ∧
       t.mgmt = s.mgmt) ∧
     (∀ n, e.timer = .running n → ∃ t, answers (.noticeTimerExpiry y number) s t ∧
       gone (beginEvent s) t true ∧
       (targetOf t y).recent = (targetOf s y).recent.filter (fun l => l ≠ e.line) ∧
       t.mgmt = (raiseAlert (beginEvent s) .noticeTimeout (some y) (some e.line) none
         (some number.toNat)).mgmt)) ∧
  (∀ (s : State) (x : Link) (seq number : Byte), accepts s x seq →
     (∀ e ∈ (targetOf s x).queue, ∀ a, e.state ≠ .sent number a) →
     exec (.noticeAck x seq number) s = .next (raiseAlert (accepted s x) .protocol (some x) none
       (some .unknownAck) (some number.toNat))) ∧
  (∀ (s : State) (t : Txn) (l : Nat),
     (l ∈ notifiedSet s t ↔
       (t.kind = .write ∨ t.kind = .lockWrite) ∧
       (∃ p, t.phys = some p ∧ (regionOf s.xlate.active p).notify = true ∧
         ∃ k < t.count.getD 0, blockUse t k ≠ .untouched ∧ l = (p + 32 * k) / 64 * 64) ∧
       s.settings.notices.caching.get (otherLink t.link) = true ∧
       inService s (otherLink t.link) = true ∧
       ∃ a, reverseLookup s.xlate.active (otherLink t.link) l = some a) ∧
     (l ∈ newLines s t ↔ l ∈ notifiedSet s t ∧
       (∀ e ∈ (targetOf s (otherLink t.link)).queue, e.line ≠ l) ∧
       (s.settings.notices.filter = true →
         l ∉ (targetOf s (otherLink t.link)).recent))) ∧
  ((∀ (s : State) (i : Nat) (t : Txn), ∃ u : State,
      let y := otherLink t.link
      let claimed := (targetOf s y).queue.filter fun e => i ∈ e.claimants
      u = (claimed.map fun e => e.line).foldl (performEntry y i) s ∧
      performNotices s i t = { u with notices := u.notices.set y { targetOf u y with
        recent := (claimed.map fun e => e.line).foldl placeRecent (targetOf u y).recent } }) ∧
   (∀ (s : State) (y : Link) (i : Nat) (before after : List NoticeEntry) (e : NoticeEntry), noticeLaw s →
      (targetOf s y).queue = before ++ e :: after →
      let waiting : NoticeEntry := { e with
        claimants := e.claimants.filter fun j => j ≠ i, waiters := insertSlot s i e.waiters }
      let taken (k : Byte) : Prop := ∃ d ∈ before ++ after, ∃ a, d.state = .sent k a
      (∀ k a, e.state = .sent k a → performEntry y i s e.line = { s with
        notices := s.notices.set y { targetOf s y with queue := before ++ waiting :: after } }) ∧
      (e.state = .reserved → ∃ k n addr, n < 16 ∧ k = (targetOf s y).counter + BitVec.ofNat 8 n ∧
        ¬ taken k ∧ (∀ m < n, taken ((targetOf s y).counter + BitVec.ofNat 8 m)) ∧
        (∀ a, reverseLookup s.xlate.active y e.line = some a → addr = a) ∧
        performEntry y i s e.line = { s with
          notices := s.notices.set y { targetOf s y with
            queue := before ++ { waiting with
              state := .sent k addr, timer := .running (4 * s.settings.notices.limit) } :: after
            counter := k + 1 }
          links := s.links.set y { linkOf s y with
            notices := (linkOf s y).notices ++ [⟨k, addr, s.event⟩] } })) ∧
   (∀ (recent : List Nat) (line : Nat),
      let others := recent.filter fun l => l ≠ line
      (others.length < 8 → placeRecent recent line = others ++ [line]) ∧
      (8 ≤ others.length → placeRecent recent line = others.drop 1 ++ [line])) ∧
   (∀ (s : State) (i : Nat) (l : List Nat) (t : Txn), slotAt s i = some t →
      (i ∈ l → insertSlot s i l = l) ∧
      (i ∉ l → ∃ a b, l = a ++ b ∧ insertSlot s i l = a ++ i :: b ∧
        (∀ j ∈ a, ∀ u, slotAt s j = some u → arrivedBefore s t u = false) ∧
        (∀ j, b.head? = some j → ∃ u, slotAt s j = some u ∧ arrivedBefore s t u = true)))) ∧
  ((∀ (t : TableSet) (y : Link) (l : Nat),
     let maps (w : Window) : Prop := w.valid = true ∧
       (w.links = .both ∨ (w.links = .a ∧ y = .a) ∨ (w.links = .b ∧ y = .b)) ∧
       w.physBase.toNat ≤ l ∧ l < w.physBase.toNat + 65536 * 2 ^ w.sizeCode
     ((∀ w ∈ t.windows, ¬ maps w) → reverseLookup t y l = none) ∧
     ∀ (k : Nat) (w : Window), t.windows[k]? = some w → maps w →
       (∀ j < k, ∀ v : Window, t.windows[j]? = some v → ¬ maps v) →
       reverseLookup t y l = some (BitVec.ofNat 40 (w.linkBase.toNat + (l - w.physBase.toNat)))) ∧
   (∀ (t : TableSet) (p : Nat), rightsGoverning t p (regionOf t p)) ∧
   ∀ (s : State) (y : Link) (number : Byte),
     (∀ e ∈ (targetOf s y).queue, ∀ a n, e.state = .sent number a → e.timer ≠ .running n) →
     idles (.noticeTimerExpiry y number) s)

/-- The hold timer (05 R96) and the removal of an entry (05 R92): LOCK_BROKEN is raised and the entry goes;
its waiters are examined again in order of arrival: one that the other link's entry in its span still blocks
waits on that one; a LOCK-READ waits on its block's new entry, or, while its link has two, on the older of
them, or takes a free entry in PENDING; the others reach their ordering points. A waiter of a removed entry
(05 R92). The entry that blocks a transaction (05 R91) is the one of lowest block address among those of the
other link whose block lies in its span; with none it is not blocked. The entry on a block, and the entries
a link holds in the order of the table (05 R87). The hold timer expires at a HELD entry whose timer runs;
for any other block nothing changes (05 R96, log entry 2). -/
def Obligations.LockEntriesAreRemoved : Prop :=
  (∀ (s : State) (before after : List LockEntry) (e : LockEntry) (n : Nat),
     s.locks = before ++ e :: after → lockLaw s →
     (e.state = .held → e.timer = .running n → answers (.lockHoldExpiry e.block) s (removeLock
       (raiseAlert (beginEvent s) .lockBroken (some e.holder) (some e.block) (some .expiry) none)
       e.block)) ∧
     removeLock s e.block = ((waitList s e.block).map fun p => p.1).foldl reexamineWaiter
       { s with locks := before ++ after } ∧
     (∀ i t, (i, t) ∈ waitList s e.block ↔ slotAt s i = some t ∧ t.lockWait = some e.block) ∧
     (waitList s e.block).Pairwise (fun p q => arrivedBefore s q.2 p.2 = false)) ∧
  (∀ (s : State) (i : Nat) (t : Txn), slotAt s i = some t →
     let waits (b : Nat) : State := { s with table := { s.table with
       slots := s.table.slots.set i (some { t with lockWait := some b }) } }
     let queued : TxnTable := { s.table with
       slots := s.table.slots.set i (some { t with
         transNo := some s.table.transCounter
         pred := choosePred s i { t with transNo := none }
         lockWait := none })
       transCounter := s.table.transCounter + 1 }
     (t.kind ≠ .lockRead →
       (∀ b, blockingEntry s t = some b → reexamineWaiter s i = waits b) ∧
       (blockingEntry s t = none → reexamineWaiter s i = { s with table := queued })) ∧
     (∀ p, t.kind = .lockRead → t.phys = some p → t.count = some 1 →
       (∀ e, lockOn s p = some e → reexamineWaiter s i = waits p) ∧
       (lockOn s p = none → ∀ older d rest, locksOf s t.link = older :: d :: rest →
         reexamineWaiter s i = waits older.block) ∧
       (lockOn s p = none → (locksOf s t.link).length < 2 → reexamineWaiter s i = { s with
         locks := s.locks ++ [⟨t.link, p, .pending, some i, .stopped⟩], table := queued }))) ∧
  ((∀ (s : State) (t : Txn),
     let blocks (e : LockEntry) : Prop := e ∈ s.locks ∧ e.holder ≠ t.link ∧
       ∃ p, t.phys = some p ∧ ∃ k < t.count.getD 0, e.block = p + 32 * k
     (blockingEntry s t = none ↔ ∀ e, ¬ blocks e) ∧
     ∀ b, blockingEntry s t = some b →
       (∃ e, blocks e ∧ e.block = b) ∧ ∀ e, blocks e → b ≤ e.block) ∧
   ∀ (s : State) (block : Nat),
     (lockOn s block = none ↔ ∀ e ∈ s.locks, e.block ≠ block) ∧
     (∀ e, lockOn s block = some e → e ∈ s.locks ∧ e.block = block) ∧
     (∀ x, locksOf s x = s.locks.filter fun e => decide (e.holder = x)) ∧
     ((∀ e ∈ s.locks, e.block = block → e.state = .held → ∀ n, e.timer ≠ .running n) →
       idles (.lockHoldExpiry block) s))

/-- The tenure timers (04 R72, R74): at the quantum's expiry the phase is OPEN; at the idle timer's, with
waiting work of the other link, hand-over is due to it and the idle condition is judged under the narrowed
gate, and without it the idle timer has lapsed. That setting hand-over due stops the idle timer and judges
the condition again without a load of the timer is the model's choice (log entry 10). The idle condition and
what it does (04 R73): the holder is idle while it has nothing eligible and nothing in ACCESS or MERGE; at
the beginning of the condition the idle timer is loaded with the limit, or stopped with a limit of 0, and
paused at once while an episode holds the channel; at its end it is stopped. Hand-over due (04 R72, R74,
R76, R82): waiting work of the other link that meets phase OPEN or a lapsed idle timer sets it, and stops
the idle timer; with no waiting work left there, it is cleared, the phase and the quantum timer stand, and
the idle timer is loaded at once if the holder is idle and stopped if not. The model's choice (log entry
10): the end of the condition stops a paused timer too, and the setting of hand-over due stops the timer and
judges the condition again without a load. The commit timer (02 R42, R37) and the lease (09 R152, R153): the
commit is abandoned, ACTIVE and the epoch stand, a revert held for its end is made, and its reply is
COMMIT_TIMEOUT with the epoch; the claim becomes FREE, SHADOW is reverted at once or, while a commit drains,
at its end, and LEASE_EXPIRED names the link that held it. The expiry of a quantum, idle, commit or lease
timer that does not run, or runs for no holder, no draining commit or no claim, changes nothing (04 R72,
R74; 02 R42; 09 R152; log entry 2). -/
def Obligations.TenureCommitAndLeaseTimers : Prop :=
  (∀ (s : State) (x : Link) (n : Nat), s.tenure.holder = some x →
     (s.tenure.quantum = .running n → answers .quantumTimerExpiry s { beginEvent s with
       tenure := { s.tenure with quantum := .stopped, phase := some .opened } }) ∧
     (s.tenure.idle = .running n → hasWaitingWork s (otherLink x) = false →
       answers .idleTimerExpiry s { beginEvent s with tenure := { s.tenure with idle := .lapsed } }) ∧
     (s.tenure.idle = .running n → hasWaitingWork s (otherLink x) = true → s.tenure.due = .no →
       let due := { s.tenure with due := .toLink (otherLink x), idle := .stopped }
       answers .idleTimerExpiry s { beginEvent s with
         tenure := { due with idleNow := holderIdle { s with tenure := due } x } })) ∧
  (∀ (s : State) (x : Link),
     (holderIdle s x = true ↔ ∀ i t, slotAt s i = some t → t.link = x →
       eligible s t = false ∧ t.state ≠ .access ∧ t.state ≠ .merge) ∧
     let begun (u : State) : IdleTimer := if u.settings.tenure.idleLimit.get x = 0 then .stopped
       else if u.refresh.episode = .none then .running (u.settings.tenure.idleLimit.get x)
       else .paused (u.settings.tenure.idleLimit.get x)
     let y := otherLink x
     (s.tenure.holder = none → judgeIdle s = s ∧ clearDue s = s ∧ wantDue s = s) ∧
     (s.tenure.holder = some x →
       (holderIdle s x = s.tenure.idleNow → judgeIdle s = s) ∧
       (holderIdle s x = true → s.tenure.idleNow = false → judgeIdle s = { s with
         tenure := { s.tenure with idleNow := true, idle := begun s } }) ∧
       (holderIdle s x = false → s.tenure.idleNow = true → judgeIdle s = { s with
         tenure := { s.tenure with idleNow := false, idle := .stopped } }) ∧
       ((∀ z, s.tenure.due ≠ .toLink z) ∨ (∃ z, s.tenure.due = .toLink z ∧ hasWaitingWork s z = true) →
         clearDue s = s) ∧
       (∀ z, s.tenure.due = .toLink z → hasWaitingWork s z = false →
         let u : State := { s with tenure := { s.tenure with due := .no } }
         clearDue s = { s with tenure := { s.tenure with
           due := .no
           idleNow := holderIdle u x
           idle := if holderIdle u x then begun s else .stopped } }) ∧
       (s.tenure.due ≠ .no ∨ hasWaitingWork s y = false ∨
           (s.tenure.phase ≠ some .opened ∧ s.tenure.idle ≠ .lapsed) → wantDue s = s) ∧
       (s.tenure.due = .no → hasWaitingWork s y = true →
         s.tenure.phase = some .opened ∨ s.tenure.idle = .lapsed →
         let u : State := { s with tenure := { s.tenure with due := .toLink y, idle := .stopped } }
         wantDue s = { u with tenure := { u.tenure with idleNow := holderIdle u x } }))) ∧
  (∀ (s : State) (n : Nat),
     (s.xlate.commitTimer = .running n → s.xlate.commit = .draining →
       ∃ u, answers .commitTimerExpiry s u ∧
         u.xlate = { s.xlate with
           commit := .steady
           commitTimer := .stopped
           shadow := if s.xlate.heldRevert then s.xlate.active else s.xlate.shadow
           heldRevert := false } ∧
         (∀ x before e after, s.mgmt.longOp = some (.commit, x) →
           s.mgmt.replies.get x = before ++ e :: after →
           (∀ d ∈ before, ¬ (d.kind = .tableCommit ∧ d.status = none)) →
           e.kind = .tableCommit → e.status = none →
           u.mgmt = { s.mgmt with
             longOp := none
             replies := s.mgmt.replies.set x (before ++ { e with
               status := some .commitTimeout
               value := .word (s.xlate.epoch.setWidth 32)
               readySince := s.event + 1 } :: after) }) ∧
         u = { beginEvent s with xlate := u.xlate, mgmt := u.mgmt }) ∧
     (∀ x, s.mgmt.lease = .running n → s.mgmt.claim = some x →
       exec .leaseTimerExpiry s = .next (raiseAlert { beginEvent s with
         mgmt := { s.mgmt with claim := none, lease := .stopped }
         xlate := { s.xlate with
           shadow := if s.xlate.commit = .draining then s.xlate.shadow else s.xlate.active
           heldRevert := s.xlate.heldRevert || decide (s.xlate.commit = .draining) } }
         .leaseExpired (some x) none none none))) ∧
  (∀ s : State,
     ((∀ n, s.tenure.quantum ≠ .running n) ∨ s.tenure.holder = none → idles .quantumTimerExpiry s) ∧
     ((∀ n, s.tenure.idle ≠ .running n) ∨ s.tenure.holder = none → idles .idleTimerExpiry s) ∧
     ((∀ n, s.xlate.commitTimer ≠ .running n) ∨ s.xlate.commit ≠ .draining →
       idles .commitTimerExpiry s) ∧
     ((∀ n, s.mgmt.lease ≠ .running n) ∨ s.mgmt.claim = none → idles .leaseTimerExpiry s))

/-! ## Management (chapter 9) -/

/-- Management packets that are not taken (09 R148, R162; R159): with 2 replies listed a packet is an
overrun, which raises PROTOCOL and takes no place; during a warm reset a packet is discarded and its credit
owed, and one beyond the 2 credits is an overrun. -/
def Obligations.ManagementPacketsNotTaken : Prop :=
  ∀ (c : Instr) (x : Link) (seq : Byte) (kind : MgmtKind) (s : State), mgmtOf c = some (x, seq, kind) →
    accepts s x seq →
    let overrun : State := raiseAlert (accepted s x) .protocol (some x) none (some .mgmtOverrun) none
    (warmReset s = false → 2 ≤ (s.mgmt.replies.get x).length → exec c s = .next overrun) ∧
    (warmReset s = true → 2 ≤ (s.mgmt.replies.get x).length + s.mgmt.discarded.get x →
      exec c s = .next overrun) ∧
    (warmReset s = true → (s.mgmt.replies.get x).length + s.mgmt.discarded.get x < 2 →
      exec c s = .next { accepted s x with
        mgmt := { s.mgmt with
          discarded := s.mgmt.discarded.set x (s.mgmt.discarded.get x + 1) }
        links := (accepted s x).links.set x { linkOf (accepted s x) x with
          owedMgmt := (linkOf (accepted s x) x).owedMgmt + 1
          owedSince := if (linkOf s x).owedRequests = 0 ∧ (linkOf s x).owedMgmt = 0 then s.event + 1
            else (linkOf s x).owedSince } })

/-- MGMT-READ and TABLE-READ (09 R150, R155; 02 R36): from either link; a record and field that name no
field, or a set, table and index that name no entry, are answered BAD_INDEX; else OK with the field, or with
the twelve bytes of the entry. The fields of the records by number (11 section 11.10), from field 0 on;
every other record or field number names none. What a settings field reads as (11 R184): its number, or the
code of its named value. The fields of STATUS (09 R158): each shows the state of the block that owns it, by
the codes of 11 section 11.10. -/
def Obligations.ReadsAnswerTheirValue : Prop :=
  (∀ (s : State) (x : Link) (seq : Byte), mgmtTakes s x seq →
     (∀ record field, fieldOf record field = none → answers (.mgmtRead x seq record field) s
       (replyListed (accepted s x) x .mgmtRead (some .badIndex) .none)) ∧
     (∀ record field f, fieldOf record field = some f → answers (.mgmtRead x seq record field) s
       (replyListed (accepted s x) x .mgmtRead (some .ok)
         (.word (BitVec.ofNat 32 (readField (accepted s x) f))))) ∧
     (∀ set table index : Byte, 1 < set.toNat ∨ 2 < table.toNat ∨ (table = 0 ∧ 16 ≤ index.toNat) ∨
       (table = 1 ∧ 32 ≤ index.toNat) ∨ (table = 2 ∧ 1 ≤ index.toNat) →
       answers (.tableRead x seq set table index) s
         (replyListed (accepted s x) x .tableRead (some .badIndex) .none)) ∧
     (∀ set table index : Byte, set.toNat ≤ 1 →
       let t := if set = 0 then s.xlate.active else s.xlate.shadow
       let gives (e : BitVec 96) : Prop := answers (.tableRead x seq set table index) s
         (replyListed (accepted s x) x .tableRead (some .ok) (.entry e))
       (table = 0 → ∀ w, t.windows[index.toNat]? = some w → index.toNat < 16 →
         gives (entryOfWindow w)) ∧
       (table = 1 → ∀ r, t.regions[index.toNat]? = some r → index.toNat < 32 →
         gives (entryOfRegion r)) ∧
       (table = 2 → index = 0 → gives (entryOfDefault t.default)))) ∧
  ((let listed (record : Byte) (fs : List Machine.Field) : Prop :=
      ∀ field : Byte, fieldOf record field = fs[field.toNat]?
    listed 0x01 [.creditLimit .a] ∧ listed 0x02 [.creditLimit .b] ∧
    listed 0x03 [.tenureMode, .quantum .a, .quantum .b, .idleLimit .a, .idleLimit .b, .closeOnHandover] ∧
    listed 0x04 [.policy, .openLimit, .rowIdle, .bypassLimit, .missStreak, .hitStreak] ∧
    listed 0x05 [.refreshMode, .group, .refi, .forceLevel, .cueLink] ∧
    listed 0x06 [.caching .a, .caching .b, .filterEnable, .noticeLimit] ∧ listed 0x07 [.lockLimit] ∧
    listed 0x08 [.ranks, .banks, .rows, .interleave] ∧
    listed 0x09 [.channelClock, .actTime, .preTime, .minOpen, .writeRecovery, .readLatency, .refreshTime,
      .rankGap, .startWait, .startRefreshes, .corrThreshold] ∧
    listed 0x0A [.commitLimit, .lease, .alertLink] ∧
    listed 0x0B (List.map Machine.Field.status [.channelState, .epoch, .commitState, .claimHolder,
      .longOperation, .refreshDebt, .tenureHolder, .tenurePhase, .slots .a, .slots .b, .currentLimit .a,
      .currentLimit .b, .locksInUse, .notices .a, .notices .b, .correctedCount, .alertsQueued,
      .alertsDropped]) ∧
    ∀ record field : Byte, record = 0 ∨ 0x0B < record.toNat → fieldOf record field = none) ∧
   (∀ s : State,
     let c := s.settings
     let yes (b : Bool) : Nat := if b then 1 else 0
     let link (x : Link) : Nat := if x = .a then 0 else 1
     (∀ x, readField s (.creditLimit x) = c.creditLimit.get x ∧
       readField s (.quantum x) = c.tenure.quantum.get x ∧
       readField s (.idleLimit x) = c.tenure.idleLimit.get x ∧
       readField s (.caching x) = yes (c.notices.caching.get x)) ∧
     readField s .tenureMode = (match c.tenure.mode with | .shared => 0 | .tenure => 1) ∧
     readField s .closeOnHandover = yes c.tenure.closeOnHandover ∧
     readField s .policy = (match c.rows.policy with | .opened => 0 | .closed => 1 | .adaptive => 2) ∧
     readField s .openLimit = c.rows.openLimit ∧ readField s .rowIdle = c.rows.rowIdle ∧
     readField s .bypassLimit = c.rows.bypassLimit ∧ readField s .missStreak = c.rows.missStreak ∧
     readField s .hitStreak = c.rows.hitStreak ∧
     readField s .refreshMode = (match c.refresh.mode with | .internal => 0 | .linked => 1) ∧
     readField s .group = c.refresh.group ∧ readField s .refi = c.refresh.refi ∧
     readField s .forceLevel = c.refresh.forceLevel ∧
     readField s .cueLink = link c.refresh.cueLink ∧
     readField s .filterEnable = yes c.notices.filter ∧ readField s .noticeLimit = c.notices.limit ∧
     readField s .lockLimit = c.lockLimit ∧ readField s .ranks = c.geometry.ranks ∧
     readField s .banks = c.geometry.banks ∧ readField s .rows = c.geometry.rows ∧
     readField s .interleave = (match c.geometry.interleave with | .rowMajor => 0 | .spanRotate => 1) ∧
     readField s .channelClock = c.profile.channelClock ∧ readField s .actTime = c.profile.actTime ∧
     readField s .preTime = c.profile.preTime ∧ readField s .minOpen = c.profile.minOpen ∧
     readField s .writeRecovery = c.profile.writeRecovery ∧
     readField s .readLatency = c.profile.readLatency ∧
     readField s .refreshTime = c.profile.refreshTime ∧ readField s .rankGap = c.profile.rankGap ∧
     readField s .startWait = c.profile.startWait ∧
     readField s .startRefreshes = c.profile.startRefreshes ∧
     readField s .corrThreshold = c.profile.corrThreshold ∧
     readField s .commitLimit = c.mgmt.commitLimit ∧ readField s .lease = c.mgmt.lease ∧
     readField s .alertLink = link c.mgmt.alertLink ∧ ∀ g, readField s (.status g) = readStatus s g) ∧
   ∀ s : State,
     let holder (x : Option Link) : Nat := match x with | none => 0 | some .a => 1 | some .b => 2
     readStatus s .channelState = (match s.chan.state with
       | .init => 0 | .starting => 1 | .run => 2 | .quiescing => 3 | .quiesced => 4 | .resuming => 5) ∧
     readStatus s .epoch = s.xlate.epoch.toNat ∧
     readStatus s .commitState = (match s.xlate.commit with | .steady => 0 | .draining => 1) ∧
     readStatus s .claimHolder = holder s.mgmt.claim ∧
     (s.mgmt.longOp = none → readStatus s .longOperation = 0) ∧
     (∀ k x n, s.mgmt.longOp = some (k, x) →
       (k, n) ∈ [(LongKind.commit, 1), (.start, 2), (.quiesce, 3), (.resume, 4)] →
       readStatus s .longOperation = n + 256 * (if x = .a then 0 else 1)) ∧
     readStatus s .refreshDebt = s.refresh.debt ∧
     readStatus s .tenureHolder = holder s.tenure.holder ∧
     readStatus s .tenurePhase = (match s.tenure.phase with
       | none => 0 | some .guaranteed => 1 | some .opened => 2) ∧
     (∀ x, readStatus s (.slots x) =
         ((List.range s.table.slots.length).filter fun i => (slotAt s i).any fun t => t.link = x).length ∧
       readStatus s (.currentLimit x) = (linkOf s x).currentLimit ∧
       readStatus s (.notices x) = (targetOf s x).queue.length) ∧
     readStatus s .locksInUse = s.locks.length ∧
     readStatus s .correctedCount = s.chan.correctedCount ∧
     readStatus s .alertsQueued = s.mgmt.alerts.length ∧
     readStatus s .alertsDropped = s.mgmt.dropped)

/-- MGMT-WRITE, with the rows of fields that have behaviour of their own (09 R150, R155, R158): NOT_OWNER
without the claim; BAD_INDEX where no field, or a field of STATUS, is named; WRONG_STATE for a stopped-only
field outside INIT and QUIESCED; BAD_VALUE; else the write is made and answered OK. The stopped-only fields
(09 R155): OPEN_LIMIT, GEOMETRY, and PROFILE but for CORR_THRESHOLD. -/
def Obligations.WritesAreChecked : Prop :=
  (∀ (c : Instr) (x : Link) (seq : Byte) (f : Option Machine.Field) (v : BitVec 32) (s : State),
     mgmtOf c = some (x, seq, .mgmtWrite) → writeNames c = some (f, v) → mgmtTakes s x seq →
     let answered (u : State) (st : MgmtStatus) : Prop :=
       answers c s (replyListed u x .mgmtWrite (some st) .none)
     (s.mgmt.claim ≠ some x → answered (accepted s x) .notOwner) ∧
     (s.mgmt.claim = some x →
       (f = none ∨ (∃ g, f = some (.status g)) → answered (accepted s x) .badIndex) ∧
       ∀ g, f = some g → (∀ h, g ≠ .status h) →
         (stoppedOnly g = true → s.chan.state ≠ .init → s.chan.state ≠ .quiesced →
           answered (accepted s x) .wrongState) ∧
         (stoppedOnly g = false ∨ s.chan.state = .init ∨ s.chan.state = .quiesced →
           (valueOk (accepted s x) g v.toNat = false → answered (accepted s x) .badValue) ∧
           (valueOk (accepted s x) g v.toNat = true →
             answered (writeField (accepted s x) g v.toNat) .ok)))) ∧
  (∀ f : Machine.Field, stoppedOnly f = true ↔ f ∈ [Machine.Field.openLimit, .ranks, .banks, .rows,
     .interleave, .channelClock, .actTime, .preTime, .minOpen, .writeRecovery, .readLatency, .refreshTime,
     .rankGap, .startWait, .startRefreshes])

/-- The values a field takes (11 section 11.10; 09 R157; 03 R53; 07 R118) and what a write of one does to
the fields: the field reads back as written, and every other settings field as before. What a write of a
settings field does beside storing it (04 R85; 07 R122, R124; 06 R102): a change of TENURE MODE takes the
holder to NONE; a change of REFRESH MODE clears cue-seen and loads a running refresh timer with the new
period; FORCE_LEVEL is tested against the debt; CUE_LINK clears cue-seen; FILTER_ENABLE no clears both
Recent Line Lists; any other field does nothing else. -/
def Obligations.WritesOfSettings : Prop :=
  (∀ (s : State) (f : Machine.Field) (v : Nat),
     (valueOk s f v = true ↔ match f with
       | .creditLimit x => 1 ≤ v ∧ v ≤ 32 ∧ v + (linkOf s (otherLink x)).currentLimit ≤ 48 ∧
           v + s.settings.creditLimit.get (otherLink x) ≤ 48
       | .tenureMode | .closeOnHandover | .refreshMode | .cueLink | .caching _ | .filterEnable
       | .interleave | .alertLink => v = 0 ∨ v = 1
       | .quantum _ | .noticeLimit | .lockLimit | .commitLimit | .lease => 1 ≤ v ∧ v ≤ 255
       | .idleLimit _ | .rankGap => v ≤ 63
       | .policy => v ≤ 2
       | .openLimit => 1 ≤ v ∧ v ≤ 8 ∧ v ≤ s.settings.geometry.banks
       | .rowIdle => v ≤ 255
       | .bypassLimit => v ≤ 15
       | .missStreak | .hitStreak => 1 ≤ v ∧ v ≤ 7
       | .group => v = 1 ∨ v = 2 ∨ v = 4
       | .refi => 4 ≤ v ∧ v ≤ 63
       | .forceLevel => 1 ≤ v ∧ v ≤ 8
       | .ranks => v = 1 ∨ v = 2
       | .banks => v = 4 ∨ v = 8
       | .rows => v = 4096 ∨ v = 8192 ∨ v = 16384 ∨ v = 32768
       | .channelClock => v = 200 ∨ v = 250 ∨ v = 300 ∨ v = 350 ∨ v = 400
       | .actTime | .preTime | .writeRecovery => 2 ≤ v ∧ v ≤ 15
       | .minOpen => 4 ≤ v ∧ v ≤ 40
       | .readLatency => 2 ≤ v ∧ v ≤ 8
       | .refreshTime => 8 ≤ v ∧ v ≤ 255
       | .startWait => 100 ≤ v ∧ v ≤ 1000
       | .startRefreshes => 2 ≤ v ∧ v ≤ 16
       | .corrThreshold => 1 ≤ v ∧ v ≤ 65535
       | .status _ => False) ∧
     (valueOk s f v = true → readField (writeField s f v) f = v ∧
       ∀ g, readOnly g = false → g ≠ f → readField (writeField s f v) g = readField s g)) ∧
  (∀ (s : State) (f : Machine.Field) (v : Nat),
     let stored : State := { s with settings := setField s.settings f v }
     (f ≠ .tenureMode → f ≠ .refreshMode → f ≠ .forceLevel → f ≠ .cueLink → f ≠ .filterEnable →
       writeField s f v = stored) ∧
     (f = .tenureMode → writeField s f v =
       if readField s f = v then s
       else { stored with tenure := ⟨none, none, .stopped, .stopped, .no, false⟩ }) ∧
     (f = .refreshMode → v = 0 ∨ v = 1 → writeField s f v =
       if readField s f = v then s
       else { stored with refresh := { s.refresh with
         cueSeen := false
         timer := match s.refresh.timer with
           | .running _ => .running ((if v = 0 then 1 else 2) * s.settings.refresh.group *
               s.settings.refresh.refi)
           | t => t } }) ∧
     (f = .forceLevel → writeField s f v = forceTest stored) ∧
     (f = .cueLink → writeField s f v = { stored with refresh := { s.refresh with cueSeen := false } }) ∧
     (f = .filterEnable → writeField s f v = if v = 0 then
         { stored with notices :=
           ⟨{ s.notices.a with recent := [] }, { s.notices.b with recent := [] }⟩ }
       else stored))

/-- TABLE-WRITE and TABLE-REVERT (02 R35, R37; 09 R150): NOT_OWNER, BAD_INDEX, BUSY while a commit drains,
BAD_VALUE; else the entry of SHADOW is replaced, or SHADOW takes ACTIVE; ACTIVE stands. The twelve bytes of
a table entry (11 section 11.9; 02 R35 steps 3 and 4): which bytes a valid window and a valid region have,
and that an entry with valid no is held at its cold values whatever else its bytes say. The bytes of an
entry in their order (11 section 11.9), the cold entries (02 R46), and which table and index name an entry
(02 R35). How a written entry is read (02 R35 steps 3 and 4, R46; 11 section 11.9, R184). A WINDOW entry
with a valid, links or size code outside its set is none, which is answered BAD_VALUE, whether its valid is
yes or no; with every code in its set, one with valid no is held at its cold values, its bases unread, and
one with valid yes has the fields of its bytes, or is none where its alignment or range fails. So is a
REGION entry by its valid, access, notify and lockable codes, its base and its limit; its unused bytes are
not read. Of a DEFAULT entry only the access, notify and lockable bytes are read. -/
def Obligations.TableWritesAndReverts : Prop :=
  (∀ (s : State) (x : Link) (seq : Byte), mgmtTakes s x seq →
     let wrote (table index : Byte) (e : BitVec 96) (u : State) (st : MgmtStatus) : Prop :=
       answers (.tableWrite x seq table index e) s (replyListed u x .tableWrite (some st) .none)
     let reverted (u : State) (st : MgmtStatus) : Prop :=
       answers (.tableRevert x seq) s (replyListed u x .tableRevert (some st) .none)
     let a := accepted s x
     let shadow (t : TableSet) : State := { a with xlate := { s.xlate with shadow := t } }
     (s.mgmt.claim ≠ some x → (∀ t i e, wrote t i e a .notOwner) ∧ reverted a .notOwner) ∧
     (s.mgmt.claim = some x →
       (∀ (table index : Byte) (e : BitVec 96),
         (tableIndex table index = none → wrote table index e a .badIndex) ∧
         (tableIndex table index ≠ none → s.xlate.commit = .draining → wrote table index e a .busy) ∧
         (s.xlate.commit ≠ .draining →
           (table = 0 → index.toNat < 16 →
             (windowOfEntry e = none → wrote table index e a .badValue) ∧
             ∀ w, windowOfEntry e = some w → wrote table index e (shadow { s.xlate.shadow with
               windows := s.xlate.shadow.windows.set index.toNat w }) .ok) ∧
           (table = 1 → index.toNat < 32 →
             (regionOfEntry e = none → wrote table index e a .badValue) ∧
             ∀ r, regionOfEntry e = some r → wrote table index e (shadow { s.xlate.shadow with
               regions := s.xlate.shadow.regions.set index.toNat r }) .ok) ∧
           (table = 2 → index = 0 →
             (rightsOfEntry e = none → wrote table index e a .badValue) ∧
             ∀ r, rightsOfEntry e = some r →
               wrote table index e (shadow { s.xlate.shadow with default := r }) .ok))) ∧
       (s.xlate.commit = .draining → reverted a .busy) ∧
       (s.xlate.commit ≠ .draining → reverted (shadow s.xlate.active) .ok))) ∧
  (∀ e : BitVec 96,
     (∀ w, windowOfEntry e = some w → w.valid = true →
       entryOfWindow w = e ∧ w.sizeCode ≤ 14 ∧
       w.linkBase.toNat % (65536 * 2 ^ w.sizeCode) = 0 ∧
       w.physBase.toNat % (65536 * 2 ^ w.sizeCode) = 0 ∧ w.physBase.toNat < 2 ^ 30) ∧
     (∀ w, windowOfEntry e = some w → w.valid = false → w = coldWindow) ∧
     (∀ w : Window, w.valid = true → w.sizeCode ≤ 14 →
       w.linkBase.toNat % (65536 * 2 ^ w.sizeCode) = 0 →
       w.physBase.toNat % (65536 * 2 ^ w.sizeCode) = 0 → w.physBase.toNat < 2 ^ 30 →
       windowOfEntry (entryOfWindow w) = some w) ∧
     (∀ r, regionOfEntry e = some r → r.valid = true →
       r.base.toNat ≤ r.limit.toNat ∧ r.limit.toNat ≤ 16383 ∧
       regionOfEntry (entryOfRegion r) = some r) ∧
     (∀ r, regionOfEntry e = some r → r.valid = false → r = coldRegion) ∧
     (∀ r : Region, r.valid = true → r.base.toNat ≤ r.limit.toNat → r.limit.toNat ≤ 16383 →
       regionOfEntry (entryOfRegion r) = some r) ∧
     (∀ r : Rights, rightsOfEntry (entryOfDefault r) = some r)) ∧
  ((∀ w : Window, entryOfWindow w = (if w.valid then 1#8 else 0#8) ++
     (match w.links with | .a => 1#8 | .b => 2#8 | .both => 3#8) ++ BitVec.ofNat 8 w.sizeCode ++
     w.linkBase ++ w.physBase) ∧
   (∀ r : Region,
     let access (a : Access) : BitVec 8 := match a with | .none => 0 | .read => 1 | .readWrite => 2
     let yes (b : Bool) : BitVec 8 := if b then 1 else 0
     entryOfRegion r = yes r.valid ++ r.base ++ r.limit ++ access r.rights.accessA ++
       access r.rights.accessB ++ yes r.rights.notify ++ yes r.rights.lockable ++ 0#24) ∧
   (∀ r : Rights, entryOfDefault r = entryOfRegion ⟨false, 0, 0, r⟩) ∧
   coldWindow = ⟨false, .a, 0, 0, 0⟩ ∧ coldRegion = ⟨false, 0, 0, ⟨.none, .none, false, false⟩⟩ ∧
   ∀ table index : Byte, tableIndex table index ≠ none ↔
     (table = 0 ∧ index.toNat < 16) ∨ (table = 1 ∧ index.toNat < 32) ∨ (table = 2 ∧ index = 0)) ∧
  (∀ e : BitVec 96,
     let byte (k : Nat) : Nat := (e.extractLsb' (8 * (11 - k)) 8).toNat
     let access (a : Access) : Nat := match a with | .none => 0 | .read => 1 | .readWrite => 2
     let yes (b : Bool) : Nat := if b then 1 else 0
     let windowCodes : Prop := byte 0 ≤ 1 ∧ 1 ≤ byte 1 ∧ byte 1 ≤ 3 ∧ byte 2 ≤ 14
     let rightsCodes : Prop := byte 5 ≤ 2 ∧ byte 6 ≤ 2 ∧ byte 7 ≤ 1 ∧ byte 8 ≤ 1
     let named (r : Rights) : Prop := access r.accessA = byte 5 ∧ access r.accessB = byte 6 ∧
       yes r.notify = byte 7 ∧ yes r.lockable = byte 8
     (¬ windowCodes → windowOfEntry e = none) ∧
     (windowCodes → byte 0 = 0 → windowOfEntry e = some coldWindow) ∧
     (windowCodes → byte 0 = 1 → ∀ l : WindowLinks,
       (match l with | .a => 1 | .b => 2 | .both => 3) = byte 1 →
       let w : Window := ⟨true, l, byte 2, e.extractLsb' 32 40, e.extractLsb' 0 32⟩
       let size := 65536 * 2 ^ byte 2
       let fits : Prop := w.linkBase.toNat % size = 0 ∧ w.physBase.toNat % size = 0 ∧
         w.physBase.toNat < 2 ^ 30
       (fits → windowOfEntry e = some w) ∧ (¬ fits → windowOfEntry e = none)) ∧
     (¬ rightsCodes → rightsOfEntry e = none ∧ regionOfEntry e = none) ∧
     (1 < byte 0 → regionOfEntry e = none) ∧
     (rightsCodes → ∃ r, named r) ∧
     (∀ r, named r → rightsOfEntry e = some r ∧
       (byte 0 = 0 → regionOfEntry e = some coldRegion) ∧
       (byte 0 = 1 →
         let region : Region := ⟨true, e.extractLsb' 72 16, e.extractLsb' 56 16, r⟩
         let fits : Prop := region.limit.toNat ≤ 16383 ∧ region.base.toNat ≤ region.limit.toNat
         (fits → regionOfEntry e = some region) ∧ (¬ fits → regionOfEntry e = none))) ∧
     (∀ d : BitVec 96, d.extractLsb' 24 32 = e.extractLsb' 24 32 →
       rightsOfEntry d = rightsOfEntry e) ∧
     ∀ d : BitVec 96, d.extractLsb' 24 72 = e.extractLsb' 24 72 → regionOfEntry d = regionOfEntry e)

/-- TABLE-COMMIT (02 R39, R40): NOT_OWNER; WRONG_STATE in STARTING, QUIESCING and RESUMING; BUSY while a
commit drains; with the channel INIT or QUIESCED or nothing QUEUED, ACCESS or MERGE the switch is made at
once and answered with the new epoch; else BUSY while a long operation is in progress, or the drain begins
with its timer loaded with COMMIT_LIMIT, undecided. -/
def Obligations.TableCommitOutcomes : Prop :=
  ∀ (s : State) (x : Link) (seq : Byte), mgmtTakes s x seq →
    let a := accepted s x
    let refused (st : MgmtStatus) : Prop := answers (.tableCommit x seq) s
      (replyListed a x .tableCommit (some st) .none)
    (s.mgmt.claim ≠ some x → refused .notOwner) ∧
    (s.mgmt.claim = some x →
      (s.chan.state = .starting ∨ s.chan.state = .quiescing ∨ s.chan.state = .resuming →
        refused .wrongState) ∧
      (s.chan.state = .init ∨ s.chan.state = .run ∨ s.chan.state = .quiesced →
        (s.xlate.commit = .draining → refused .busy) ∧
        (s.xlate.commit = .steady → s.chan.state ≠ .run ∨ anyOnPath s = false →
          answers (.tableCommit x seq) s (replyListed { a with
            xlate := { s.xlate with
              active := s.xlate.shadow, epoch := s.xlate.epoch + 1, commitTimer := .stopped
              heldRevert := false }
            notices := ⟨{ s.notices.a with recent := [] }, { s.notices.b with recent := [] }⟩ }
            x .tableCommit (some .ok) (.word ((s.xlate.epoch + 1).setWidth 32)))) ∧
        (s.xlate.commit = .steady → s.chan.state = .run → anyOnPath s = true →
          (s.mgmt.longOp ≠ none → refused .busy) ∧
          (s.mgmt.longOp = none → answers (.tableCommit x seq) s (replyListed { a with
            xlate := { s.xlate with
              commit := .draining
              commitTimer := .running (64 * s.settings.mgmt.commitLimit) }
            mgmt := { s.mgmt with longOp := some (.commit, x) } }
            x .tableCommit none .none)))))

/-- CLAIM and RELEASE (09 R151, R153): a claim of the other link is answered CLAIMED; else the claim is the
link's and the lease is loaded; RELEASE by another than the holder is NOT_OWNER; by the holder the claim is
FREE, and SHADOW is reverted, or, while a commit drains, a revert is held for its end. -/
def Obligations.ClaimAndRelease : Prop :=
  ∀ (s : State) (x : Link) (seq : Byte), mgmtTakes s x seq →
    let a := accepted s x
    (s.mgmt.claim = some (otherLink x) → answers (.claim x seq) s
      (replyListed a x .claim (some .claimed) .none)) ∧
    (s.mgmt.claim = none ∨ s.mgmt.claim = some x → answers (.claim x seq) s
      (replyListed { a with mgmt := { s.mgmt with claim := some x } } x .claim (some .ok) .none)) ∧
    (s.mgmt.claim ≠ some x → answers (.release x seq) s
      (replyListed a x .release (some .notOwner) .none)) ∧
    (s.mgmt.claim = some x → answers (.release x seq) s
      (replyListed { a with
        mgmt := { s.mgmt with claim := none, lease := .stopped }
        xlate := if s.xlate.commit = .draining then { s.xlate with heldRevert := true }
          else { s.xlate with shadow := s.xlate.active } } x .release (some .ok) .none))

/-! ## The channel's long operations (chapter 8) -/

/-- CHANNEL-START, CHANNEL-QUIESCE and CHANNEL-RESUME at their taking (08 R131, R133, R135; 09 R150):
NOT_OWNER, WRONG_STATE, BUSY, BAD_VALUE for a profile or sleeping ranks that cannot run; else the operation
begins, undecided. The start gives up the contents of the installed ranks; the resume wakes them and sets
the debt to 0. The end of a long operation (09 R149, R154): the first undecided entry of its kind in the
reply list of its link is decided; where a link reset took the entry there is no reply; another operation's
end leaves everything. The kind of reply each long operation has (09 R154), and the contents a start gives
up. The spec says only that the contents of the installed ranks are undefined (08 R131); how that is held is
the model's choice (log entry 5): a byte of them reads as the free value of a byte never written, of the
next generation, and no word of them has a bit in error. A byte written in another rank stands. The rank of
a cell is that of the location whose block it lies in. -/
def Obligations.LongOperations : Prop :=
  (∀ (s : State) (x : Link) (seq : Byte), mgmtTakes s x seq →
     let a := accepted s x
     let p := s.settings.profile
     let ranks := List.range s.settings.geometry.ranks
     let answered (c : Instr) (k : MgmtKind) (u : State) (st : Option MgmtStatus) : Prop :=
       answers c s (replyListed u x k st .none)
     let start := answered (.channelStart x seq) .channelStart
     let quiesce := answered (.channelQuiesce x seq) .channelQuiesce
     let resume := answered (.channelResume x seq) .channelResume
     (s.mgmt.claim ≠ some x → start a (some .notOwner) ∧ quiesce a (some .notOwner) ∧
       resume a (some .notOwner)) ∧
     (s.mgmt.claim = some x →
       (s.chan.state ≠ .init → start a (some .wrongState)) ∧
       (s.chan.state ≠ .run → quiesce a (some .wrongState)) ∧
       (s.chan.state ≠ .quiesced → resume a (some .wrongState)) ∧
       (s.mgmt.longOp ≠ none →
         (s.chan.state = .init → start a (some .busy)) ∧
         (s.chan.state = .run → quiesce a (some .busy)) ∧
         (s.chan.state = .quiesced → resume a (some .busy))) ∧
       (s.mgmt.longOp = none →
         (s.chan.state = .init → p.minOpen < p.actTime + p.readLatency →
           start a (some .badValue)) ∧
         (s.chan.state = .init → p.actTime + p.readLatency ≤ p.minOpen →
           start { a with
             mgmt := { s.mgmt with longOp := some (.start, x) }
             dram := forgetRanks s.dram s.settings.geometry.ranks
             chan := { s.chan with
               state := .starting, sleeping := [], clockOn := true
               startTimer := .running (4 * p.startWait), startPhase := .waiting } } none) ∧
         (s.chan.state = .run →
           quiesce { a with
             mgmt := { s.mgmt with longOp := some (.quiesce, x) }
             chan := { s.chan with
               state := .quiescing, lastRun := some s.settings.geometry } } none) ∧
         (s.chan.state = .quiesced →
           p.minOpen < p.actTime + p.readLatency ∨ (∃ r ∈ ranks, r ∉ s.chan.sleeping) →
           resume a (some .badValue)) ∧
         (s.chan.state = .quiesced → p.actTime + p.readLatency ≤ p.minOpen →
           (∀ r ∈ ranks, r ∈ s.chan.sleeping) →
           resume { a with
             mgmt := { s.mgmt with longOp := some (.resume, x) }
             channelOut := ranks.map DramCommand.srExit
             refresh := { s.refresh with
               debt := 0, cueSeen := false, timer := .running (refreshPeriod s) }
             chan := { s.chan with
               state := .resuming
               sleeping := s.chan.sleeping.filter fun r => !ranks.contains r
               resumeTimer := .running ((4 * p.startWait + 9) / 10)
               resumePhase := .waiting } } none)))) ∧
  (∀ (s : State) (kind : LongKind) (st : MgmtStatus) (v : ReplyValue),
     (∀ x, s.mgmt.longOp = some (kind, x) →
       (∀ before e after, s.mgmt.replies.get x = before ++ e :: after →
         (∀ d ∈ before, ¬ (d.kind = kindOfLong kind ∧ d.status = none)) →
         e.kind = kindOfLong kind → e.status = none →
         endLong s kind st v = { s with mgmt := { s.mgmt with
           longOp := none
           replies := s.mgmt.replies.set x (before ++ { e with
             status := some st, value := v, readySince := s.event } :: after) } }) ∧
       ((∀ d ∈ s.mgmt.replies.get x, ¬ (d.kind = kindOfLong kind ∧ d.status = none)) →
         endLong s kind st v = { s with mgmt := { s.mgmt with longOp := none } })) ∧
     ((∀ x, s.mgmt.longOp ≠ some (kind, x)) → endLong s kind st v = s)) ∧
  ((kindOfLong .commit = .tableCommit ∧ kindOfLong .start = .channelStart ∧
     kindOfLong .quiesce = .channelQuiesce ∧ kindOfLong .resume = .channelResume ∧
     kindOfLong .hubReset = .hubReset) ∧
   ∀ (d : Dram) (ranks cell : Nat),
     (rankOfCell cell < ranks → readCell (forgetRanks d ranks) cell =
       Config.unwrittenByte (d.generation + 1) cell) ∧
     (ranks ≤ rankOfCell cell → (∃ b, (cell, b) ∈ d.cells) →
       readCell (forgetRanks d ranks) cell = readCell d cell) ∧
     (rankOfCell (8 * cell) < ranks → errorOf (forgetRanks d ranks) cell = 0) ∧
     (ranks ≤ rankOfCell (8 * cell) → errorOf (forgetRanks d ranks) cell = errorOf d cell) ∧
     ∀ (l : Location) (k j : Nat), l.bank < 8 → l.row < 32768 → l.column + k < 64 → j < 32 →
       rankOfCell (blockCell l k + j) = l.rank)

/-- The start and the resume sequence (08 R132, R135; 03 R66; 07 R128), outside a warm reset: PRECHARGE-ALL
to each rank at the end of the start wait; START_REFRESHES rounds; LOAD-SETTINGS; then RUN with fresh banks,
no debt and the refresh timer loaded, answered OK; a resume sends LOAD-SETTINGS at the end of its wait and
then enters RUN, with the behaviours and streaks kept where the geometry is the one of the last RUN. That
they are kept also where it was changed and changed back meanwhile is the model's choice (log entry 31). The
sequences outside their phases, and during a warm reset (08 R132, R135, R145; log entry 2): a timer that
does not run does not expire, and no other step is taken out of its phase; during a warm reset the start
timer only stops and the rest of the start is not sent. A warm reset taken in RESUMING sends SR-ENTER to
each awake rank once the resume wait has passed, or, after LOAD-SETTINGS, the settings wait, and the ranks
sleep again: the refresh timer is stopped, cue-seen becomes no and the debt is 0 (07 R120, R127). The
warm-reset clauses are the model's: that the start timer only stops, that the rest of a sequence is not
sent, and when SR-ENTER is sent, is read from 08 R145 (DEDUCED, log entry 23); that the channel's state
stands until the reset point, as their frame says, is its choice (DESIGN CHOICE, log entry 32). -/
def Obligations.SequencesRun : Prop :=
  (∀ s : State, warmReset s = false →
     let ranks := List.range s.settings.geometry.ranks
     let load := ranks.map fun r => DramCommand.loadSettings r s.settings.profile.readLatency
     let fresh (k : Behaviour) (n : Nat) : Bank :=
       ⟨.closed, none, none, k, n, .stopped, false, false, none, 0, 0⟩
     let formed := List.replicate (s.settings.geometry.ranks * s.settings.geometry.banks) (fresh .keep 0)
     (∀ n, s.chan.startTimer = .running n → exec .startTimerExpiry s = .next { beginEvent s with
       chan := { s.chan with startTimer := .stopped, startPhase := .precharging }
       channelOut := ranks.map DramCommand.prechargeAll }) ∧
     (∀ done sent, s.chan.startPhase = .refreshing done sent →
       sent.length = s.settings.geometry.ranks →
       (done + 1 < s.settings.profile.startRefreshes →
         exec .startRefreshRoundComplete s = .next { beginEvent s with
           chan := { s.chan with startPhase := .refreshing (done + 1) [] } }) ∧
       (s.settings.profile.startRefreshes ≤ done + 1 →
         exec .startRefreshRoundComplete s = .next { beginEvent s with
           chan := { s.chan with startPhase := .settling }, channelOut := load })) ∧
     (s.chan.startPhase = .settling → answers .startSequenceEnd s (endLong { beginEvent s with
       chan := { s.chan with state := .run, startPhase := .none }
       sched := { s.sched with banks := formed, openRows0 := [], openRows1 := [] }
       refresh := { s.refresh with
         debt := 0, cueSeen := false, timer := .running (refreshPeriod s) } } .start .ok .none)) ∧
     (∀ n, s.chan.resumeTimer = .running n → exec .resumeTimerExpiry s = .next { beginEvent s with
       chan := { s.chan with resumeTimer := .stopped, resumePhase := .settling }
       channelOut := load }) ∧
     (s.chan.resumePhase = .settling → answers .resumeSequenceEnd s (endLong (forceTest
       { beginEvent s with
         chan := { s.chan with state := .run, resumePhase := .none }
         sched := { s.sched with
           banks := if s.chan.lastRun = some s.settings.geometry
             then s.sched.banks.map fun b => fresh b.behaviour b.streak else formed
           openRows0 := [], openRows1 := [] } }) .resume .ok .none))) ∧
  (∀ s : State,
     let ranks := List.range s.settings.geometry.ranks
     let warm : Prop := s.chan.warm ≠ none
     let asleep (c : Instr) : Prop := ∃ t, exec c s = .next t ∧
       (∀ r, r < 2 → (r ∈ t.chan.sleeping ↔ r ∈ s.chan.sleeping ∨ r ∈ ranks)) ∧
       t = { beginEvent s with
         channelOut := ranks.map DramCommand.srEnter
         refresh := { s.refresh with timer := .stopped, cueSeen := false, debt := 0 }
         chan := { s.chan with
           resumeTimer := t.chan.resumeTimer, resumePhase := .none, sleeping := t.chan.sleeping
           warm := some ranks } }
     ((∀ n, s.chan.startTimer ≠ .running n) → idles .startTimerExpiry s) ∧
     (warm → ∀ n, s.chan.startTimer = .running n → exec .startTimerExpiry s = .next { beginEvent s with
       chan := { s.chan with startTimer := .stopped } }) ∧
     (warm ∨ (∀ done sent, s.chan.startPhase = .refreshing done sent →
         sent.length ≠ s.settings.geometry.ranks) → idles .startRefreshRoundComplete s) ∧
     (warm ∨ s.chan.startPhase ≠ .settling → idles .startSequenceEnd s) ∧
     ((∀ n, s.chan.resumeTimer ≠ .running n) → idles .resumeTimerExpiry s) ∧
     (s.chan.resumePhase ≠ .settling → idles .resumeSequenceEnd s) ∧
     (warm → ∀ n, s.chan.resumeTimer = .running n → asleep .resumeTimerExpiry ∧
       ∀ t, exec .resumeTimerExpiry s = .next t → t.chan.resumeTimer = .stopped) ∧
     (warm → s.chan.resumePhase = .settling → asleep .resumeSequenceEnd ∧
       ∀ t, exec .resumeSequenceEnd s = .next t → t.chan.resumeTimer = s.chan.resumeTimer))

/-- HUB-RESET at its taking (09 R153, R162; 08 R145; 02 R37, R45): NOT_OWNER without the claim; else any
long operation is abandoned without reply, a draining commit with its held revert made; the close of every
bank is requested; a service that has sent no WRITE-COLUMN and has nothing outstanding ends. -/
def Obligations.HubResetIsTaken : Prop :=
  ∀ (s : State) (x : Link) (seq : Byte), mgmtTakes s x seq →
    let a := accepted s x
    (s.mgmt.claim ≠ some x → answers (.hubReset x seq) s
      (replyListed a x .hubReset (some .notOwner) .none)) ∧
    (s.mgmt.claim = some x → ∃ u, answers (.hubReset x seq) s (replyListed u x .hubReset none .none) ∧
      u.mgmt = { s.mgmt with longOp := some (.hubReset, x), discarded := ⟨0, 0⟩ } ∧
      u.chan = { s.chan with warm := some [] } ∧
      u.xlate = (if s.xlate.commit = .draining then { s.xlate with
          commit := .steady
          commitTimer := .stopped
          shadow := if s.xlate.heldRevert then s.xlate.active else s.xlate.shadow
          heldRevert := false }
        else s.xlate) ∧
      (∀ pos, bankAt u pos = (bankAt s pos).map fun b => match b.serving with
        | none => if b.state = .openRow then { b with closePending := true } else b
        | some v =>
          if v.wrote then { b with closeAfter := true }
          else if v.due = 0 ∧ (b.state = .closed ∨ b.state = .openRow) then
            { b with
              serving := none
              closeAfter := false
              closePending := b.closePending || decide (b.state = .openRow) }
          else { b with
            closeAfter := true
            serving := some { v with toRead := [], toWrite := [], reserved := false } }) ∧
      u = { a with
        mgmt := u.mgmt, chan := u.chan, xlate := u.xlate
        sched := { s.sched with banks := u.sched.banks } })

/-- The reset point (09 R163, R164; 01 R25; 02 R45; 03 R68; 04 R86; 05 R100; 06 R115; 07 R129; 08 R145; 10
R181): what every block takes and what it keeps; the start and resume timers and sequences are stopped, no
read data are due, and the channel clock is stopped in INIT. With what the times of 03 R50 are known is the
model's own (log entry 4), and so are the empty round of the Refresh Controller (log entry 33) and the event
from which the owed credits are ready (log entry 15). No revert is held afterwards (09 R153). With which
work the Channel Controller is done is the model's reading (log entry 23). When the reset point comes (09
R163; 08 R145; DEDUCED, log entry 23): during a warm reset, in INIT, STARTING and QUIESCED at once, in RUN,
QUIESCING and RESUMING once every installed rank was sent its SR-ENTER; at any other time RESET_POINT
changes nothing (log entry 2). -/
def Obligations.ResetPointIsTaken : Prop :=
  (∀ s : State, warmWorkDone s = true → ∃ t, exec .resetPoint s = .next t ∧
     let init : Prop := s.chan.state = .init ∨ s.chan.state = .starting
     (∀ i, slotAt t i = none) ∧ (∀ x, t.table.responses.get x = []) ∧
     t.table.arrivalCounter = 0 ∧ t.table.transCounter = 0 ∧
     t.xlate = { s.xlate with
       shadow := s.xlate.active, commit := .steady, commitTimer := .stopped, heldRevert := false } ∧
     (init → t.sched.banks = []) ∧
     (¬ init → t.sched.banks = s.sched.banks.map fun _ =>
       ⟨.closed, none, none, .keep, 0, .stopped, false, false, none, 0, 0⟩) ∧
     t.sched = ⟨t.sched.banks, [], [], 15, s.event + 1, s.event + 1⟩ ∧
     t.tenure = ⟨none, none, .stopped, .stopped, .no, false⟩ ∧ t.locks = [] ∧
     (∀ y, targetOf t y = ⟨[], [], 0⟩) ∧ t.refresh = ⟨0, .stopped, false, .none, [], none⟩ ∧
     (init → t.chan.state = .init) ∧ (¬ init → t.chan.state = .quiesced) ∧
     t.chan = { s.chan with
       state := t.chan.state, sleeping := t.chan.sleeping
       clockOn := s.chan.clockOn && decide (t.chan.state ≠ .init)
       startTimer := .stopped, resumeTimer := .stopped, startPhase := .none, resumePhase := .none
       readsDue := [], warm := none
       lastRun := if s.chan.state = .run then some s.settings.geometry else s.chan.lastRun } ∧
     t.chan.sleeping = s.chan.sleeping ∧ t.channelOut = [] ∧
     t.dram = s.dram ∧ t.settings = s.settings ∧ t.event = s.event + 1 ∧ t.free = s.free ∧
     t.pending = s.pending ∧ t.wire = ⟨[], []⟩ ∧
     t.mgmt = { s.mgmt with longOp := none, discarded := ⟨0, 0⟩, replies := t.mgmt.replies } ∧
     ∀ x, let own : Prop := s.mgmt.longOp = some (.hubReset, x) ∧
         ∃ e ∈ s.mgmt.replies.get x, e.kind = .hubReset ∧ e.status = none
       (own → t.mgmt.replies.get x = [⟨.hubReset, some .ok, .none, s.event + 1⟩]) ∧
       (¬ own → t.mgmt.replies.get x = []) ∧
       (inService s x = false → linkOf t x = { linkOf s x with notices := [] }) ∧
       (inService s x = true →
         (linkOf t x).restartDue = true ∧ ((linkOf t x).resetReplyDue = true ↔ own) ∧
         (linkOf t x).owedRequests = (linkOf s x).owedRequests + (liveOf s x).length ∧
         (own → (linkOf t x).owedMgmt =
           (linkOf s x).owedMgmt + ((s.mgmt.replies.get x).length - 1)) ∧
         (¬ own → (linkOf t x).owedMgmt =
           (linkOf s x).owedMgmt + (s.mgmt.replies.get x).length) ∧
         linkOf t x = { linkOf s x with
           notices := [], restartDue := true, resetReplyDue := (linkOf t x).resetReplyDue
           owedRequests := (linkOf t x).owedRequests, owedMgmt := (linkOf t x).owedMgmt
           owedSince := if (linkOf s x).owedRequests = 0 ∧ (linkOf s x).owedMgmt = 0 then s.event + 1
             else (linkOf s x).owedSince })) ∧
  (∀ s : State,
     (warmReset s = true ↔ s.chan.warm ≠ none) ∧
     (warmWorkDone s = true ↔ ∃ sent, s.chan.warm = some sent ∧
       (s.chan.state = .init ∨ s.chan.state = .starting ∨ s.chan.state = .quiesced ∨
         ∀ r < s.settings.geometry.ranks, r ∈ sent)) ∧
     (warmWorkDone s = false → idles .resetPoint s))

/-! ## The packet link (chapter 10) -/

/-- Sequenced packets (10 R168, R172 to R174), whatever their kind: in DOWN and TRAINING they are discarded;
in UP one that is not the expected one is discarded and puts the link in RETRY with its first RETRY-REQ; in
RETRY such a one is discarded. One that is accepted brings the link back to UP, advances the expected
sequence and is counted: the first loads the ack timer, the eighth is acknowledged at once. Packets that are
bad or that nothing takes (10 R168, R172, R174; 09 R159): a bad packet puts an UP link in RETRY and is
discarded in every other state; one given for a sequence byte that is the expected one is none, and nothing
changes (log entry 2); an unknown packet that is accepted raises PROTOCOL, and one of a link-level kind,
which carries no sequence number, raises it in UP and RETRY (log entry 13). -/
def Obligations.SequencedPacketsAreJudged : Prop :=
  (∀ (c : Instr) (x : Link) (seq : Byte) (s : State), sequencedOf c = some (x, seq) →
     let l := linkOf s x
     ((l.state = .down ∨ l.state = .training) → exec c s = .next s) ∧
     (l.state = .retry → seq.toNat ≠ l.expected.toNat → exec c s = .next s) ∧
     (l.state = .up → seq.toNat ≠ l.expected.toNat →
       exec c s = .next { carries s x [.retryReq l.expected l.nextSend] with
         links := s.links.set x { l with
           state := .retry, retryCount := 1, retryTimer := .running 16, unacked := 0
           ackTimer := .stopped } }) ∧
     (accepts s x seq →
       let taken : LinkCtl := { l with
         state := .up
         retryCount := if l.state = .retry then 0 else l.retryCount
         retryTimer := if l.state = .retry then .stopped else l.retryTimer
         expected := l.expected + 1 }
       (l.unacked ≠ 7 → accepted s x = { beginEvent s with links := s.links.set x { taken with
         unacked := l.unacked + 1
         ackTimer := if l.unacked = 0 then .running 8 else l.ackTimer } }) ∧
       (l.unacked = 7 → accepted s x = { carries s x [.linkAck l.expected l.nextSend] with
         links := s.links.set x { taken with unacked := 0, ackTimer := .stopped } }))) ∧
  (∀ (s : State) (x : Link),
     let l := linkOf s x
     let retried : State := { carries s x [.retryReq l.expected l.nextSend] with
       links := s.links.set x { l with
         state := .retry, retryCount := 1, retryTimer := .running 16, unacked := 0
         ackTimer := .stopped } }
     (l.state = .up → exec (.receiveBadPacket x .crc) s = .next retried ∧
       ∀ seq : Byte, seq.toNat ≠ l.expected.toNat →
         exec (.receiveBadPacket x (.sequence seq)) s = .next retried) ∧
     (∀ seq : Byte, seq.toNat = l.expected.toNat → idles (.receiveBadPacket x (.sequence seq)) s) ∧
     (l.state ≠ .up → ∀ why, exec (.receiveBadPacket x why) s = .next s) ∧
     (∀ seq, accepts s x seq → exec (.receiveUnknownPacket x (some seq)) s = .next
       (raiseAlert (accepted s x) .protocol (some x) none (some .unknownPacket) none)) ∧
     (inService s x = true → exec (.receiveUnknownPacket x none) s = .next
       (raiseAlert (beginEvent s) .protocol (some x) none (some .unknownPacket) none)) ∧
     (inService s x = false → exec (.receiveUnknownPacket x none) s = .next s))

/-- Training (10 R168, R170; 09 R157): TRAINING at the end of the quiet time; the first TRAIN once no slot
of the link is live, when the current limit takes the pending limit and the grant takes it too; the TRAIN
again at each expiry of its timer. TRAIN (10 R168, R170, R171): discarded in DOWN; in TRAINING it is noted,
answered and takes the link UP as its seen flag and the hub's own TRAIN give; in UP and RETRY one with seen
yes is answered with the grant of the training, and one with seen no resets the link with cause RESTART.
Training steps out of their place change nothing (10 R168, R170; log entry 2): the end of the quiet time
outside DOWN, the first TRAIN outside TRAINING, a second time, or with a slot of the link live, and a train
timer that does not run. -/
def Obligations.TrainingProceeds : Prop :=
  (∀ (s : State) (x : Link) (n : Nat),
     let l := linkOf s x
     let limit := s.settings.creditLimit.get x
     (l.state = .down → l.downTimer = .running n →
       exec (.downTimerExpiry x) s = .next { beginEvent s with
         links := s.links.set x { l with state := .training, downTimer := .stopped } }) ∧
     (l.state = .training → l.trainSent = false → (∀ i t, slotAt s i = some t → t.link ≠ x) →
       exec (.sendFirstTrain x) s = .next { carries s x [.train limit 2 l.partnerSeen] with
         links := s.links.set x { l with
           currentLimit := limit, grant := limit, trainSent := true, trainTimer := .running 32 } }) ∧
     (l.state = .training → l.trainTimer = .running n →
       exec (.trainTimerExpiry x) s = .next { carries s x [.train l.grant 2 l.partnerSeen] with
         links := s.links.set x { l with trainTimer := .running 32 } })) ∧
  (∀ (s : State) (x : Link) (r m seen : Byte),
     let l := linkOf s x
     let train (u : State) : Prop := exec (.train x r m seen) s = .next u
     let again : State := carries s x [.train l.grant 2 true]
     (l.state = .down → train s) ∧
     (l.state = .training →
       (l.trainSent = false → train { beginEvent s with
         links := s.links.set x { l with partnerSeen := true } }) ∧
       (l.trainSent = true → l.partnerSeen = false →
         (seen = 1 → train { again with links := s.links.set x { l with
           partnerSeen := true, state := .up, trainTimer := .stopped } }) ∧
         (seen ≠ 1 → train { again with links := s.links.set x { l with
           partnerSeen := true, trainTimer := .running 32 } })) ∧
       (l.trainSent = true → l.partnerSeen = true →
         (seen = 1 → train { beginEvent s with links := s.links.set x { l with
           state := .up, trainTimer := .stopped } }) ∧
         (seen ≠ 1 → train again))) ∧
     (inService s x = true →
       (seen = 1 → train again) ∧
       (seen ≠ 1 → answers (.train x r m seen) s (resetAt (beginEvent s) x .restart)))) ∧
  (∀ (s : State) (x : Link),
     let l := linkOf s x
     (l.state ≠ .down ∨ (∀ n, l.downTimer ≠ .running n) → idles (.downTimerExpiry x) s) ∧
     (l.state ≠ .training ∨ l.trainSent = true ∨ (∃ i t, slotAt s i = some t ∧ t.link = x) →
       idles (.sendFirstTrain x) s) ∧
     (l.state ≠ .training ∨ (∀ n, l.trainTimer ≠ .running n) → idles (.trainTimerExpiry x) s))

/-- LINK-ACK and RETRY-REQ (10 R174, R176): taken in UP and RETRY; in RETRY a send mark equal to the
expected sequence brings the link back to UP; a packet of the replay buffer that is named is removed with
every older one (LINK-ACK), or is sent again with every younger one, the older ones removed (RETRY-REQ); a
RETRY-REQ for the next send sequence empties the buffer and is answered with a LINK-ACK, which acknowledges
what was accepted as any other LINK-ACK does (10 R167, R173; DEDUCED, log entry 12); any other number does
nothing. The replay count and the replay timer follow the progress. -/
def Obligations.AcknowledgementsAct : Prop :=
  ∀ (s : State) (x : Link) (number mark : Byte),
    let l : LinkCtl := if (linkOf s x).state = .retry ∧ mark.toNat = (linkOf s x).expected.toNat
      then { linkOf s x with state := .up, retryCount := 0, retryTimer := .stopped }
      else linkOf s x
    let named (p : Seq × HubPacket) : Prop := p.1.toNat = number.toNat
    let plain (u : State) (k : LinkCtl) : State := { u with links := s.links.set x k }
    (inService s x = false →
      exec (.linkAck x number mark) s = .next s ∧ exec (.retryReq x number mark) s = .next s) ∧
    (inService s x = true →
      (∀ before p after, l.replay = before ++ p :: after → named p → (∀ q ∈ before, ¬ named q) →
        exec (.linkAck x number mark) s = .next (plain (beginEvent s) { l with
          replay := after, replayCount := 0
          replayTimer := if after = [] then .stopped else .running 64 }) ∧
        exec (.retryReq x number mark) s = .next (plain
          (carries s x ((p :: after).map fun q => .sequenced q.1 q.2)) { l with
          replay := p :: after
          replayCount := if before = [] then l.replayCount else 0
          replayTimer := .running 64 })) ∧
      ((∀ q ∈ l.replay, ¬ named q) →
        exec (.linkAck x number mark) s = .next (plain (beginEvent s) l) ∧
        (number.toNat = l.nextSend.toNat → exec (.retryReq x number mark) s = .next (plain
          (carries s x [.linkAck (l.expected - 1) l.nextSend]) { l with
          replay := [], replayTimer := .stopped, unacked := 0, ackTimer := .stopped
          replayCount := if l.replay = [] then l.replayCount else 0 })) ∧
        (number.toNat ≠ l.nextSend.toNat →
          exec (.retryReq x number mark) s = .next (plain (beginEvent s) l))))

/-- The timers of an UP or RETRY link (10 R173, R174, R177): the ack timer sends a LINK-ACK; the retry timer
sends RETRY-REQ again and at a count of 8 resets the link; the replay timer sends the buffer again and at a
count of 4 resets the link. The hub sends LINK-RESET where it causes the reset (10 R179). A timer of a link
that does not run does not expire, nor a retry timer outside RETRY or a replay timer outside UP and RETRY
(10 R173, R174, R177; log entry 2). A link is in service in UP and RETRY. -/
def Obligations.LinkTimersExpire : Prop :=
  (∀ (s : State) (x : Link) (n : Nat),
     let l := linkOf s x
     (l.ackTimer = .running n →
       exec (.ackTimerExpiry x) s = .next { carries s x [.linkAck (l.expected - 1) l.nextSend] with
         links := s.links.set x { l with unacked := 0, ackTimer := .stopped } }) ∧
     (l.state = .retry → l.retryTimer = .running n →
       (l.retryCount < 8 →
         exec (.retryTimerExpiry x) s = .next { carries s x [.retryReq l.expected l.nextSend] with
           links := s.links.set x { l with
             retryCount := l.retryCount + 1, retryTimer := .running 16, unacked := 0
             ackTimer := .stopped } }) ∧
       (8 ≤ l.retryCount →
         answers (.retryTimerExpiry x) s (resetAt (carries s x [.linkReset]) x .retry))) ∧
     (inService s x = true → l.replayTimer = .running n →
       (l.replayCount < 4 → exec (.replayTimerExpiry x) s = .next
         { carries s x (l.replay.map fun p => .sequenced p.1 p.2) with
           links := s.links.set x { l with
             replayCount := l.replayCount + 1, replayTimer := .running 64 } }) ∧
       (4 ≤ l.replayCount →
         answers (.replayTimerExpiry x) s (resetAt (carries s x [.linkReset]) x .replay)))) ∧
  (∀ (s : State) (x : Link),
     let l := linkOf s x
     ((∀ n, l.ackTimer ≠ .running n) → idles (.ackTimerExpiry x) s) ∧
     (l.state ≠ .retry ∨ (∀ n, l.retryTimer ≠ .running n) → idles (.retryTimerExpiry x) s) ∧
     (inService s x = false ∨ (∀ n, l.replayTimer ≠ .running n) → idles (.replayTimerExpiry x) s) ∧
     (inService s x = true ↔ l.state = .up ∨ l.state = .retry))

/-- LINK-RESET (10 R179) and a link reset at the blocks beside the Transaction Table (10 R180; 05 R98; 06
R114; 09 R166; 04 R81): the entries of the link go and their waiters are examined again; the Notice Queue
and the Recent Line List of the link are empty, its counter is 0, and the writes that waited there go to
REPLY, or are freed as orphans; its reply list is empty and its claim FREE with SHADOW reverted; tenure that
it holds is to leave it for nobody, whatever it was due to, with the idle timer stopped and the idle
condition judged under the narrowed gate. That all entries go before the waiters of any is examined is
DEDUCED (log entry 19); the model's choices are that the idle condition is judged again there without a load
of the timer (log entry 10) and that the count of discarded management packets is kept (log entry 24). The
slots at a link reset (01 R15, R23): those of the link in INTAKE, QUEUED, FENCE-WAIT and REPLY are freed,
those in ACCESS, MERGE and NOTIFY are marked orphan; each slot that is left, of either link, whose
predecessor was freed chooses again among the slots that are left, and keeps everything else; the response
queue of the link is empty, and the counters stay. -/
def Obligations.LinkResetIsTaken : Prop :=
  (∀ (s : State) (x : Link),
     (inService s x = true → answers (.linkReset x) s (resetAt (beginEvent s) x .partnerReset)) ∧
     (inService s x = false → exec (.linkReset x) s = .next s) ∧
     removeLocks s (fun e => e.holder = x) =
       ((locksOf s x).flatMap fun e => (waitList s e.block).map fun p => p.1).foldl reexamineWaiter
         { s with locks := s.locks.filter fun e => e.holder ≠ x } ∧
     (noticeLaw s →
       let waits (i : Nat) : Prop := ∃ e ∈ (targetOf s x).queue, i ∈ e.waiters
       ∃ t, discardTarget s x = t ∧
         (∀ i u, slotAt s i = some u →
           (¬ waits i → slotAt t i = some u) ∧
           (waits i → u.orphan = true → slotAt t i = none) ∧
           (waits i → u.orphan = false → slotAt t i = some { u with
             state := .reply
             status := some (if u.stale then .staleNotice else .ok)
             replySince := s.event })) ∧
         (∀ i, slotAt s i = none → slotAt t i = none) ∧
         (∀ z, ∃ l : List Nat, t.table.responses.get z = s.table.responses.get z ++ l ∧ l.Nodup ∧
           ∀ i, i ∈ l ↔ waits i ∧ ∃ u, slotAt s i = some u ∧ u.orphan = false ∧ u.link = z) ∧
         t = { s with
           table := { s.table with slots := t.table.slots, responses := t.table.responses }
           notices := s.notices.set x ⟨[], [], 0⟩ }) ∧
     (s.mgmt.claim ≠ some x → mgmtLinkReset s x = { s with
       mgmt := { s.mgmt with replies := s.mgmt.replies.set x [] } }) ∧
     (s.mgmt.claim = some x → mgmtLinkReset s x = { s with
       mgmt := { s.mgmt with
         replies := s.mgmt.replies.set x [], claim := none, lease := .stopped }
       xlate := if s.xlate.commit = .draining then { s.xlate with heldRevert := true }
         else { s.xlate with shadow := s.xlate.active } }) ∧
     (s.tenure.holder ≠ some x → tenureLinkReset s x = s) ∧
     (s.tenure.holder = some x →
       let u : State := { s with tenure := { s.tenure with due := .toNone, idle := .stopped } }
       tenureLinkReset s x = { u with tenure := { u.tenure with idleNow := holderIdle u x } })) ∧
  (∀ (s : State) (x : Link), ∃ left : State,
     let freed (t : Txn) : Prop := t.link = x ∧
       (t.state = .intake ∨ t.state = .queued ∨ t.state = .fenceWait ∨ t.state = .reply)
     let gone (p : Nat) : Prop := ∃ u, slotAt s p = some u ∧ freed u
     (∀ i t, slotAt s i = some t →
       (freed t → slotAt left i = none) ∧
       (t.link = x → t.state = .access ∨ t.state = .merge ∨ t.state = .notify →
         slotAt left i = some { t with orphan := true }) ∧
       (t.link ≠ x → slotAt left i = some t)) ∧
     (∀ i, slotAt s i = none → slotAt left i = none) ∧
     left = { s with table := { s.table with
       slots := left.table.slots, responses := s.table.responses.set x [] } } ∧
     (∀ i t, slotAt left i = some t →
       (∀ p, t.pred = some p → gone p →
         slotAt (tableLinkReset s x) i = some { t with pred := choosePred left i t }) ∧
       ((∀ p, t.pred = some p → ¬ gone p) → slotAt (tableLinkReset s x) i = some t)) ∧
     (∀ i, slotAt left i = none → slotAt (tableLinkReset s x) i = none) ∧
     tableLinkReset s x = { left with table := { left.table with
       slots := (tableLinkReset s x).table.slots } })

/-- When a source of sequenced packets may be taken (10 R175, R181): the link is UP and its replay buffer
holds fewer than 32 packets; a head is taken that no other head has been ready longer than; while restart
due is yes nothing is taken but, first, the decided reply on the link that sent HUB-RESET. What the taking
of the other sources sends and leaves (10 R175, R177, R178, R181; 09 R149, R161): a MGMT-REPLY, for which a
management credit is owed; a NOTICE; an ALERT with the oldest record; a CREDIT with the owed counts, which
return to 0; and the restarting CREDIT, after which restart due is no. A source other than RESPONSE that may
not be taken is not: nothing changes (10 R175, R181; log entry 2). -/
def Obligations.SourcesAreTaken : Prop :=
  (∀ (s : State) (x : Link) (src : Source),
     let l := linkOf s x
     (mayTake s x src = true ↔ l.state = .up ∧ l.replay.length < 32 ∧
       (l.restartDue = false → ∃ n, readySince s x src = some n ∧
         ∀ other m, readySince s x other = some m → n ≤ m) ∧
       (l.restartDue = true → src = .reply ∧ l.resetReplyDue = true ∧
         ∃ e rest, s.mgmt.replies.get x = e :: rest ∧ e.status ≠ none)) ∧
     readySince s x .credit = (if l.owedRequests = 0 ∧ l.owedMgmt = 0 then none
       else some l.owedSince) ∧
     readySince s x .notice = (l.notices.head?.map fun n => n.readySince) ∧
     (s.mgmt.replies.get x = [] → readySince s x .reply = none) ∧
     (∀ e rest, s.mgmt.replies.get x = e :: rest →
       readySince s x .reply = if e.status = none then none else some e.readySince) ∧
     (s.table.responses.get x = [] → readySince s x .response = none) ∧
     (∀ i rest t, s.table.responses.get x = i :: rest → slotAt s i = some t →
       readySince s x .response = some t.replySince) ∧
     readySince s x .alert = (if s.settings.mgmt.alertLink = x
       then s.mgmt.alerts.head?.map fun a => a.readySince else none)) ∧
  (∀ (s : State) (x : Link),
     let l := linkOf s x
     let goes (p : HubPacket) (k : LinkCtl → LinkCtl) : State :=
       { carries s x [.sequenced l.nextSend p] with links := s.links.set x (k (sent l p)) }
     let credited : State := goes (.credit l.owedRequests l.owedMgmt) fun k =>
       { k with owedRequests := 0, owedMgmt := 0 }
     (∀ e rest st, mayTake s x .reply = true → s.mgmt.replies.get x = e :: rest →
       e.status = some st →
       exec (.sendMgmtReply x) s = .next { goes (.mgmtReply e.kind st e.value) (fun k => { k with
           resetReplyDue := false
           owedMgmt := k.owedMgmt + 1
           owedSince := if k.owedRequests = 0 ∧ k.owedMgmt = 0 then s.event + 1
             else k.owedSince }) with
         mgmt := { s.mgmt with replies := s.mgmt.replies.set x rest } }) ∧
     (∀ n rest, mayTake s x .notice = true → l.notices = n :: rest →
       exec (.sendNotice x) s = .next (goes (.notice n.number n.addr) fun k =>
         { k with notices := rest })) ∧
     (∀ a rest, mayTake s x .alert = true → s.mgmt.alerts = a :: rest →
       exec .sendAlert s = .next { goes (.alert a) id with
         mgmt := { s.mgmt with alerts := rest } }) ∧
     (mayTake s x .credit = true → exec (.sendCredit x) s = .next credited) ∧
     (l.state = .up → l.replay.length < 32 → l.restartDue = true → l.resetReplyDue = false →
       exec (.restartingCredit x) s = .next { credited with
         links := credited.links.set x { linkOf credited x with restartDue := false } })) ∧
  (∀ (s : State) (x : Link),
     let l := linkOf s x
     (mayTake s x .reply = false → idles (.sendMgmtReply x) s) ∧
     (mayTake s x .notice = false → idles (.sendNotice x) s) ∧
     (mayTake s x .credit = false → idles (.sendCredit x) s) ∧
     (mayTake s s.settings.mgmt.alertLink .alert = false → idles .sendAlert s) ∧
     (l.state ≠ .up ∨ 32 ≤ l.replay.length ∨ l.restartDue = false ∨ l.resetReplyDue = true →
       idles (.restartingCredit x) s))

/-! ## What every step keeps -/

/-- The laws that the statements below say every step keeps hold right after reset. -/
def Obligations.ResetSatisfiesTheLaws : Prop :=
  slotsLaw State.reset ∧ debtLaw State.reset ∧ alertLaw State.reset ∧ replyLaw State.reset ∧
    linkLaw State.reset ∧ tablesLaw State.reset ∧ lockLaw State.reset ∧ recentLaw State.reset ∧
    dramLaw State.reset ∧ settingsLaw State.reset ∧ creditLaw State.reset ∧ epochLaw State.reset ∧
    tenureLaw State.reset ∧ sharedLaw State.reset ∧ liveLaw State.reset ∧ fenceLaw State.reset ∧
    flightLaw State.reset ∧ positionLaw State.reset ∧ noticeLaw State.reset ∧
    bankLaw State.reset ∧ openRowsLaw State.reset

/-- The canonical form of the DRAM's bytes and of its bits in error: every step keeps it. -/
def Obligations.StepKeepsTheMemoryForm : Prop :=
  ∀ s t : State, dramLaw s → step s = .next t → dramLaw t

/-- The bounds of the blocks' counts and lists: every step keeps them. 48 slots (01 R1), a debt of at most 8
(07 R119), at most 16 alerts and a drop count of at most 255 (09 R160), at most 2 replies listed (09 R148),
the counts of a link (10 R167), 16 windows and 32 regions (02 R34), at most one lock entry on a block and 2
for a link (05 R87), at most 8 lines and none twice in a Recent Line List (06 R109), at most 16 entries in a
Notice Queue with no line and no SENT number twice (06 R101, R105, R107), a position last granted that is
one of the 16 (03 R56), and, with the settings in their ranges, in each rank's open-row list each bank at
most once, exactly the banks of the rank that are OPEN or ACTIVATING, and at most as many as the limit in
force (03 R51), together with what that rests on: the number of bank records, the reservations, and no row
open outside RUN and QUIESCING. -/
def Obligations.StepKeepsTheBounds : Prop :=
  ∀ s t : State, step s = .next t →
    (slotsLaw s → slotsLaw t) ∧ (debtLaw s → debtLaw t) ∧ (alertLaw s → alertLaw t) ∧
    (replyLaw s → replyLaw t) ∧ (linkLaw s → linkLaw t) ∧ (tablesLaw s → tablesLaw t) ∧
    (lockLaw s → lockLaw t) ∧ (recentLaw s → recentLaw t) ∧ (noticeLaw s → noticeLaw t) ∧
    (positionLaw s → positionLaw t) ∧
    (settingsLaw s ∧ bankLaw s ∧ openRowsLaw s → bankLaw t ∧ openRowsLaw t)

/-- The Transaction Table's own laws: that a link has at most as many live slots as its current limit (01
R3, R4), that at most one FENCE of a link waits (01 R5), and that a transaction in ACCESS or MERGE waits for
no lock entry (03 R54; 05 R91), every step keeps. -/
def Obligations.StepKeepsTheTable : Prop :=
  ∀ s t : State, step s = .next t →
    (liveLaw s → liveLaw t) ∧ (fenceLaw s → fenceLaw t) ∧ (flightLaw s → flightLaw t)

/-- The ranges of the settings fields (09 R155) and the sums of the credit limits (09 R157): every step
keeps them. -/
def Obligations.StepKeepsTheSettings : Prop :=
  ∀ s t : State, step s = .next t → (settingsLaw s → settingsLaw t) ∧ (creditLaw s → creditLaw t)

/-- One epoch (02 R39, R40): that every transaction in QUEUED, ACCESS or MERGE carries the current epoch,
and that none stands there unless the channel is RUN or QUIESCING, every step keeps. -/
def Obligations.StepKeepsOneEpoch : Prop :=
  ∀ s t : State, epochLaw s → step s = .next t → epochLaw t

/-- Tenure excludes (04 R69, R70): that every transaction in ACCESS or MERGE belongs to the link that holds
tenure, if one does, and that in SHARED mode there is no holder and every other tenure field is absent or
stopped, every step keeps. -/
def Obligations.StepKeepsTenureExclusive : Prop :=
  ∀ s t : State, tenureLaw s ∧ sharedLaw s → step s = .next t → tenureLaw t ∧ sharedLaw t

/-! ## Frames (chapter 11) -/

/-- A packet command that is well formed is read back from the frame a partner sends for it, with every
operand (11 section 11.1 to 11.10; 10 R169). A frame whose last two bytes are not the CRC of those before
them is a bad packet (10 R169). A good frame is judged by its header (11 R183): one that ends before the CRC
its length calls for is an unknown packet; else it is the command of its kind and of as many body bytes as
its length says. That the bytes beyond them are not read, and that a good frame without a sequence byte is
an unknown packet that carries none, is the model's choice (log entry 13). The CRC of a frame (11 section
11.1): generator x^16 + x^12 + x^5 + 1, initial value 0xFFFF, each byte most significant bit first, the
result not inverted. The frames of a partner (11 sections 11.1 to 11.3, 11.5, 11.7 to 11.9; R183): the kind
code, the sequence byte (0 in a link-level packet) and the body of each packet command, every number most
significant byte first, the bytes of a block from its lowest address on. A body of a length that its kind
does not allow, and a kind code that no partner sends, are unknown packets, which carry their sequence byte
if they are of no link-level kind (which carries none: log entry 13). The frames of the hub (11 sections
11.1, 11.2, 11.4 to 11.8): the kind code, the sequence number (0 in a link-level packet), the length and the
body of each packet it sends, and the codes of the statuses, of the kinds answered, of the alerts and of
their causes. A field that an alert has not is sent as 0, and its presence term is omitted. -/
def Obligations.FramesAreReadBack : Prop :=
  ((∀ (c : Instr) (x : Link) (frame : List Byte), c.wellFormed = true →
     frameOfCommand c = some (x, frame) → commandOfFrame x frame = c) ∧
   ∀ (x : Link) (payload : List Byte) (crc : BitVec 16),
     let frame := payload ++ bytesBE 2 crc.toNat
     (crc ≠ crc16 payload → commandOfFrame x frame = .receiveBadPacket x .crc) ∧
     (crc = crc16 payload →
       (payload.length < 2 → commandOfFrame x frame = .receiveUnknownPacket x none) ∧
       (∀ kind seq, payload = [kind, seq] ∨ (∃ a, payload = [kind, seq, a]) →
         commandOfFrame x frame = unknownPacket x kind seq) ∧
       (∀ kind seq (len : BitVec 16) body,
         payload = kind :: seq :: (bytesBE 2 len.toNat ++ body) →
         (body.length < len.toNat → commandOfFrame x frame = unknownPacket x kind seq) ∧
         (len.toNat ≤ body.length →
           commandOfFrame x frame = commandOfBody x kind seq (body.take len.toNat))))) ∧
  (crc16 [] = 0xFFFF ∧ ∀ (bytes : List Byte) (b : Byte), crc16 (bytes ++ [b]) =
     (List.range 8).foldl (fun (c : BitVec 16) _ => (c <<< 1) ^^^ (if c.getLsbD 15 then 0x1021#16 else 0#16))
       (crc16 bytes ^^^ (b.setWidth 16 <<< 8))) ∧
  ((let be (n v : Nat) : List Byte := (List.range n).map fun k => BitVec.ofNat 8 (v / 256 ^ (n - 1 - k))
    let block (b : Block) : List Byte := (List.range 32).map fun k => b.extractLsb' (8 * k) 8
    let sends (c : Instr) (x : Link) (kind seq : Byte) (body : List Byte) : Prop :=
      let payload := [kind, seq] ++ be 2 body.length ++ body
      frameOfCommand c = some (x, payload ++ be 2 (crc16 payload).toNat)
    ∀ (x : Link) (n tag count m : Byte) (a : LinkAddr) (masks : List Mask) (data : List Block)
      (u : BitVec 16) (v : BitVec 32) (e : BitVec 96),
      let reads := [tag, count, m] ++ be 5 a.toNat
      let writes := [tag, count, BitVec.ofNat 8 masks.length] ++ be 5 a.toNat ++
        masks.flatMap (fun w => be 4 w.toNat) ++ data.flatMap block
      let sets (c : Instr) (record field : Byte) : Prop := sends c x 0x21 n ([record, field] ++ be 4 v.toNat)
      sends (.read x n tag count m a) x 0x01 n reads ∧
      sends (.write x n tag count a masks data) x 0x02 n writes ∧
      sends (.lockRead x n tag count m a) x 0x03 n reads ∧
      sends (.lockWrite x n tag count a masks data) x 0x04 n writes ∧
      sends (.lockDrop x n tag u a) x 0x05 n ([tag] ++ be 2 u.toNat ++ be 5 a.toNat) ∧
      sends (.fence x n tag) x 0x06 n [tag] ∧
      sends (.noticeAck x n tag) x 0x10 n [tag] ∧ sends (.refreshCue x n) x 0x11 n [] ∧
      sends (.mgmtRead x n tag count) x 0x20 n [tag, count] ∧
      sets (.mgmtWrite x n tag count v) tag count ∧
      sets (.writeCreditLimit x n .a v) 0x01 0 ∧ sets (.writeCreditLimit x n .b v) 0x02 0 ∧
      sets (.writeTenureMode x n v) 0x03 0 ∧ sets (.writeOpenLimit x n v) 0x04 1 ∧
      sets (.writeRefreshMode x n v) 0x05 0 ∧ sets (.writeForceLevel x n v) 0x05 3 ∧
      sets (.writeCueLink x n v) 0x05 4 ∧ sets (.writeFilterEnable x n v) 0x06 2 ∧
      sets (.writeCorrThreshold x n v) 0x09 10 ∧ sets (.writeLease x n v) 0x0A 1 ∧
      sets (.writeAlertLink x n v) 0x0A 2 ∧
      sends (.tableRead x n tag count m) x 0x22 n [tag, count, m] ∧
      sends (.tableWrite x n tag count e) x 0x23 n ([tag, count] ++ be 12 e.toNat) ∧
      sends (.tableCommit x n) x 0x24 n [] ∧ sends (.tableRevert x n) x 0x25 n [] ∧
      sends (.claim x n) x 0x26 n [] ∧ sends (.release x n) x 0x27 n [] ∧
      sends (.channelStart x n) x 0x28 n [] ∧ sends (.channelQuiesce x n) x 0x29 n [] ∧
      sends (.channelResume x n) x 0x2A n [] ∧ sends (.hubReset x n) x 0x2B n [] ∧
      sends (.train x tag count m) x 0x70 0 [tag, count, m] ∧
      sends (.linkAck x tag count) x 0x71 0 [tag, count] ∧
      sends (.retryReq x tag count) x 0x72 0 [tag, count] ∧ sends (.linkReset x) x 0x73 0 []) ∧
   ∀ (x : Link) (kind seq : Byte) (body : List Byte),
     let lengths : List (Nat × Nat) := [(0x01, 8), (0x03, 8), (0x05, 8), (0x06, 1), (0x10, 1), (0x11, 0),
       (0x20, 2), (0x21, 6), (0x22, 3), (0x23, 14), (0x24, 0), (0x25, 0), (0x26, 0), (0x27, 0), (0x28, 0),
       (0x29, 0), (0x2A, 0), (0x2B, 0), (0x70, 3), (0x71, 2), (0x72, 2), (0x73, 0)]
     let unread : Prop := commandOfBody x kind seq body = unknownPacket x kind seq
     let written := kind = 0x02 ∨ kind = 0x04
     let masks := 4 * (body.getD 2 0).toNat
     (∀ p ∈ lengths, kind.toNat = p.1 → body.length ≠ p.2 → unread) ∧
     (¬ written → (∀ p ∈ lengths, kind.toNat ≠ p.1) → unread) ∧
     (written → body.length < 8 + masks ∨ (body.length - 8 - masks) % 32 ≠ 0 → unread) ∧
     (0x70 ≤ kind.toNat → kind.toNat ≤ 0x73 → unknownPacket x kind seq = .receiveUnknownPacket x none) ∧
     (kind.toNat < 0x70 ∨ 0x73 < kind.toNat →
       unknownPacket x kind seq = .receiveUnknownPacket x (some seq))) ∧
  ((let be (n v : Nat) : List Byte := (List.range n).map fun k => BitVec.ofNat 8 (v / 256 ^ (n - 1 - k))
    let byte (n : Nat) : Byte := BitVec.ofNat 8 n
    let sends (p : WirePacket) (kind seq : Byte) (body : List Byte) : Prop :=
      let payload := [kind, seq] ++ be 2 body.length ++ body
      frameOfPacket p = payload ++ be 2 (crc16 payload).toNat
    ∀ (n m : Seq) (tag : Byte) (st : MemStatus) (blocks : List (BlockStatus × Block)) (k : MgmtKind)
      (ms : MgmtStatus) (v : BitVec 32) (e : BitVec 96) (a : LinkAddr) (r : Alert) (i j : Nat) (seen : Bool),
      let goes (p : HubPacket) (kind : Byte) (body : List Byte) : Prop :=
        sends (.sequenced n p) kind (byte n.toNat) body
      let status := byte (memStatusCode st)
      let reply := [byte (mgmtKindCode k), byte (mgmtStatusCode ms)]
      goes (.readData tag st blocks) 0x41 ([tag, status, byte blocks.length] ++
        blocks.map (fun b => byte (blockStatusCode b.1)) ++
        blocks.flatMap fun b => (List.range 32).map fun i => b.2.extractLsb' (8 * i) 8) ∧
      goes (.writeDone tag st) 0x42 [tag, status] ∧ goes (.lockDone tag st) 0x43 [tag, status] ∧
      goes (.fenceDone tag st) 0x44 [tag, status] ∧
      goes (.mgmtReply k ms .none) 0x50 reply ∧
      goes (.mgmtReply k ms (.word v)) 0x50 (reply ++ be 4 v.toNat) ∧
      goes (.mgmtReply k ms (.entry e)) 0x50 (reply ++ be 12 e.toNat) ∧
      goes (.notice tag a) 0x51 ([tag] ++ be 5 a.toNat) ∧
      goes (.alert r) 0x52 ([byte (alertKindCode r.kind),
          byte ((if r.link = none then 0 else 1) + (if r.addr = none then 0 else 2) +
            (if r.cause = none then 0 else 4) + (if r.value = none then 0 else 8)),
          (if r.link = some .b then 1 else 0), byte ((r.cause.map causeCode).getD 0)] ++
        be 4 (r.addr.getD 0) ++ be 2 (r.value.getD 0) ++ be 4 r.time.toNat ++ [byte r.droppedBefore]) ∧
      goes (.credit i j) 0x53 [byte i, byte j, 0] ∧
      sends (.train i j seen) 0x70 0 [byte i, byte j, if seen then 1 else 0] ∧
      sends (.linkAck n m) 0x71 0 [byte n.toNat, byte m.toNat] ∧
      sends (.retryReq n m) 0x72 0 [byte n.toNat, byte m.toNat] ∧ sends .linkReset 0x73 0 []) ∧
   (∀ st, (st, memStatusCode st) ∈ [(MemStatus.ok, 0x00), (.malformed, 0x01), (.tagInUse, 0x02),
     (.notReady, 0x03), (.align, 0x04), (.unmapped, 0x05), (.range, 0x06), (.denied, 0x07),
     (.lockRefused, 0x08), (.lockLost, 0x09), (.poison, 0x0A), (.staleNotice, 0x0B)]) ∧
   (∀ st, (st, mgmtStatusCode st) ∈ [(MgmtStatus.ok, 0x00), (.notOwner, 0x01), (.claimed, 0x02),
     (.badIndex, 0x03), (.badValue, 0x04), (.wrongState, 0x05), (.busy, 0x06), (.commitTimeout, 0x07)]) ∧
   (∀ st, (st, blockStatusCode st) ∈ [(BlockStatus.ok, 0x00), (.corrected, 0x01), (.poison, 0x02)]) ∧
   (∀ k, (k, mgmtKindCode k) ∈ [(MgmtKind.mgmtRead, 0x20), (.mgmtWrite, 0x21), (.tableRead, 0x22),
     (.tableWrite, 0x23), (.tableCommit, 0x24), (.tableRevert, 0x25), (.claim, 0x26), (.release, 0x27),
     (.channelStart, 0x28), (.channelQuiesce, 0x29), (.channelResume, 0x2A), (.hubReset, 0x2B)]) ∧
   (∀ k, (k, alertKindCode k) ∈ [(AlertKind.linkDown, 0x01), (.protocol, 0x02), (.corrected, 0x03),
     (.uncorrectable, 0x04), (.lockBroken, 0x05), (.noticeTimeout, 0x06), (.cueMissing, 0x07),
     (.refreshOverrun, 0x08), (.leaseExpired, 0x09)]) ∧
   ∀ c, (c, causeCode c) ∈ [(Cause.requestOverrun, 0x01), (.mgmtOverrun, 0x02), (.unknownAck, 0x03),
     (.wrongCue, 0x04), (.unknownPacket, 0x05), (.read, 0x10), (.merge, 0x11), (.expiry, 0x20),
     (.quiesce, 0x21), (.retry, 0x30), (.replay, 0x31), (.partnerReset, 0x32), (.restart, 0x33)])
end

