-- ==== Sys2Proof/Laws/State.lean ====
section
/-! SUPPORT. The update operations, field by field: which fields each leaves as they are. Every lemma
lists them as one conjunction, which simp splits into its rewrite rules. -/

namespace Sys2Proof.Machine

/-! ## Pairs of links -/

@[simp] theorem PerLink.get_set {α : Type} (p : PerLink α) (x : Link) (v : α) :
    (p.set x v).get x = v := by cases x <;> rfl

theorem PerLink.get_set_ne {α : Type} (p : PerLink α) (x y : Link) (v : α) (h : y ≠ x) :
    (p.set x v).get y = p.get y := by cases x <;> cases y <;> first | rfl | exact absurd rfl h

@[simp] theorem PerLink.get_both {α : Type} (v : α) (x : Link) : (PerLink.both v).get x = v := by
  cases x <;> rfl

@[simp] theorem PerLink.get_mk {α : Type} (f : Link → α) (x : Link) :
    (PerLink.mk (f .a) (f .b)).get x = f x := by cases x <;> rfl

@[simp] theorem linkOf_modLink (s : State) (x : Link) (f : LinkCtl → LinkCtl) :
    linkOf (modLink s x f) x = f (linkOf s x) := by simp [linkOf, modLink]

/-- Changing one Link Controller leaves the other as it is. -/
theorem linkOf_modLink_ne (s : State) (x y : Link) (f : LinkCtl → LinkCtl) (h : y ≠ x) :
    linkOf (modLink s x f) y = linkOf s y := by simp [linkOf, modLink, PerLink.get_set_ne _ _ _ _ h]

@[simp] theorem targetOf_modTarget (s : State) (y : Link) (f : NoticeTarget → NoticeTarget) :
    targetOf (modTarget s y f) y = f (targetOf s y) := by simp [targetOf, modTarget]

/-- A Link Controller is read from the field `links` alone. -/
theorem linkOf_congr {s t : State} (h : t.links = s.links) (x : Link) : linkOf t x = linkOf s x := by
  simp [linkOf, h]

/-! ## The fields each update leaves -/

@[simp] theorem beginEvent_frame (s : State) :
    (beginEvent s).links = s.links ∧ (beginEvent s).table = s.table ∧
    (beginEvent s).xlate = s.xlate ∧ (beginEvent s).sched = s.sched ∧
    (beginEvent s).tenure = s.tenure ∧ (beginEvent s).locks = s.locks ∧
    (beginEvent s).notices = s.notices ∧ (beginEvent s).refresh = s.refresh ∧
    (beginEvent s).chan = s.chan ∧ (beginEvent s).dram = s.dram ∧ (beginEvent s).mgmt = s.mgmt ∧
    (beginEvent s).settings = s.settings ∧ (beginEvent s).free = s.free ∧
    (beginEvent s).pending = s.pending :=
  by
  simp [beginEvent]

@[simp] theorem modLink_frame (s : State) (x : Link) (f : LinkCtl → LinkCtl) :
    (modLink s x f).table = s.table ∧ (modLink s x f).xlate = s.xlate ∧
    (modLink s x f).sched = s.sched ∧ (modLink s x f).tenure = s.tenure ∧
    (modLink s x f).locks = s.locks ∧ (modLink s x f).notices = s.notices ∧
    (modLink s x f).refresh = s.refresh ∧ (modLink s x f).chan = s.chan ∧
    (modLink s x f).dram = s.dram ∧ (modLink s x f).mgmt = s.mgmt ∧
    (modLink s x f).settings = s.settings ∧ (modLink s x f).wire = s.wire ∧
    (modLink s x f).channelOut = s.channelOut ∧ (modLink s x f).event = s.event ∧
    (modLink s x f).free = s.free ∧ (modLink s x f).pending = s.pending :=
  by
  simp [modLink]

@[simp] theorem putOnWire_frame (s : State) (x : Link) (ps : List WirePacket) :
    (putOnWire s x ps).links = s.links ∧ (putOnWire s x ps).table = s.table ∧
    (putOnWire s x ps).xlate = s.xlate ∧ (putOnWire s x ps).sched = s.sched ∧
    (putOnWire s x ps).tenure = s.tenure ∧ (putOnWire s x ps).locks = s.locks ∧
    (putOnWire s x ps).notices = s.notices ∧ (putOnWire s x ps).refresh = s.refresh ∧
    (putOnWire s x ps).chan = s.chan ∧ (putOnWire s x ps).dram = s.dram ∧
    (putOnWire s x ps).mgmt = s.mgmt ∧ (putOnWire s x ps).settings = s.settings ∧
    (putOnWire s x ps).channelOut = s.channelOut ∧ (putOnWire s x ps).event = s.event ∧
    (putOnWire s x ps).free = s.free ∧ (putOnWire s x ps).pending = s.pending :=
  by
  simp [putOnWire]

@[simp] theorem sendDram_frame (s : State) (cs : List DramCommand) :
    (sendDram s cs).links = s.links ∧ (sendDram s cs).table = s.table ∧
    (sendDram s cs).xlate = s.xlate ∧ (sendDram s cs).sched = s.sched ∧
    (sendDram s cs).tenure = s.tenure ∧ (sendDram s cs).locks = s.locks ∧
    (sendDram s cs).notices = s.notices ∧ (sendDram s cs).refresh = s.refresh ∧
    (sendDram s cs).chan = s.chan ∧ (sendDram s cs).dram = s.dram ∧
    (sendDram s cs).mgmt = s.mgmt ∧ (sendDram s cs).settings = s.settings ∧
    (sendDram s cs).wire = s.wire ∧ (sendDram s cs).event = s.event ∧
    (sendDram s cs).free = s.free ∧ (sendDram s cs).pending = s.pending :=
  by
  simp [sendDram]

@[simp] theorem withSlots_frame (s : State) (l : List (Option Txn)) :
    (withSlots s l).links = s.links ∧ (withSlots s l).xlate = s.xlate ∧
    (withSlots s l).sched = s.sched ∧ (withSlots s l).tenure = s.tenure ∧
    (withSlots s l).locks = s.locks ∧ (withSlots s l).notices = s.notices ∧
    (withSlots s l).refresh = s.refresh ∧ (withSlots s l).chan = s.chan ∧
    (withSlots s l).dram = s.dram ∧ (withSlots s l).mgmt = s.mgmt ∧
    (withSlots s l).settings = s.settings ∧ (withSlots s l).wire = s.wire ∧
    (withSlots s l).channelOut = s.channelOut ∧ (withSlots s l).event = s.event ∧
    (withSlots s l).free = s.free ∧ (withSlots s l).pending = s.pending :=
  by
  simp [withSlots]

@[simp] theorem setSlot_frame (s : State) (i : Nat) (t : Option Txn) :
    (setSlot s i t).links = s.links ∧ (setSlot s i t).xlate = s.xlate ∧
    (setSlot s i t).sched = s.sched ∧ (setSlot s i t).tenure = s.tenure ∧
    (setSlot s i t).locks = s.locks ∧ (setSlot s i t).notices = s.notices ∧
    (setSlot s i t).refresh = s.refresh ∧ (setSlot s i t).chan = s.chan ∧
    (setSlot s i t).dram = s.dram ∧ (setSlot s i t).mgmt = s.mgmt ∧
    (setSlot s i t).settings = s.settings ∧ (setSlot s i t).wire = s.wire ∧
    (setSlot s i t).channelOut = s.channelOut ∧ (setSlot s i t).event = s.event ∧
    (setSlot s i t).free = s.free ∧ (setSlot s i t).pending = s.pending :=
  by
  simp [setSlot]

@[simp] theorem modSlot_frame (s : State) (i : Nat) (f : Txn → Txn) :
    (modSlot s i f).links = s.links ∧ (modSlot s i f).xlate = s.xlate ∧
    (modSlot s i f).sched = s.sched ∧ (modSlot s i f).tenure = s.tenure ∧
    (modSlot s i f).locks = s.locks ∧ (modSlot s i f).notices = s.notices ∧
    (modSlot s i f).refresh = s.refresh ∧ (modSlot s i f).chan = s.chan ∧
    (modSlot s i f).dram = s.dram ∧ (modSlot s i f).mgmt = s.mgmt ∧
    (modSlot s i f).settings = s.settings ∧ (modSlot s i f).wire = s.wire ∧
    (modSlot s i f).channelOut = s.channelOut ∧ (modSlot s i f).event = s.event ∧
    (modSlot s i f).free = s.free ∧ (modSlot s i f).pending = s.pending :=
  by
  simp [modSlot]

@[simp] theorem freeTxn_frame (s : State) (i : Nat) :
    (freeTxn s i).links = s.links ∧ (freeTxn s i).xlate = s.xlate ∧
    (freeTxn s i).sched = s.sched ∧ (freeTxn s i).tenure = s.tenure ∧
    (freeTxn s i).locks = s.locks ∧ (freeTxn s i).notices = s.notices ∧
    (freeTxn s i).refresh = s.refresh ∧ (freeTxn s i).chan = s.chan ∧
    (freeTxn s i).dram = s.dram ∧ (freeTxn s i).mgmt = s.mgmt ∧
    (freeTxn s i).settings = s.settings ∧ (freeTxn s i).wire = s.wire ∧
    (freeTxn s i).channelOut = s.channelOut ∧ (freeTxn s i).event = s.event ∧
    (freeTxn s i).free = s.free ∧ (freeTxn s i).pending = s.pending :=
  by
  simp [freeTxn]

@[simp] theorem modTarget_frame (s : State) (y : Link) (f : NoticeTarget → NoticeTarget) :
    (modTarget s y f).links = s.links ∧ (modTarget s y f).table = s.table ∧
    (modTarget s y f).xlate = s.xlate ∧ (modTarget s y f).sched = s.sched ∧
    (modTarget s y f).tenure = s.tenure ∧ (modTarget s y f).locks = s.locks ∧
    (modTarget s y f).refresh = s.refresh ∧ (modTarget s y f).chan = s.chan ∧
    (modTarget s y f).dram = s.dram ∧ (modTarget s y f).mgmt = s.mgmt ∧
    (modTarget s y f).settings = s.settings ∧ (modTarget s y f).wire = s.wire ∧
    (modTarget s y f).channelOut = s.channelOut ∧ (modTarget s y f).event = s.event ∧
    (modTarget s y f).free = s.free ∧ (modTarget s y f).pending = s.pending :=
  by
  simp [modTarget]

@[simp] theorem modBank_frame (s : State) (pos : Nat) (f : Bank → Bank) :
    (modBank s pos f).links = s.links ∧ (modBank s pos f).table = s.table ∧
    (modBank s pos f).xlate = s.xlate ∧ (modBank s pos f).tenure = s.tenure ∧
    (modBank s pos f).locks = s.locks ∧ (modBank s pos f).notices = s.notices ∧
    (modBank s pos f).refresh = s.refresh ∧ (modBank s pos f).chan = s.chan ∧
    (modBank s pos f).dram = s.dram ∧ (modBank s pos f).mgmt = s.mgmt ∧
    (modBank s pos f).settings = s.settings ∧ (modBank s pos f).wire = s.wire ∧
    (modBank s pos f).channelOut = s.channelOut ∧ (modBank s pos f).event = s.event ∧
    (modBank s pos f).free = s.free ∧ (modBank s pos f).pending = s.pending :=
  by
  simp [modBank]

@[simp] theorem takeLock_frame (s : State) (i : Nat) (x : Link) (block : Nat) :
    (takeLock s i x block).links = s.links ∧ (takeLock s i x block).table = s.table ∧
    (takeLock s i x block).xlate = s.xlate ∧ (takeLock s i x block).sched = s.sched ∧
    (takeLock s i x block).tenure = s.tenure ∧ (takeLock s i x block).notices = s.notices ∧
    (takeLock s i x block).refresh = s.refresh ∧ (takeLock s i x block).chan = s.chan ∧
    (takeLock s i x block).dram = s.dram ∧ (takeLock s i x block).mgmt = s.mgmt ∧
    (takeLock s i x block).settings = s.settings ∧ (takeLock s i x block).wire = s.wire ∧
    (takeLock s i x block).channelOut = s.channelOut ∧ (takeLock s i x block).event = s.event ∧
    (takeLock s i x block).free = s.free ∧ (takeLock s i x block).pending = s.pending :=
  by
  simp [takeLock]

@[simp] theorem modLock_frame (s : State) (block : Nat) (f : LockEntry → LockEntry) :
    (modLock s block f).links = s.links ∧ (modLock s block f).table = s.table ∧
    (modLock s block f).xlate = s.xlate ∧ (modLock s block f).sched = s.sched ∧
    (modLock s block f).tenure = s.tenure ∧ (modLock s block f).notices = s.notices ∧
    (modLock s block f).refresh = s.refresh ∧ (modLock s block f).chan = s.chan ∧
    (modLock s block f).dram = s.dram ∧ (modLock s block f).mgmt = s.mgmt ∧
    (modLock s block f).settings = s.settings ∧ (modLock s block f).wire = s.wire ∧
    (modLock s block f).channelOut = s.channelOut ∧ (modLock s block f).event = s.event ∧
    (modLock s block f).free = s.free ∧ (modLock s block f).pending = s.pending :=
  by
  simp [modLock]

@[simp] theorem withTenure_frame (s : State) (t : Tenure) :
    (withTenure s t).links = s.links ∧ (withTenure s t).table = s.table ∧
    (withTenure s t).xlate = s.xlate ∧ (withTenure s t).sched = s.sched ∧
    (withTenure s t).locks = s.locks ∧ (withTenure s t).notices = s.notices ∧
    (withTenure s t).refresh = s.refresh ∧ (withTenure s t).chan = s.chan ∧
    (withTenure s t).dram = s.dram ∧ (withTenure s t).mgmt = s.mgmt ∧
    (withTenure s t).settings = s.settings ∧ (withTenure s t).wire = s.wire ∧
    (withTenure s t).channelOut = s.channelOut ∧ (withTenure s t).event = s.event ∧
    (withTenure s t).free = s.free ∧ (withTenure s t).pending = s.pending :=
  by
  simp [withTenure]

@[simp] theorem withRefresh_frame (s : State) (r : Refresh) :
    (withRefresh s r).links = s.links ∧ (withRefresh s r).table = s.table ∧
    (withRefresh s r).xlate = s.xlate ∧ (withRefresh s r).sched = s.sched ∧
    (withRefresh s r).tenure = s.tenure ∧ (withRefresh s r).locks = s.locks ∧
    (withRefresh s r).notices = s.notices ∧ (withRefresh s r).chan = s.chan ∧
    (withRefresh s r).dram = s.dram ∧ (withRefresh s r).mgmt = s.mgmt ∧
    (withRefresh s r).settings = s.settings ∧ (withRefresh s r).wire = s.wire ∧
    (withRefresh s r).channelOut = s.channelOut ∧ (withRefresh s r).event = s.event ∧
    (withRefresh s r).free = s.free ∧ (withRefresh s r).pending = s.pending :=
  by
  simp [withRefresh]

@[simp] theorem storeField_frame (s : State) (f : Field) (v : Nat) :
    (storeField s f v).links = s.links ∧ (storeField s f v).table = s.table ∧
    (storeField s f v).xlate = s.xlate ∧ (storeField s f v).sched = s.sched ∧
    (storeField s f v).tenure = s.tenure ∧ (storeField s f v).locks = s.locks ∧
    (storeField s f v).notices = s.notices ∧ (storeField s f v).refresh = s.refresh ∧
    (storeField s f v).chan = s.chan ∧ (storeField s f v).dram = s.dram ∧
    (storeField s f v).mgmt = s.mgmt ∧ (storeField s f v).wire = s.wire ∧
    (storeField s f v).channelOut = s.channelOut ∧ (storeField s f v).event = s.event ∧
    (storeField s f v).free = s.free ∧ (storeField s f v).pending = s.pending :=
  by
  simp [storeField]

end Sys2Proof.Machine
end

