-- ==== Sys2Proof/Laws/Frames.lean ====
section
/-! SUPPORT. The fields each shared operation leaves as they are, one lemma for each operation. -/

namespace Sys2Proof.Machine

/-- A fold over states keeps what each of its steps keeps. -/
theorem foldl_keeps {β γ : Type} (π : State → γ) (f : State → β → State)
    (h : ∀ s b, π (f s b) = π s) : ∀ (l : List β) (s : State), π (l.foldl f s) = π s
  | [], _ => rfl
  | b :: l, s => (foldl_keeps π f h l (f s b)).trans (h s b)

@[simp] theorem raiseAlert_frame (s : State)
    (kind : AlertKind) (link : Option Link) (addr : Option Nat) (cause : Option Cause) (value : Option Nat) :
    (raiseAlert s kind link addr cause value).links = s.links ∧
    (raiseAlert s kind link addr cause value).table = s.table ∧
    (raiseAlert s kind link addr cause value).xlate = s.xlate ∧
    (raiseAlert s kind link addr cause value).sched = s.sched ∧
    (raiseAlert s kind link addr cause value).tenure = s.tenure ∧
    (raiseAlert s kind link addr cause value).locks = s.locks ∧
    (raiseAlert s kind link addr cause value).notices = s.notices ∧
    (raiseAlert s kind link addr cause value).refresh = s.refresh ∧
    (raiseAlert s kind link addr cause value).chan = s.chan ∧
    (raiseAlert s kind link addr cause value).dram = s.dram ∧
    (raiseAlert s kind link addr cause value).settings = s.settings ∧
    (raiseAlert s kind link addr cause value).wire = s.wire ∧
    (raiseAlert s kind link addr cause value).channelOut = s.channelOut ∧
    (raiseAlert s kind link addr cause value).event = s.event ∧
    (raiseAlert s kind link addr cause value).free = s.free ∧
    (raiseAlert s kind link addr cause value).pending = s.pending :=
  by
  unfold raiseAlert; dsimp only; (repeat' split) <;> simp

@[simp] theorem raiseProtocol_frame (s : State) (x : Link) (cause : Cause) (value : Option Nat) :
    (raiseProtocol s x cause value).links = s.links ∧
    (raiseProtocol s x cause value).table = s.table ∧
    (raiseProtocol s x cause value).xlate = s.xlate ∧
    (raiseProtocol s x cause value).sched = s.sched ∧
    (raiseProtocol s x cause value).tenure = s.tenure ∧
    (raiseProtocol s x cause value).locks = s.locks ∧
    (raiseProtocol s x cause value).notices = s.notices ∧
    (raiseProtocol s x cause value).refresh = s.refresh ∧
    (raiseProtocol s x cause value).chan = s.chan ∧
    (raiseProtocol s x cause value).dram = s.dram ∧
    (raiseProtocol s x cause value).settings = s.settings ∧
    (raiseProtocol s x cause value).wire = s.wire ∧
    (raiseProtocol s x cause value).channelOut = s.channelOut ∧
    (raiseProtocol s x cause value).event = s.event ∧
    (raiseProtocol s x cause value).free = s.free ∧
    (raiseProtocol s x cause value).pending = s.pending :=
  by
  unfold raiseProtocol; simp

@[simp] theorem modOpenRows_frame (s : State) (rank : Nat) (f : List Nat → List Nat) :
    (modOpenRows s rank f).links = s.links ∧ (modOpenRows s rank f).table = s.table ∧
    (modOpenRows s rank f).xlate = s.xlate ∧ (modOpenRows s rank f).tenure = s.tenure ∧
    (modOpenRows s rank f).locks = s.locks ∧ (modOpenRows s rank f).notices = s.notices ∧
    (modOpenRows s rank f).refresh = s.refresh ∧ (modOpenRows s rank f).chan = s.chan ∧
    (modOpenRows s rank f).dram = s.dram ∧ (modOpenRows s rank f).mgmt = s.mgmt ∧
    (modOpenRows s rank f).settings = s.settings ∧ (modOpenRows s rank f).wire = s.wire ∧
    (modOpenRows s rank f).channelOut = s.channelOut ∧ (modOpenRows s rank f).event = s.event ∧
    (modOpenRows s rank f).free = s.free ∧ (modOpenRows s rank f).pending = s.pending :=
  by
  unfold modOpenRows; dsimp only; (repeat' split) <;> simp

@[simp] theorem joinOpenRows_frame (s : State) (pos : Nat) :
    (joinOpenRows s pos).links = s.links ∧ (joinOpenRows s pos).table = s.table ∧
    (joinOpenRows s pos).xlate = s.xlate ∧ (joinOpenRows s pos).tenure = s.tenure ∧
    (joinOpenRows s pos).locks = s.locks ∧ (joinOpenRows s pos).notices = s.notices ∧
    (joinOpenRows s pos).refresh = s.refresh ∧ (joinOpenRows s pos).chan = s.chan ∧
    (joinOpenRows s pos).dram = s.dram ∧ (joinOpenRows s pos).mgmt = s.mgmt ∧
    (joinOpenRows s pos).settings = s.settings ∧ (joinOpenRows s pos).wire = s.wire ∧
    (joinOpenRows s pos).channelOut = s.channelOut ∧ (joinOpenRows s pos).event = s.event ∧
    (joinOpenRows s pos).free = s.free ∧ (joinOpenRows s pos).pending = s.pending :=
  by
  unfold joinOpenRows; simp

@[simp] theorem leaveOpenRows_frame (s : State) (pos : Nat) :
    (leaveOpenRows s pos).links = s.links ∧ (leaveOpenRows s pos).table = s.table ∧
    (leaveOpenRows s pos).xlate = s.xlate ∧ (leaveOpenRows s pos).tenure = s.tenure ∧
    (leaveOpenRows s pos).locks = s.locks ∧ (leaveOpenRows s pos).notices = s.notices ∧
    (leaveOpenRows s pos).refresh = s.refresh ∧ (leaveOpenRows s pos).chan = s.chan ∧
    (leaveOpenRows s pos).dram = s.dram ∧ (leaveOpenRows s pos).mgmt = s.mgmt ∧
    (leaveOpenRows s pos).settings = s.settings ∧ (leaveOpenRows s pos).wire = s.wire ∧
    (leaveOpenRows s pos).channelOut = s.channelOut ∧ (leaveOpenRows s pos).event = s.event ∧
    (leaveOpenRows s pos).free = s.free ∧ (leaveOpenRows s pos).pending = s.pending :=
  by
  unfold leaveOpenRows; simp

@[simp] theorem touchOpenRows_frame (s : State) (pos : Nat) :
    (touchOpenRows s pos).links = s.links ∧ (touchOpenRows s pos).table = s.table ∧
    (touchOpenRows s pos).xlate = s.xlate ∧ (touchOpenRows s pos).tenure = s.tenure ∧
    (touchOpenRows s pos).locks = s.locks ∧ (touchOpenRows s pos).notices = s.notices ∧
    (touchOpenRows s pos).refresh = s.refresh ∧ (touchOpenRows s pos).chan = s.chan ∧
    (touchOpenRows s pos).dram = s.dram ∧ (touchOpenRows s pos).mgmt = s.mgmt ∧
    (touchOpenRows s pos).settings = s.settings ∧ (touchOpenRows s pos).wire = s.wire ∧
    (touchOpenRows s pos).channelOut = s.channelOut ∧ (touchOpenRows s pos).event = s.event ∧
    (touchOpenRows s pos).free = s.free ∧ (touchOpenRows s pos).pending = s.pending :=
  by
  unfold touchOpenRows; simp

@[simp] theorem enterReply_frame (s : State) (i : Nat) (status : MemStatus) :
    (enterReply s i status).links = s.links ∧ (enterReply s i status).xlate = s.xlate ∧
    (enterReply s i status).sched = s.sched ∧ (enterReply s i status).tenure = s.tenure ∧
    (enterReply s i status).locks = s.locks ∧ (enterReply s i status).notices = s.notices ∧
    (enterReply s i status).refresh = s.refresh ∧ (enterReply s i status).chan = s.chan ∧
    (enterReply s i status).dram = s.dram ∧ (enterReply s i status).mgmt = s.mgmt ∧
    (enterReply s i status).settings = s.settings ∧ (enterReply s i status).wire = s.wire ∧
    (enterReply s i status).channelOut = s.channelOut ∧ (enterReply s i status).event = s.event ∧
    (enterReply s i status).free = s.free ∧ (enterReply s i status).pending = s.pending :=
  by
  unfold enterReply; dsimp only; (repeat' split) <;> simp

@[simp] theorem finish_frame (s : State) (i : Nat) (status : MemStatus) :
    (finish s i status).links = s.links ∧ (finish s i status).xlate = s.xlate ∧
    (finish s i status).sched = s.sched ∧ (finish s i status).tenure = s.tenure ∧
    (finish s i status).locks = s.locks ∧ (finish s i status).notices = s.notices ∧
    (finish s i status).refresh = s.refresh ∧ (finish s i status).chan = s.chan ∧
    (finish s i status).dram = s.dram ∧ (finish s i status).mgmt = s.mgmt ∧
    (finish s i status).settings = s.settings ∧ (finish s i status).wire = s.wire ∧
    (finish s i status).channelOut = s.channelOut ∧ (finish s i status).event = s.event ∧
    (finish s i status).free = s.free ∧ (finish s i status).pending = s.pending :=
  by
  unfold finish; (repeat' split) <;> simp

@[simp] theorem revertShadow_frame (s : State) :
    (revertShadow s).links = s.links ∧ (revertShadow s).table = s.table ∧
    (revertShadow s).sched = s.sched ∧ (revertShadow s).tenure = s.tenure ∧
    (revertShadow s).locks = s.locks ∧ (revertShadow s).notices = s.notices ∧
    (revertShadow s).refresh = s.refresh ∧ (revertShadow s).chan = s.chan ∧
    (revertShadow s).dram = s.dram ∧ (revertShadow s).mgmt = s.mgmt ∧
    (revertShadow s).settings = s.settings ∧ (revertShadow s).wire = s.wire ∧
    (revertShadow s).channelOut = s.channelOut ∧ (revertShadow s).event = s.event ∧
    (revertShadow s).free = s.free ∧ (revertShadow s).pending = s.pending :=
  by
  unfold revertShadow; dsimp only; simp

@[simp] theorem revertAtFreeing_frame (s : State) :
    (revertAtFreeing s).links = s.links ∧ (revertAtFreeing s).table = s.table ∧
    (revertAtFreeing s).sched = s.sched ∧ (revertAtFreeing s).tenure = s.tenure ∧
    (revertAtFreeing s).locks = s.locks ∧ (revertAtFreeing s).notices = s.notices ∧
    (revertAtFreeing s).refresh = s.refresh ∧ (revertAtFreeing s).chan = s.chan ∧
    (revertAtFreeing s).dram = s.dram ∧ (revertAtFreeing s).mgmt = s.mgmt ∧
    (revertAtFreeing s).settings = s.settings ∧ (revertAtFreeing s).wire = s.wire ∧
    (revertAtFreeing s).channelOut = s.channelOut ∧ (revertAtFreeing s).event = s.event ∧
    (revertAtFreeing s).free = s.free ∧ (revertAtFreeing s).pending = s.pending :=
  by
  unfold revertAtFreeing; dsimp only; (repeat' split) <;> simp

@[simp] theorem clearRecent_frame (s : State) :
    (clearRecent s).links = s.links ∧ (clearRecent s).table = s.table ∧
    (clearRecent s).xlate = s.xlate ∧ (clearRecent s).sched = s.sched ∧
    (clearRecent s).tenure = s.tenure ∧ (clearRecent s).locks = s.locks ∧
    (clearRecent s).refresh = s.refresh ∧ (clearRecent s).chan = s.chan ∧
    (clearRecent s).dram = s.dram ∧ (clearRecent s).mgmt = s.mgmt ∧
    (clearRecent s).settings = s.settings ∧ (clearRecent s).wire = s.wire ∧
    (clearRecent s).channelOut = s.channelOut ∧ (clearRecent s).event = s.event ∧
    (clearRecent s).free = s.free ∧ (clearRecent s).pending = s.pending :=
  by
  unfold clearRecent; dsimp only; simp

@[simp] theorem makeHeldRevert_frame (s : State) :
    (makeHeldRevert s).links = s.links ∧ (makeHeldRevert s).table = s.table ∧
    (makeHeldRevert s).sched = s.sched ∧ (makeHeldRevert s).tenure = s.tenure ∧
    (makeHeldRevert s).locks = s.locks ∧ (makeHeldRevert s).notices = s.notices ∧
    (makeHeldRevert s).refresh = s.refresh ∧ (makeHeldRevert s).chan = s.chan ∧
    (makeHeldRevert s).dram = s.dram ∧ (makeHeldRevert s).mgmt = s.mgmt ∧
    (makeHeldRevert s).settings = s.settings ∧ (makeHeldRevert s).wire = s.wire ∧
    (makeHeldRevert s).channelOut = s.channelOut ∧ (makeHeldRevert s).event = s.event ∧
    (makeHeldRevert s).free = s.free ∧ (makeHeldRevert s).pending = s.pending :=
  by
  unfold makeHeldRevert; dsimp only; (repeat' split) <;> simp

@[simp] theorem commitSwitch_frame (s : State) :
    (commitSwitch s).links = s.links ∧ (commitSwitch s).table = s.table ∧
    (commitSwitch s).sched = s.sched ∧ (commitSwitch s).tenure = s.tenure ∧
    (commitSwitch s).locks = s.locks ∧ (commitSwitch s).refresh = s.refresh ∧
    (commitSwitch s).chan = s.chan ∧ (commitSwitch s).dram = s.dram ∧
    (commitSwitch s).mgmt = s.mgmt ∧ (commitSwitch s).settings = s.settings ∧
    (commitSwitch s).wire = s.wire ∧ (commitSwitch s).channelOut = s.channelOut ∧
    (commitSwitch s).event = s.event ∧ (commitSwitch s).free = s.free ∧
    (commitSwitch s).pending = s.pending :=
  by
  unfold commitSwitch; dsimp only; simp

@[simp] theorem abandonCommit_frame (s : State) :
    (abandonCommit s).links = s.links ∧ (abandonCommit s).table = s.table ∧
    (abandonCommit s).sched = s.sched ∧ (abandonCommit s).tenure = s.tenure ∧
    (abandonCommit s).locks = s.locks ∧ (abandonCommit s).notices = s.notices ∧
    (abandonCommit s).refresh = s.refresh ∧ (abandonCommit s).chan = s.chan ∧
    (abandonCommit s).dram = s.dram ∧ (abandonCommit s).mgmt = s.mgmt ∧
    (abandonCommit s).settings = s.settings ∧ (abandonCommit s).wire = s.wire ∧
    (abandonCommit s).channelOut = s.channelOut ∧ (abandonCommit s).event = s.event ∧
    (abandonCommit s).free = s.free ∧ (abandonCommit s).pending = s.pending :=
  by
  unfold abandonCommit; dsimp only; simp

@[simp] theorem orderingPoint_frame (s : State) (i : Nat) :
    (orderingPoint s i).links = s.links ∧ (orderingPoint s i).xlate = s.xlate ∧
    (orderingPoint s i).sched = s.sched ∧ (orderingPoint s i).tenure = s.tenure ∧
    (orderingPoint s i).locks = s.locks ∧ (orderingPoint s i).notices = s.notices ∧
    (orderingPoint s i).refresh = s.refresh ∧ (orderingPoint s i).chan = s.chan ∧
    (orderingPoint s i).dram = s.dram ∧ (orderingPoint s i).mgmt = s.mgmt ∧
    (orderingPoint s i).settings = s.settings ∧ (orderingPoint s i).wire = s.wire ∧
    (orderingPoint s i).channelOut = s.channelOut ∧ (orderingPoint s i).event = s.event ∧
    (orderingPoint s i).free = s.free ∧ (orderingPoint s i).pending = s.pending :=
  by
  unfold orderingPoint; dsimp only; (repeat' split) <;> simp

@[simp] theorem reexamine_frame (s : State) (gone : List Nat) :
    (reexamine s gone).links = s.links ∧ (reexamine s gone).xlate = s.xlate ∧
    (reexamine s gone).sched = s.sched ∧ (reexamine s gone).tenure = s.tenure ∧
    (reexamine s gone).locks = s.locks ∧ (reexamine s gone).notices = s.notices ∧
    (reexamine s gone).refresh = s.refresh ∧ (reexamine s gone).chan = s.chan ∧
    (reexamine s gone).dram = s.dram ∧ (reexamine s gone).mgmt = s.mgmt ∧
    (reexamine s gone).settings = s.settings ∧ (reexamine s gone).wire = s.wire ∧
    (reexamine s gone).channelOut = s.channelOut ∧ (reexamine s gone).event = s.event ∧
    (reexamine s gone).free = s.free ∧ (reexamine s gone).pending = s.pending :=
  by
  unfold reexamine; simp

@[simp] theorem settleFence_frame (s : State) (x : Link) :
    (settleFence s x).links = s.links ∧ (settleFence s x).xlate = s.xlate ∧
    (settleFence s x).sched = s.sched ∧ (settleFence s x).tenure = s.tenure ∧
    (settleFence s x).locks = s.locks ∧ (settleFence s x).notices = s.notices ∧
    (settleFence s x).refresh = s.refresh ∧ (settleFence s x).chan = s.chan ∧
    (settleFence s x).dram = s.dram ∧ (settleFence s x).mgmt = s.mgmt ∧
    (settleFence s x).settings = s.settings ∧ (settleFence s x).wire = s.wire ∧
    (settleFence s x).channelOut = s.channelOut ∧ (settleFence s x).event = s.event ∧
    (settleFence s x).free = s.free ∧ (settleFence s x).pending = s.pending :=
  by
  unfold settleFence; (repeat' split) <;> simp

@[simp] theorem waitOn_frame (s : State) (i block : Nat) :
    (waitOn s i block).links = s.links ∧ (waitOn s i block).xlate = s.xlate ∧
    (waitOn s i block).sched = s.sched ∧ (waitOn s i block).tenure = s.tenure ∧
    (waitOn s i block).locks = s.locks ∧ (waitOn s i block).notices = s.notices ∧
    (waitOn s i block).refresh = s.refresh ∧ (waitOn s i block).chan = s.chan ∧
    (waitOn s i block).dram = s.dram ∧ (waitOn s i block).mgmt = s.mgmt ∧
    (waitOn s i block).settings = s.settings ∧ (waitOn s i block).wire = s.wire ∧
    (waitOn s i block).channelOut = s.channelOut ∧ (waitOn s i block).event = s.event ∧
    (waitOn s i block).free = s.free ∧ (waitOn s i block).pending = s.pending :=
  by
  unfold waitOn; simp

@[simp] theorem reexamineWaiter_frame (s : State) (i : Nat) :
    (reexamineWaiter s i).links = s.links ∧ (reexamineWaiter s i).xlate = s.xlate ∧
    (reexamineWaiter s i).sched = s.sched ∧ (reexamineWaiter s i).tenure = s.tenure ∧
    (reexamineWaiter s i).notices = s.notices ∧ (reexamineWaiter s i).refresh = s.refresh ∧
    (reexamineWaiter s i).chan = s.chan ∧ (reexamineWaiter s i).dram = s.dram ∧
    (reexamineWaiter s i).mgmt = s.mgmt ∧ (reexamineWaiter s i).settings = s.settings ∧
    (reexamineWaiter s i).wire = s.wire ∧ (reexamineWaiter s i).channelOut = s.channelOut ∧
    (reexamineWaiter s i).event = s.event ∧ (reexamineWaiter s i).free = s.free ∧
    (reexamineWaiter s i).pending = s.pending :=
  by
  unfold reexamineWaiter; (repeat' split) <;> simp

@[simp] theorem removeLocks_frame (s : State) (p : LockEntry → Bool) :
    (removeLocks s p).links = s.links ∧ (removeLocks s p).xlate = s.xlate ∧
    (removeLocks s p).sched = s.sched ∧ (removeLocks s p).tenure = s.tenure ∧
    (removeLocks s p).notices = s.notices ∧ (removeLocks s p).refresh = s.refresh ∧
    (removeLocks s p).chan = s.chan ∧ (removeLocks s p).dram = s.dram ∧
    (removeLocks s p).mgmt = s.mgmt ∧ (removeLocks s p).settings = s.settings ∧
    (removeLocks s p).wire = s.wire ∧ (removeLocks s p).channelOut = s.channelOut ∧
    (removeLocks s p).event = s.event ∧ (removeLocks s p).free = s.free ∧
    (removeLocks s p).pending = s.pending :=
  by
  simp [removeLocks, foldl_keeps State.links, foldl_keeps State.xlate, foldl_keeps State.sched,
    foldl_keeps State.tenure, foldl_keeps State.notices, foldl_keeps State.refresh,
    foldl_keeps State.chan, foldl_keeps State.dram, foldl_keeps State.mgmt,
    foldl_keeps State.settings, foldl_keeps State.wire, foldl_keeps State.channelOut,
    foldl_keeps State.event, foldl_keeps State.free, foldl_keeps State.pending]

@[simp] theorem removeLock_frame (s : State) (block : Nat) :
    (removeLock s block).links = s.links ∧ (removeLock s block).xlate = s.xlate ∧
    (removeLock s block).sched = s.sched ∧ (removeLock s block).tenure = s.tenure ∧
    (removeLock s block).notices = s.notices ∧ (removeLock s block).refresh = s.refresh ∧
    (removeLock s block).chan = s.chan ∧ (removeLock s block).dram = s.dram ∧
    (removeLock s block).mgmt = s.mgmt ∧ (removeLock s block).settings = s.settings ∧
    (removeLock s block).wire = s.wire ∧ (removeLock s block).channelOut = s.channelOut ∧
    (removeLock s block).event = s.event ∧ (removeLock s block).free = s.free ∧
    (removeLock s block).pending = s.pending :=
  by
  unfold removeLock; simp

@[simp] theorem modEntry_frame (s : State) (y : Link) (line : Nat) (f : NoticeEntry → NoticeEntry) :
    (modEntry s y line f).links = s.links ∧ (modEntry s y line f).table = s.table ∧
    (modEntry s y line f).xlate = s.xlate ∧ (modEntry s y line f).sched = s.sched ∧
    (modEntry s y line f).tenure = s.tenure ∧ (modEntry s y line f).locks = s.locks ∧
    (modEntry s y line f).refresh = s.refresh ∧ (modEntry s y line f).chan = s.chan ∧
    (modEntry s y line f).dram = s.dram ∧ (modEntry s y line f).mgmt = s.mgmt ∧
    (modEntry s y line f).settings = s.settings ∧ (modEntry s y line f).wire = s.wire ∧
    (modEntry s y line f).channelOut = s.channelOut ∧ (modEntry s y line f).event = s.event ∧
    (modEntry s y line f).free = s.free ∧ (modEntry s y line f).pending = s.pending :=
  by
  unfold modEntry; simp

@[simp] theorem reserveNotices_frame (s : State) (i : Nat) (t : Txn) :
    (reserveNotices s i t).links = s.links ∧ (reserveNotices s i t).table = s.table ∧
    (reserveNotices s i t).xlate = s.xlate ∧ (reserveNotices s i t).sched = s.sched ∧
    (reserveNotices s i t).tenure = s.tenure ∧ (reserveNotices s i t).locks = s.locks ∧
    (reserveNotices s i t).refresh = s.refresh ∧ (reserveNotices s i t).chan = s.chan ∧
    (reserveNotices s i t).dram = s.dram ∧ (reserveNotices s i t).mgmt = s.mgmt ∧
    (reserveNotices s i t).settings = s.settings ∧ (reserveNotices s i t).wire = s.wire ∧
    (reserveNotices s i t).channelOut = s.channelOut ∧ (reserveNotices s i t).event = s.event ∧
    (reserveNotices s i t).free = s.free ∧ (reserveNotices s i t).pending = s.pending :=
  by
  simp [reserveNotices, foldl_keeps State.links, foldl_keeps State.table, foldl_keeps State.xlate,
    foldl_keeps State.sched, foldl_keeps State.tenure, foldl_keeps State.locks,
    foldl_keeps State.refresh, foldl_keeps State.chan, foldl_keeps State.dram,
    foldl_keeps State.mgmt, foldl_keeps State.settings, foldl_keeps State.wire,
    foldl_keeps State.channelOut, foldl_keeps State.event, foldl_keeps State.free,
    foldl_keeps State.pending]

@[simp] theorem sendEntry_frame (s : State) (y : Link) (line : Nat) :
    (sendEntry s y line).table = s.table ∧ (sendEntry s y line).xlate = s.xlate ∧
    (sendEntry s y line).sched = s.sched ∧ (sendEntry s y line).tenure = s.tenure ∧
    (sendEntry s y line).locks = s.locks ∧ (sendEntry s y line).refresh = s.refresh ∧
    (sendEntry s y line).chan = s.chan ∧ (sendEntry s y line).dram = s.dram ∧
    (sendEntry s y line).mgmt = s.mgmt ∧ (sendEntry s y line).settings = s.settings ∧
    (sendEntry s y line).wire = s.wire ∧ (sendEntry s y line).channelOut = s.channelOut ∧
    (sendEntry s y line).event = s.event ∧ (sendEntry s y line).free = s.free ∧
    (sendEntry s y line).pending = s.pending :=
  by
  unfold sendEntry; dsimp only; simp

@[simp] theorem performEntry_frame (s : State) (y : Link) (i line : Nat) :
    (performEntry y i s line).table = s.table ∧ (performEntry y i s line).xlate = s.xlate ∧
    (performEntry y i s line).sched = s.sched ∧ (performEntry y i s line).tenure = s.tenure ∧
    (performEntry y i s line).locks = s.locks ∧ (performEntry y i s line).refresh = s.refresh ∧
    (performEntry y i s line).chan = s.chan ∧ (performEntry y i s line).dram = s.dram ∧
    (performEntry y i s line).mgmt = s.mgmt ∧ (performEntry y i s line).settings = s.settings ∧
    (performEntry y i s line).wire = s.wire ∧
    (performEntry y i s line).channelOut = s.channelOut ∧
    (performEntry y i s line).event = s.event ∧ (performEntry y i s line).free = s.free ∧
    (performEntry y i s line).pending = s.pending :=
  by
  unfold performEntry; dsimp only; (repeat' split) <;> simp

@[simp] theorem performNotices_frame (s : State) (i : Nat) (t : Txn) :
    (performNotices s i t).table = s.table ∧ (performNotices s i t).xlate = s.xlate ∧
    (performNotices s i t).sched = s.sched ∧ (performNotices s i t).tenure = s.tenure ∧
    (performNotices s i t).locks = s.locks ∧ (performNotices s i t).refresh = s.refresh ∧
    (performNotices s i t).chan = s.chan ∧ (performNotices s i t).dram = s.dram ∧
    (performNotices s i t).mgmt = s.mgmt ∧ (performNotices s i t).settings = s.settings ∧
    (performNotices s i t).wire = s.wire ∧ (performNotices s i t).channelOut = s.channelOut ∧
    (performNotices s i t).event = s.event ∧ (performNotices s i t).free = s.free ∧
    (performNotices s i t).pending = s.pending :=
  by
  simp [performNotices, foldl_keeps State.table, foldl_keeps State.xlate, foldl_keeps State.sched,
    foldl_keeps State.tenure, foldl_keeps State.locks, foldl_keeps State.refresh,
    foldl_keeps State.chan, foldl_keeps State.dram, foldl_keeps State.mgmt,
    foldl_keeps State.settings, foldl_keeps State.wire, foldl_keeps State.channelOut,
    foldl_keeps State.event, foldl_keeps State.free, foldl_keeps State.pending]

@[simp] theorem giveUpClaims_frame (s : State) (i : Nat) (t : Txn) :
    (giveUpClaims s i t).links = s.links ∧ (giveUpClaims s i t).table = s.table ∧
    (giveUpClaims s i t).xlate = s.xlate ∧ (giveUpClaims s i t).sched = s.sched ∧
    (giveUpClaims s i t).tenure = s.tenure ∧ (giveUpClaims s i t).locks = s.locks ∧
    (giveUpClaims s i t).refresh = s.refresh ∧ (giveUpClaims s i t).chan = s.chan ∧
    (giveUpClaims s i t).dram = s.dram ∧ (giveUpClaims s i t).mgmt = s.mgmt ∧
    (giveUpClaims s i t).settings = s.settings ∧ (giveUpClaims s i t).wire = s.wire ∧
    (giveUpClaims s i t).channelOut = s.channelOut ∧ (giveUpClaims s i t).event = s.event ∧
    (giveUpClaims s i t).free = s.free ∧ (giveUpClaims s i t).pending = s.pending :=
  by
  unfold giveUpClaims; simp

@[simp] theorem leaveNotify_frame (s : State) (i : Nat) :
    (leaveNotify s i).links = s.links ∧ (leaveNotify s i).xlate = s.xlate ∧
    (leaveNotify s i).sched = s.sched ∧ (leaveNotify s i).tenure = s.tenure ∧
    (leaveNotify s i).locks = s.locks ∧ (leaveNotify s i).notices = s.notices ∧
    (leaveNotify s i).refresh = s.refresh ∧ (leaveNotify s i).chan = s.chan ∧
    (leaveNotify s i).dram = s.dram ∧ (leaveNotify s i).mgmt = s.mgmt ∧
    (leaveNotify s i).settings = s.settings ∧ (leaveNotify s i).wire = s.wire ∧
    (leaveNotify s i).channelOut = s.channelOut ∧ (leaveNotify s i).event = s.event ∧
    (leaveNotify s i).free = s.free ∧ (leaveNotify s i).pending = s.pending :=
  by
  unfold leaveNotify; (repeat' split) <;> simp

@[simp] theorem dropWait_frame (s : State) (y : Link) (timeout : Bool) (i : Nat) :
    (dropWait y timeout s i).links = s.links ∧ (dropWait y timeout s i).xlate = s.xlate ∧
    (dropWait y timeout s i).sched = s.sched ∧ (dropWait y timeout s i).tenure = s.tenure ∧
    (dropWait y timeout s i).locks = s.locks ∧ (dropWait y timeout s i).notices = s.notices ∧
    (dropWait y timeout s i).refresh = s.refresh ∧ (dropWait y timeout s i).chan = s.chan ∧
    (dropWait y timeout s i).dram = s.dram ∧ (dropWait y timeout s i).mgmt = s.mgmt ∧
    (dropWait y timeout s i).settings = s.settings ∧ (dropWait y timeout s i).wire = s.wire ∧
    (dropWait y timeout s i).channelOut = s.channelOut ∧
    (dropWait y timeout s i).event = s.event ∧ (dropWait y timeout s i).free = s.free ∧
    (dropWait y timeout s i).pending = s.pending :=
  by
  unfold dropWait; dsimp only; (repeat' split) <;> simp

@[simp] theorem dropWaiters_frame (s : State) (y : Link) (line : Nat) (timeout : Bool) :
    (dropWaiters s y line timeout).links = s.links ∧
    (dropWaiters s y line timeout).xlate = s.xlate ∧
    (dropWaiters s y line timeout).sched = s.sched ∧
    (dropWaiters s y line timeout).tenure = s.tenure ∧
    (dropWaiters s y line timeout).locks = s.locks ∧
    (dropWaiters s y line timeout).refresh = s.refresh ∧
    (dropWaiters s y line timeout).chan = s.chan ∧ (dropWaiters s y line timeout).dram = s.dram ∧
    (dropWaiters s y line timeout).mgmt = s.mgmt ∧
    (dropWaiters s y line timeout).settings = s.settings ∧
    (dropWaiters s y line timeout).wire = s.wire ∧
    (dropWaiters s y line timeout).channelOut = s.channelOut ∧
    (dropWaiters s y line timeout).event = s.event ∧
    (dropWaiters s y line timeout).free = s.free ∧
    (dropWaiters s y line timeout).pending = s.pending :=
  by
  simp [dropWaiters, foldl_keeps State.links, foldl_keeps State.xlate, foldl_keeps State.sched,
    foldl_keeps State.tenure, foldl_keeps State.locks, foldl_keeps State.refresh,
    foldl_keeps State.chan, foldl_keeps State.dram, foldl_keeps State.mgmt,
    foldl_keeps State.settings, foldl_keeps State.wire, foldl_keeps State.channelOut,
    foldl_keeps State.event, foldl_keeps State.free, foldl_keeps State.pending]

@[simp] theorem removeOrRearm_frame (s : State) (y : Link) (line : Nat) :
    (removeOrRearm s y line).links = s.links ∧ (removeOrRearm s y line).table = s.table ∧
    (removeOrRearm s y line).xlate = s.xlate ∧ (removeOrRearm s y line).sched = s.sched ∧
    (removeOrRearm s y line).tenure = s.tenure ∧ (removeOrRearm s y line).locks = s.locks ∧
    (removeOrRearm s y line).refresh = s.refresh ∧ (removeOrRearm s y line).chan = s.chan ∧
    (removeOrRearm s y line).dram = s.dram ∧ (removeOrRearm s y line).mgmt = s.mgmt ∧
    (removeOrRearm s y line).settings = s.settings ∧ (removeOrRearm s y line).wire = s.wire ∧
    (removeOrRearm s y line).channelOut = s.channelOut ∧
    (removeOrRearm s y line).event = s.event ∧ (removeOrRearm s y line).free = s.free ∧
    (removeOrRearm s y line).pending = s.pending :=
  by
  unfold removeOrRearm; simp

@[simp] theorem forgetRecent_frame (s : State) (y : Link) (lines : List Nat) :
    (forgetRecent s y lines).links = s.links ∧ (forgetRecent s y lines).table = s.table ∧
    (forgetRecent s y lines).xlate = s.xlate ∧ (forgetRecent s y lines).sched = s.sched ∧
    (forgetRecent s y lines).tenure = s.tenure ∧ (forgetRecent s y lines).locks = s.locks ∧
    (forgetRecent s y lines).refresh = s.refresh ∧ (forgetRecent s y lines).chan = s.chan ∧
    (forgetRecent s y lines).dram = s.dram ∧ (forgetRecent s y lines).mgmt = s.mgmt ∧
    (forgetRecent s y lines).settings = s.settings ∧ (forgetRecent s y lines).wire = s.wire ∧
    (forgetRecent s y lines).channelOut = s.channelOut ∧
    (forgetRecent s y lines).event = s.event ∧ (forgetRecent s y lines).free = s.free ∧
    (forgetRecent s y lines).pending = s.pending :=
  by
  unfold forgetRecent; simp

@[simp] theorem discardEntry_frame (s : State) (y : Link) (line : Nat) :
    (discardEntry y s line).links = s.links ∧ (discardEntry y s line).xlate = s.xlate ∧
    (discardEntry y s line).sched = s.sched ∧ (discardEntry y s line).tenure = s.tenure ∧
    (discardEntry y s line).locks = s.locks ∧ (discardEntry y s line).refresh = s.refresh ∧
    (discardEntry y s line).chan = s.chan ∧ (discardEntry y s line).dram = s.dram ∧
    (discardEntry y s line).mgmt = s.mgmt ∧ (discardEntry y s line).settings = s.settings ∧
    (discardEntry y s line).wire = s.wire ∧ (discardEntry y s line).channelOut = s.channelOut ∧
    (discardEntry y s line).event = s.event ∧ (discardEntry y s line).free = s.free ∧
    (discardEntry y s line).pending = s.pending :=
  by
  unfold discardEntry; dsimp only; simp

@[simp] theorem discardTarget_frame (s : State) (y : Link) :
    (discardTarget s y).links = s.links ∧ (discardTarget s y).xlate = s.xlate ∧
    (discardTarget s y).sched = s.sched ∧ (discardTarget s y).tenure = s.tenure ∧
    (discardTarget s y).locks = s.locks ∧ (discardTarget s y).refresh = s.refresh ∧
    (discardTarget s y).chan = s.chan ∧ (discardTarget s y).dram = s.dram ∧
    (discardTarget s y).mgmt = s.mgmt ∧ (discardTarget s y).settings = s.settings ∧
    (discardTarget s y).wire = s.wire ∧ (discardTarget s y).channelOut = s.channelOut ∧
    (discardTarget s y).event = s.event ∧ (discardTarget s y).free = s.free ∧
    (discardTarget s y).pending = s.pending :=
  by
  simp [discardTarget, foldl_keeps State.links, foldl_keeps State.xlate, foldl_keeps State.sched,
    foldl_keeps State.tenure, foldl_keeps State.locks, foldl_keeps State.refresh,
    foldl_keeps State.chan, foldl_keeps State.dram, foldl_keeps State.mgmt,
    foldl_keeps State.settings, foldl_keeps State.wire, foldl_keeps State.channelOut,
    foldl_keeps State.event, foldl_keeps State.free, foldl_keeps State.pending]

@[simp] theorem requestClose_frame (s : State) (pos : Nat) :
    (requestClose s pos).links = s.links ∧ (requestClose s pos).table = s.table ∧
    (requestClose s pos).xlate = s.xlate ∧ (requestClose s pos).tenure = s.tenure ∧
    (requestClose s pos).locks = s.locks ∧ (requestClose s pos).notices = s.notices ∧
    (requestClose s pos).refresh = s.refresh ∧ (requestClose s pos).chan = s.chan ∧
    (requestClose s pos).dram = s.dram ∧ (requestClose s pos).mgmt = s.mgmt ∧
    (requestClose s pos).settings = s.settings ∧ (requestClose s pos).wire = s.wire ∧
    (requestClose s pos).channelOut = s.channelOut ∧ (requestClose s pos).event = s.event ∧
    (requestClose s pos).free = s.free ∧ (requestClose s pos).pending = s.pending :=
  by
  unfold requestClose; simp

@[simp] theorem requestCloses_frame (s : State) (ps : List Nat) :
    (requestCloses s ps).links = s.links ∧ (requestCloses s ps).table = s.table ∧
    (requestCloses s ps).xlate = s.xlate ∧ (requestCloses s ps).tenure = s.tenure ∧
    (requestCloses s ps).locks = s.locks ∧ (requestCloses s ps).notices = s.notices ∧
    (requestCloses s ps).refresh = s.refresh ∧ (requestCloses s ps).chan = s.chan ∧
    (requestCloses s ps).dram = s.dram ∧ (requestCloses s ps).mgmt = s.mgmt ∧
    (requestCloses s ps).settings = s.settings ∧ (requestCloses s ps).wire = s.wire ∧
    (requestCloses s ps).channelOut = s.channelOut ∧ (requestCloses s ps).event = s.event ∧
    (requestCloses s ps).free = s.free ∧ (requestCloses s ps).pending = s.pending :=
  by
  simp [requestCloses, foldl_keeps State.links, foldl_keeps State.table, foldl_keeps State.xlate,
    foldl_keeps State.tenure, foldl_keeps State.locks, foldl_keeps State.notices,
    foldl_keeps State.refresh, foldl_keeps State.chan, foldl_keeps State.dram,
    foldl_keeps State.mgmt, foldl_keeps State.settings, foldl_keeps State.wire,
    foldl_keeps State.channelOut, foldl_keeps State.event, foldl_keeps State.free,
    foldl_keeps State.pending]

@[simp] theorem victimClose_frame (s : State) (rank : Nat) :
    (victimClose s rank).links = s.links ∧ (victimClose s rank).table = s.table ∧
    (victimClose s rank).xlate = s.xlate ∧ (victimClose s rank).tenure = s.tenure ∧
    (victimClose s rank).locks = s.locks ∧ (victimClose s rank).notices = s.notices ∧
    (victimClose s rank).refresh = s.refresh ∧ (victimClose s rank).chan = s.chan ∧
    (victimClose s rank).dram = s.dram ∧ (victimClose s rank).mgmt = s.mgmt ∧
    (victimClose s rank).settings = s.settings ∧ (victimClose s rank).wire = s.wire ∧
    (victimClose s rank).channelOut = s.channelOut ∧ (victimClose s rank).event = s.event ∧
    (victimClose s rank).free = s.free ∧ (victimClose s rank).pending = s.pending :=
  by
  unfold victimClose; (repeat' split) <;> simp

@[simp] theorem afterAccess_frame (s : State) (pos : Nat) :
    (afterAccess s pos).links = s.links ∧ (afterAccess s pos).table = s.table ∧
    (afterAccess s pos).xlate = s.xlate ∧ (afterAccess s pos).tenure = s.tenure ∧
    (afterAccess s pos).locks = s.locks ∧ (afterAccess s pos).notices = s.notices ∧
    (afterAccess s pos).refresh = s.refresh ∧ (afterAccess s pos).chan = s.chan ∧
    (afterAccess s pos).dram = s.dram ∧ (afterAccess s pos).mgmt = s.mgmt ∧
    (afterAccess s pos).settings = s.settings ∧ (afterAccess s pos).wire = s.wire ∧
    (afterAccess s pos).channelOut = s.channelOut ∧ (afterAccess s pos).event = s.event ∧
    (afterAccess s pos).free = s.free ∧ (afterAccess s pos).pending = s.pending :=
  by
  unfold afterAccess; (repeat' split) <;> simp

@[simp] theorem formBanks_frame (s : State) :
    (formBanks s).links = s.links ∧ (formBanks s).table = s.table ∧
    (formBanks s).xlate = s.xlate ∧ (formBanks s).tenure = s.tenure ∧
    (formBanks s).locks = s.locks ∧ (formBanks s).notices = s.notices ∧
    (formBanks s).refresh = s.refresh ∧ (formBanks s).chan = s.chan ∧
    (formBanks s).dram = s.dram ∧ (formBanks s).mgmt = s.mgmt ∧
    (formBanks s).settings = s.settings ∧ (formBanks s).wire = s.wire ∧
    (formBanks s).channelOut = s.channelOut ∧ (formBanks s).event = s.event ∧
    (formBanks s).free = s.free ∧ (formBanks s).pending = s.pending :=
  by
  unfold formBanks; dsimp only; simp

@[simp] theorem reformBanks_frame (s : State) :
    (reformBanks s).links = s.links ∧ (reformBanks s).table = s.table ∧
    (reformBanks s).xlate = s.xlate ∧ (reformBanks s).tenure = s.tenure ∧
    (reformBanks s).locks = s.locks ∧ (reformBanks s).notices = s.notices ∧
    (reformBanks s).refresh = s.refresh ∧ (reformBanks s).chan = s.chan ∧
    (reformBanks s).dram = s.dram ∧ (reformBanks s).mgmt = s.mgmt ∧
    (reformBanks s).settings = s.settings ∧ (reformBanks s).wire = s.wire ∧
    (reformBanks s).channelOut = s.channelOut ∧ (reformBanks s).event = s.event ∧
    (reformBanks s).free = s.free ∧ (reformBanks s).pending = s.pending :=
  by
  unfold reformBanks; dsimp only; (repeat' split) <;> simp

@[simp] theorem noteClocks_frame (s : State) (pos : Nat) :
    (noteClocks s pos).links = s.links ∧ (noteClocks s pos).table = s.table ∧
    (noteClocks s pos).xlate = s.xlate ∧ (noteClocks s pos).tenure = s.tenure ∧
    (noteClocks s pos).locks = s.locks ∧ (noteClocks s pos).notices = s.notices ∧
    (noteClocks s pos).refresh = s.refresh ∧ (noteClocks s pos).chan = s.chan ∧
    (noteClocks s pos).dram = s.dram ∧ (noteClocks s pos).mgmt = s.mgmt ∧
    (noteClocks s pos).settings = s.settings ∧ (noteClocks s pos).wire = s.wire ∧
    (noteClocks s pos).channelOut = s.channelOut ∧ (noteClocks s pos).event = s.event ∧
    (noteClocks s pos).free = s.free ∧ (noteClocks s pos).pending = s.pending :=
  by
  unfold noteClocks; split <;> simp

@[simp] theorem sleepBanks_frame (s : State) :
    (sleepBanks s).links = s.links ∧ (sleepBanks s).table = s.table ∧
    (sleepBanks s).xlate = s.xlate ∧ (sleepBanks s).tenure = s.tenure ∧
    (sleepBanks s).locks = s.locks ∧ (sleepBanks s).notices = s.notices ∧
    (sleepBanks s).refresh = s.refresh ∧ (sleepBanks s).chan = s.chan ∧
    (sleepBanks s).dram = s.dram ∧ (sleepBanks s).mgmt = s.mgmt ∧
    (sleepBanks s).settings = s.settings ∧ (sleepBanks s).wire = s.wire ∧
    (sleepBanks s).channelOut = s.channelOut ∧ (sleepBanks s).event = s.event ∧
    (sleepBanks s).free = s.free ∧ (sleepBanks s).pending = s.pending :=
  by
  unfold sleepBanks; dsimp only; simp

@[simp] theorem judgeIdle_frame (s : State) :
    (judgeIdle s).links = s.links ∧ (judgeIdle s).table = s.table ∧
    (judgeIdle s).xlate = s.xlate ∧ (judgeIdle s).sched = s.sched ∧
    (judgeIdle s).locks = s.locks ∧ (judgeIdle s).notices = s.notices ∧
    (judgeIdle s).refresh = s.refresh ∧ (judgeIdle s).chan = s.chan ∧
    (judgeIdle s).dram = s.dram ∧ (judgeIdle s).mgmt = s.mgmt ∧
    (judgeIdle s).settings = s.settings ∧ (judgeIdle s).wire = s.wire ∧
    (judgeIdle s).channelOut = s.channelOut ∧ (judgeIdle s).event = s.event ∧
    (judgeIdle s).free = s.free ∧ (judgeIdle s).pending = s.pending :=
  by
  unfold judgeIdle; dsimp only; (repeat' split) <;> simp

@[simp] theorem setDue_frame (s : State) (target : HandOver) :
    (setDue s target).links = s.links ∧ (setDue s target).table = s.table ∧
    (setDue s target).xlate = s.xlate ∧ (setDue s target).sched = s.sched ∧
    (setDue s target).locks = s.locks ∧ (setDue s target).notices = s.notices ∧
    (setDue s target).refresh = s.refresh ∧ (setDue s target).chan = s.chan ∧
    (setDue s target).dram = s.dram ∧ (setDue s target).mgmt = s.mgmt ∧
    (setDue s target).settings = s.settings ∧ (setDue s target).wire = s.wire ∧
    (setDue s target).channelOut = s.channelOut ∧ (setDue s target).event = s.event ∧
    (setDue s target).free = s.free ∧ (setDue s target).pending = s.pending :=
  by
  unfold setDue; dsimp only; (repeat' split) <;> simp

@[simp] theorem clearDue_frame (s : State) :
    (clearDue s).links = s.links ∧ (clearDue s).table = s.table ∧ (clearDue s).xlate = s.xlate ∧
    (clearDue s).sched = s.sched ∧ (clearDue s).locks = s.locks ∧
    (clearDue s).notices = s.notices ∧ (clearDue s).refresh = s.refresh ∧
    (clearDue s).chan = s.chan ∧ (clearDue s).dram = s.dram ∧ (clearDue s).mgmt = s.mgmt ∧
    (clearDue s).settings = s.settings ∧ (clearDue s).wire = s.wire ∧
    (clearDue s).channelOut = s.channelOut ∧ (clearDue s).event = s.event ∧
    (clearDue s).free = s.free ∧ (clearDue s).pending = s.pending :=
  by
  unfold clearDue; dsimp only; (repeat' split) <;> simp

@[simp] theorem wantDue_frame (s : State) :
    (wantDue s).links = s.links ∧ (wantDue s).table = s.table ∧ (wantDue s).xlate = s.xlate ∧
    (wantDue s).sched = s.sched ∧ (wantDue s).locks = s.locks ∧ (wantDue s).notices = s.notices ∧
    (wantDue s).refresh = s.refresh ∧ (wantDue s).chan = s.chan ∧ (wantDue s).dram = s.dram ∧
    (wantDue s).mgmt = s.mgmt ∧ (wantDue s).settings = s.settings ∧ (wantDue s).wire = s.wire ∧
    (wantDue s).channelOut = s.channelOut ∧ (wantDue s).event = s.event ∧
    (wantDue s).free = s.free ∧ (wantDue s).pending = s.pending :=
  by
  unfold wantDue; (repeat' split) <;> simp

@[simp] theorem passTenure_frame (s : State) (y : Link) :
    (passTenure s y).links = s.links ∧ (passTenure s y).table = s.table ∧
    (passTenure s y).xlate = s.xlate ∧ (passTenure s y).locks = s.locks ∧
    (passTenure s y).refresh = s.refresh ∧ (passTenure s y).chan = s.chan ∧
    (passTenure s y).dram = s.dram ∧ (passTenure s y).mgmt = s.mgmt ∧
    (passTenure s y).settings = s.settings ∧ (passTenure s y).wire = s.wire ∧
    (passTenure s y).channelOut = s.channelOut ∧ (passTenure s y).event = s.event ∧
    (passTenure s y).free = s.free ∧ (passTenure s y).pending = s.pending :=
  by
  unfold passTenure; dsimp only; (repeat' split) <;> simp

@[simp] theorem makePass_frame (s : State) (x : Link) :
    (makePass s x).links = s.links ∧ (makePass s x).table = s.table ∧
    (makePass s x).xlate = s.xlate ∧ (makePass s x).locks = s.locks ∧
    (makePass s x).refresh = s.refresh ∧ (makePass s x).chan = s.chan ∧
    (makePass s x).dram = s.dram ∧ (makePass s x).mgmt = s.mgmt ∧
    (makePass s x).settings = s.settings ∧ (makePass s x).wire = s.wire ∧
    (makePass s x).channelOut = s.channelOut ∧ (makePass s x).event = s.event ∧
    (makePass s x).free = s.free ∧ (makePass s x).pending = s.pending :=
  by
  unfold makePass; (repeat' split) <;> simp

@[simp] theorem makeGrant_frame (s : State) :
    (makeGrant s).links = s.links ∧ (makeGrant s).table = s.table ∧
    (makeGrant s).xlate = s.xlate ∧ (makeGrant s).locks = s.locks ∧
    (makeGrant s).refresh = s.refresh ∧ (makeGrant s).chan = s.chan ∧
    (makeGrant s).dram = s.dram ∧ (makeGrant s).mgmt = s.mgmt ∧
    (makeGrant s).settings = s.settings ∧ (makeGrant s).wire = s.wire ∧
    (makeGrant s).channelOut = s.channelOut ∧ (makeGrant s).event = s.event ∧
    (makeGrant s).free = s.free ∧ (makeGrant s).pending = s.pending :=
  by
  unfold makeGrant; (repeat' split) <;> simp

@[simp] theorem pauseTenure_frame (s : State) :
    (pauseTenure s).links = s.links ∧ (pauseTenure s).table = s.table ∧
    (pauseTenure s).xlate = s.xlate ∧ (pauseTenure s).sched = s.sched ∧
    (pauseTenure s).locks = s.locks ∧ (pauseTenure s).notices = s.notices ∧
    (pauseTenure s).refresh = s.refresh ∧ (pauseTenure s).chan = s.chan ∧
    (pauseTenure s).dram = s.dram ∧ (pauseTenure s).mgmt = s.mgmt ∧
    (pauseTenure s).settings = s.settings ∧ (pauseTenure s).wire = s.wire ∧
    (pauseTenure s).channelOut = s.channelOut ∧ (pauseTenure s).event = s.event ∧
    (pauseTenure s).free = s.free ∧ (pauseTenure s).pending = s.pending :=
  by
  unfold pauseTenure; dsimp only; simp

@[simp] theorem resumeTenure_frame (s : State) :
    (resumeTenure s).links = s.links ∧ (resumeTenure s).table = s.table ∧
    (resumeTenure s).xlate = s.xlate ∧ (resumeTenure s).sched = s.sched ∧
    (resumeTenure s).locks = s.locks ∧ (resumeTenure s).notices = s.notices ∧
    (resumeTenure s).refresh = s.refresh ∧ (resumeTenure s).chan = s.chan ∧
    (resumeTenure s).dram = s.dram ∧ (resumeTenure s).mgmt = s.mgmt ∧
    (resumeTenure s).settings = s.settings ∧ (resumeTenure s).wire = s.wire ∧
    (resumeTenure s).channelOut = s.channelOut ∧ (resumeTenure s).event = s.event ∧
    (resumeTenure s).free = s.free ∧ (resumeTenure s).pending = s.pending :=
  by
  unfold resumeTenure; dsimp only; simp

@[simp] theorem tenureLinkReset_frame (s : State) (x : Link) :
    (tenureLinkReset s x).links = s.links ∧ (tenureLinkReset s x).table = s.table ∧
    (tenureLinkReset s x).xlate = s.xlate ∧ (tenureLinkReset s x).sched = s.sched ∧
    (tenureLinkReset s x).locks = s.locks ∧ (tenureLinkReset s x).notices = s.notices ∧
    (tenureLinkReset s x).refresh = s.refresh ∧ (tenureLinkReset s x).chan = s.chan ∧
    (tenureLinkReset s x).dram = s.dram ∧ (tenureLinkReset s x).mgmt = s.mgmt ∧
    (tenureLinkReset s x).settings = s.settings ∧ (tenureLinkReset s x).wire = s.wire ∧
    (tenureLinkReset s x).channelOut = s.channelOut ∧ (tenureLinkReset s x).event = s.event ∧
    (tenureLinkReset s x).free = s.free ∧ (tenureLinkReset s x).pending = s.pending :=
  by
  unfold tenureLinkReset; (repeat' split) <;> simp

@[simp] theorem loadRefreshTimer_frame (s : State) :
    (loadRefreshTimer s).links = s.links ∧ (loadRefreshTimer s).table = s.table ∧
    (loadRefreshTimer s).xlate = s.xlate ∧ (loadRefreshTimer s).sched = s.sched ∧
    (loadRefreshTimer s).tenure = s.tenure ∧ (loadRefreshTimer s).locks = s.locks ∧
    (loadRefreshTimer s).notices = s.notices ∧ (loadRefreshTimer s).chan = s.chan ∧
    (loadRefreshTimer s).dram = s.dram ∧ (loadRefreshTimer s).mgmt = s.mgmt ∧
    (loadRefreshTimer s).settings = s.settings ∧ (loadRefreshTimer s).wire = s.wire ∧
    (loadRefreshTimer s).channelOut = s.channelOut ∧ (loadRefreshTimer s).event = s.event ∧
    (loadRefreshTimer s).free = s.free ∧ (loadRefreshTimer s).pending = s.pending :=
  by
  unfold loadRefreshTimer; dsimp only; simp

@[simp] theorem forceTest_frame (s : State) :
    (forceTest s).links = s.links ∧ (forceTest s).table = s.table ∧
    (forceTest s).xlate = s.xlate ∧ (forceTest s).locks = s.locks ∧
    (forceTest s).notices = s.notices ∧ (forceTest s).chan = s.chan ∧
    (forceTest s).dram = s.dram ∧ (forceTest s).mgmt = s.mgmt ∧
    (forceTest s).settings = s.settings ∧ (forceTest s).wire = s.wire ∧
    (forceTest s).channelOut = s.channelOut ∧ (forceTest s).event = s.event ∧
    (forceTest s).free = s.free ∧ (forceTest s).pending = s.pending :=
  by
  unfold forceTest; dsimp only; (repeat' split) <;> simp

@[simp] theorem addDebt_frame (s : State) :
    (addDebt s).links = s.links ∧ (addDebt s).table = s.table ∧ (addDebt s).xlate = s.xlate ∧
    (addDebt s).locks = s.locks ∧ (addDebt s).notices = s.notices ∧ (addDebt s).chan = s.chan ∧
    (addDebt s).dram = s.dram ∧ (addDebt s).settings = s.settings ∧ (addDebt s).wire = s.wire ∧
    (addDebt s).channelOut = s.channelOut ∧ (addDebt s).event = s.event ∧
    (addDebt s).free = s.free ∧ (addDebt s).pending = s.pending :=
  by
  unfold addDebt; dsimp only; (repeat' split) <;> simp

@[simp] theorem beginOpportunistic_frame (s : State) :
    (beginOpportunistic s).links = s.links ∧ (beginOpportunistic s).table = s.table ∧
    (beginOpportunistic s).xlate = s.xlate ∧ (beginOpportunistic s).locks = s.locks ∧
    (beginOpportunistic s).notices = s.notices ∧ (beginOpportunistic s).chan = s.chan ∧
    (beginOpportunistic s).dram = s.dram ∧ (beginOpportunistic s).mgmt = s.mgmt ∧
    (beginOpportunistic s).settings = s.settings ∧ (beginOpportunistic s).wire = s.wire ∧
    (beginOpportunistic s).channelOut = s.channelOut ∧ (beginOpportunistic s).event = s.event ∧
    (beginOpportunistic s).free = s.free ∧ (beginOpportunistic s).pending = s.pending :=
  by
  unfold beginOpportunistic; dsimp only; simp

@[simp] theorem tryEpisode_frame (s : State) :
    (tryEpisode s).links = s.links ∧ (tryEpisode s).table = s.table ∧
    (tryEpisode s).xlate = s.xlate ∧ (tryEpisode s).locks = s.locks ∧
    (tryEpisode s).notices = s.notices ∧ (tryEpisode s).chan = s.chan ∧
    (tryEpisode s).dram = s.dram ∧ (tryEpisode s).mgmt = s.mgmt ∧
    (tryEpisode s).settings = s.settings ∧ (tryEpisode s).wire = s.wire ∧
    (tryEpisode s).channelOut = s.channelOut ∧ (tryEpisode s).event = s.event ∧
    (tryEpisode s).free = s.free ∧ (tryEpisode s).pending = s.pending :=
  by
  unfold tryEpisode; (repeat' split) <;> simp

@[simp] theorem waitingToClosing_frame (s : State) :
    (waitingToClosing s).links = s.links ∧ (waitingToClosing s).table = s.table ∧
    (waitingToClosing s).xlate = s.xlate ∧ (waitingToClosing s).sched = s.sched ∧
    (waitingToClosing s).tenure = s.tenure ∧ (waitingToClosing s).locks = s.locks ∧
    (waitingToClosing s).notices = s.notices ∧ (waitingToClosing s).chan = s.chan ∧
    (waitingToClosing s).dram = s.dram ∧ (waitingToClosing s).mgmt = s.mgmt ∧
    (waitingToClosing s).settings = s.settings ∧ (waitingToClosing s).wire = s.wire ∧
    (waitingToClosing s).channelOut = s.channelOut ∧ (waitingToClosing s).event = s.event ∧
    (waitingToClosing s).free = s.free ∧ (waitingToClosing s).pending = s.pending :=
  by
  unfold waitingToClosing; dsimp only; (repeat' split) <;> simp

@[simp] theorem closingToRefreshing_frame (s : State) :
    (closingToRefreshing s).links = s.links ∧ (closingToRefreshing s).table = s.table ∧
    (closingToRefreshing s).xlate = s.xlate ∧ (closingToRefreshing s).sched = s.sched ∧
    (closingToRefreshing s).tenure = s.tenure ∧ (closingToRefreshing s).locks = s.locks ∧
    (closingToRefreshing s).notices = s.notices ∧ (closingToRefreshing s).chan = s.chan ∧
    (closingToRefreshing s).dram = s.dram ∧ (closingToRefreshing s).mgmt = s.mgmt ∧
    (closingToRefreshing s).settings = s.settings ∧ (closingToRefreshing s).wire = s.wire ∧
    (closingToRefreshing s).channelOut = s.channelOut ∧ (closingToRefreshing s).event = s.event ∧
    (closingToRefreshing s).free = s.free ∧ (closingToRefreshing s).pending = s.pending :=
  by
  unfold closingToRefreshing; dsimp only; (repeat' split) <;> simp

@[simp] theorem endEpisode_frame (s : State) :
    (endEpisode s).links = s.links ∧ (endEpisode s).table = s.table ∧
    (endEpisode s).xlate = s.xlate ∧ (endEpisode s).sched = s.sched ∧
    (endEpisode s).locks = s.locks ∧ (endEpisode s).notices = s.notices ∧
    (endEpisode s).chan = s.chan ∧ (endEpisode s).dram = s.dram ∧ (endEpisode s).mgmt = s.mgmt ∧
    (endEpisode s).settings = s.settings ∧ (endEpisode s).wire = s.wire ∧
    (endEpisode s).channelOut = s.channelOut ∧ (endEpisode s).event = s.event ∧
    (endEpisode s).free = s.free ∧ (endEpisode s).pending = s.pending :=
  by
  unfold endEpisode; dsimp only; simp

@[simp] theorem completeRound_frame (s : State) (kind : EpisodeKind) :
    (completeRound s kind).links = s.links ∧ (completeRound s kind).table = s.table ∧
    (completeRound s kind).xlate = s.xlate ∧ (completeRound s kind).sched = s.sched ∧
    (completeRound s kind).locks = s.locks ∧ (completeRound s kind).notices = s.notices ∧
    (completeRound s kind).chan = s.chan ∧ (completeRound s kind).dram = s.dram ∧
    (completeRound s kind).mgmt = s.mgmt ∧ (completeRound s kind).settings = s.settings ∧
    (completeRound s kind).wire = s.wire ∧ (completeRound s kind).channelOut = s.channelOut ∧
    (completeRound s kind).event = s.event ∧ (completeRound s kind).free = s.free ∧
    (completeRound s kind).pending = s.pending :=
  by
  unfold completeRound; dsimp only; (repeat' split) <;> simp

@[simp] theorem testRound_frame (s : State) :
    (testRound s).links = s.links ∧ (testRound s).table = s.table ∧
    (testRound s).xlate = s.xlate ∧ (testRound s).sched = s.sched ∧
    (testRound s).locks = s.locks ∧ (testRound s).notices = s.notices ∧
    (testRound s).chan = s.chan ∧ (testRound s).dram = s.dram ∧ (testRound s).mgmt = s.mgmt ∧
    (testRound s).settings = s.settings ∧ (testRound s).wire = s.wire ∧
    (testRound s).channelOut = s.channelOut ∧ (testRound s).event = s.event ∧
    (testRound s).free = s.free ∧ (testRound s).pending = s.pending :=
  by
  unfold testRound; (repeat' split) <;> simp

@[simp] theorem endLong_frame (s : State) (kind : LongKind) (status : MgmtStatus) (value : ReplyValue) :
    (endLong s kind status value).links = s.links ∧
    (endLong s kind status value).table = s.table ∧
    (endLong s kind status value).xlate = s.xlate ∧
    (endLong s kind status value).sched = s.sched ∧
    (endLong s kind status value).tenure = s.tenure ∧
    (endLong s kind status value).locks = s.locks ∧
    (endLong s kind status value).notices = s.notices ∧
    (endLong s kind status value).refresh = s.refresh ∧
    (endLong s kind status value).chan = s.chan ∧ (endLong s kind status value).dram = s.dram ∧
    (endLong s kind status value).settings = s.settings ∧
    (endLong s kind status value).wire = s.wire ∧
    (endLong s kind status value).channelOut = s.channelOut ∧
    (endLong s kind status value).event = s.event ∧ (endLong s kind status value).free = s.free ∧
    (endLong s kind status value).pending = s.pending :=
  by
  unfold endLong; dsimp only; (repeat' split) <;> simp

@[simp] theorem settleCommit_frame (s : State) :
    (settleCommit s).links = s.links ∧ (settleCommit s).table = s.table ∧
    (settleCommit s).sched = s.sched ∧ (settleCommit s).tenure = s.tenure ∧
    (settleCommit s).locks = s.locks ∧ (settleCommit s).refresh = s.refresh ∧
    (settleCommit s).chan = s.chan ∧ (settleCommit s).dram = s.dram ∧
    (settleCommit s).settings = s.settings ∧ (settleCommit s).wire = s.wire ∧
    (settleCommit s).channelOut = s.channelOut ∧ (settleCommit s).event = s.event ∧
    (settleCommit s).free = s.free ∧ (settleCommit s).pending = s.pending :=
  by
  unfold settleCommit; dsimp only; (repeat' split) <;> simp

@[simp] theorem settlePass_frame (s : State) :
    (settlePass s).links = s.links ∧ (settlePass s).table = s.table ∧
    (settlePass s).xlate = s.xlate ∧ (settlePass s).locks = s.locks ∧
    (settlePass s).chan = s.chan ∧ (settlePass s).dram = s.dram ∧ (settlePass s).mgmt = s.mgmt ∧
    (settlePass s).settings = s.settings ∧ (settlePass s).wire = s.wire ∧
    (settlePass s).channelOut = s.channelOut ∧ (settlePass s).event = s.event ∧
    (settlePass s).free = s.free ∧ (settlePass s).pending = s.pending :=
  by
  unfold settlePass; (repeat' split) <;> simp

@[simp] theorem settleGrant_frame (s : State) :
    (settleGrant s).links = s.links ∧ (settleGrant s).table = s.table ∧
    (settleGrant s).xlate = s.xlate ∧ (settleGrant s).locks = s.locks ∧
    (settleGrant s).chan = s.chan ∧ (settleGrant s).dram = s.dram ∧
    (settleGrant s).mgmt = s.mgmt ∧ (settleGrant s).settings = s.settings ∧
    (settleGrant s).wire = s.wire ∧ (settleGrant s).channelOut = s.channelOut ∧
    (settleGrant s).event = s.event ∧ (settleGrant s).pending = s.pending :=
  by
  unfold settleGrant; dsimp only; (repeat' split) <;> simp

@[simp] theorem settleQuiesce_frame (s : State) :
    (settleQuiesce s).links = s.links ∧ (settleQuiesce s).table = s.table ∧
    (settleQuiesce s).xlate = s.xlate ∧ (settleQuiesce s).tenure = s.tenure ∧
    (settleQuiesce s).locks = s.locks ∧ (settleQuiesce s).notices = s.notices ∧
    (settleQuiesce s).refresh = s.refresh ∧ (settleQuiesce s).chan = s.chan ∧
    (settleQuiesce s).dram = s.dram ∧ (settleQuiesce s).mgmt = s.mgmt ∧
    (settleQuiesce s).settings = s.settings ∧ (settleQuiesce s).wire = s.wire ∧
    (settleQuiesce s).channelOut = s.channelOut ∧ (settleQuiesce s).event = s.event ∧
    (settleQuiesce s).free = s.free ∧ (settleQuiesce s).pending = s.pending :=
  by
  unfold settleQuiesce; (repeat' split) <;> simp

@[simp] theorem settleVictims_frame (s : State) :
    (settleVictims s).links = s.links ∧ (settleVictims s).table = s.table ∧
    (settleVictims s).xlate = s.xlate ∧ (settleVictims s).tenure = s.tenure ∧
    (settleVictims s).locks = s.locks ∧ (settleVictims s).notices = s.notices ∧
    (settleVictims s).refresh = s.refresh ∧ (settleVictims s).chan = s.chan ∧
    (settleVictims s).dram = s.dram ∧ (settleVictims s).mgmt = s.mgmt ∧
    (settleVictims s).settings = s.settings ∧ (settleVictims s).wire = s.wire ∧
    (settleVictims s).channelOut = s.channelOut ∧ (settleVictims s).event = s.event ∧
    (settleVictims s).free = s.free ∧ (settleVictims s).pending = s.pending :=
  by
  simp [settleVictims, foldl_keeps State.links, foldl_keeps State.table, foldl_keeps State.xlate,
    foldl_keeps State.tenure, foldl_keeps State.locks, foldl_keeps State.notices,
    foldl_keeps State.refresh, foldl_keeps State.chan, foldl_keeps State.dram,
    foldl_keeps State.mgmt, foldl_keeps State.settings, foldl_keeps State.wire,
    foldl_keeps State.channelOut, foldl_keeps State.event, foldl_keeps State.free,
    foldl_keeps State.pending]

@[simp] theorem raiseBroken_frame (s : State) (es : List LockEntry) :
    (raiseBroken s es).links = s.links ∧ (raiseBroken s es).table = s.table ∧
    (raiseBroken s es).xlate = s.xlate ∧ (raiseBroken s es).sched = s.sched ∧
    (raiseBroken s es).tenure = s.tenure ∧ (raiseBroken s es).locks = s.locks ∧
    (raiseBroken s es).notices = s.notices ∧ (raiseBroken s es).refresh = s.refresh ∧
    (raiseBroken s es).chan = s.chan ∧ (raiseBroken s es).dram = s.dram ∧
    (raiseBroken s es).settings = s.settings ∧ (raiseBroken s es).wire = s.wire ∧
    (raiseBroken s es).channelOut = s.channelOut ∧ (raiseBroken s es).event = s.event ∧
    (raiseBroken s es).free = s.free ∧ (raiseBroken s es).pending = s.pending :=
  by
  simp [raiseBroken, foldl_keeps State.links, foldl_keeps State.table, foldl_keeps State.xlate,
    foldl_keeps State.sched, foldl_keeps State.tenure, foldl_keeps State.locks,
    foldl_keeps State.notices, foldl_keeps State.refresh, foldl_keeps State.chan,
    foldl_keeps State.dram, foldl_keeps State.settings, foldl_keeps State.wire,
    foldl_keeps State.channelOut, foldl_keeps State.event, foldl_keeps State.free,
    foldl_keeps State.pending]

@[simp] theorem restRefresh_frame (s : State) :
    (restRefresh s).links = s.links ∧ (restRefresh s).table = s.table ∧
    (restRefresh s).xlate = s.xlate ∧ (restRefresh s).sched = s.sched ∧
    (restRefresh s).tenure = s.tenure ∧ (restRefresh s).locks = s.locks ∧
    (restRefresh s).notices = s.notices ∧ (restRefresh s).chan = s.chan ∧
    (restRefresh s).dram = s.dram ∧ (restRefresh s).mgmt = s.mgmt ∧
    (restRefresh s).settings = s.settings ∧ (restRefresh s).wire = s.wire ∧
    (restRefresh s).channelOut = s.channelOut ∧ (restRefresh s).event = s.event ∧
    (restRefresh s).free = s.free ∧ (restRefresh s).pending = s.pending :=
  by
  simp [restRefresh]

/-- The entry to self-refresh stops the timer, clears the debt and cue-seen, and leaves the episode
(07 R120, R127). -/
@[simp] theorem restRefresh_refresh (s : State) :
    (restRefresh s).refresh = { s.refresh with timer := .stopped, cueSeen := false, debt := 0 } := rfl

@[simp] theorem enterSelfRefresh_frame (s : State) :
    (enterSelfRefresh s).links = s.links ∧ (enterSelfRefresh s).table = s.table ∧
    (enterSelfRefresh s).xlate = s.xlate ∧ (enterSelfRefresh s).notices = s.notices ∧
    (enterSelfRefresh s).dram = s.dram ∧ (enterSelfRefresh s).settings = s.settings ∧
    (enterSelfRefresh s).wire = s.wire ∧ (enterSelfRefresh s).event = s.event ∧
    (enterSelfRefresh s).free = s.free ∧ (enterSelfRefresh s).pending = s.pending :=
  by
  unfold enterSelfRefresh; dsimp only; simp

@[simp] theorem sendWarmSrEnter_frame (s : State) :
    (sendWarmSrEnter s).links = s.links ∧ (sendWarmSrEnter s).table = s.table ∧
    (sendWarmSrEnter s).xlate = s.xlate ∧ (sendWarmSrEnter s).sched = s.sched ∧
    (sendWarmSrEnter s).tenure = s.tenure ∧ (sendWarmSrEnter s).locks = s.locks ∧
    (sendWarmSrEnter s).notices = s.notices ∧ (sendWarmSrEnter s).refresh = s.refresh ∧
    (sendWarmSrEnter s).dram = s.dram ∧ (sendWarmSrEnter s).mgmt = s.mgmt ∧
    (sendWarmSrEnter s).settings = s.settings ∧ (sendWarmSrEnter s).wire = s.wire ∧
    (sendWarmSrEnter s).event = s.event ∧ (sendWarmSrEnter s).free = s.free ∧
    (sendWarmSrEnter s).pending = s.pending :=
  by
  unfold sendWarmSrEnter; dsimp only; (repeat' split) <;> simp

@[simp] theorem enterWarmSleep_frame (s : State) :
    (enterWarmSleep s).links = s.links ∧ (enterWarmSleep s).table = s.table ∧
    (enterWarmSleep s).xlate = s.xlate ∧ (enterWarmSleep s).tenure = s.tenure ∧
    (enterWarmSleep s).locks = s.locks ∧ (enterWarmSleep s).notices = s.notices ∧
    (enterWarmSleep s).refresh.episode = s.refresh.episode ∧ (enterWarmSleep s).dram = s.dram ∧
    (enterWarmSleep s).mgmt = s.mgmt ∧ (enterWarmSleep s).settings = s.settings ∧
    (enterWarmSleep s).wire = s.wire ∧ (enterWarmSleep s).channelOut = s.channelOut ∧
    (enterWarmSleep s).event = s.event ∧ (enterWarmSleep s).free = s.free ∧
    (enterWarmSleep s).pending = s.pending :=
  by
  unfold enterWarmSleep; (repeat' split) <;> simp

@[simp] theorem warmSleep_frame (s : State) :
    (warmSleep s).links = s.links ∧ (warmSleep s).table = s.table ∧
    (warmSleep s).xlate = s.xlate ∧ (warmSleep s).tenure = s.tenure ∧
    (warmSleep s).locks = s.locks ∧ (warmSleep s).notices = s.notices ∧
    (warmSleep s).refresh.episode = s.refresh.episode ∧ (warmSleep s).dram = s.dram ∧
    (warmSleep s).mgmt = s.mgmt ∧ (warmSleep s).settings = s.settings ∧
    (warmSleep s).wire = s.wire ∧ (warmSleep s).event = s.event ∧
    (warmSleep s).free = s.free ∧ (warmSleep s).pending = s.pending :=
  by
  unfold warmSleep; simp

@[simp] theorem settleSleep_frame (s : State) :
    (settleSleep s).links = s.links ∧ (settleSleep s).table = s.table ∧
    (settleSleep s).xlate = s.xlate ∧ (settleSleep s).notices = s.notices ∧
    (settleSleep s).dram = s.dram ∧ (settleSleep s).settings = s.settings ∧
    (settleSleep s).wire = s.wire ∧ (settleSleep s).event = s.event ∧
    (settleSleep s).free = s.free ∧ (settleSleep s).pending = s.pending :=
  by
  unfold settleSleep; (repeat' split) <;> simp

@[simp] theorem settle_frame (s : State) :
    (settle s).links = s.links ∧ (settle s).table = s.table ∧ (settle s).dram = s.dram ∧
    (settle s).settings = s.settings ∧ (settle s).wire = s.wire ∧ (settle s).event = s.event ∧
    (settle s).pending = s.pending :=
  by
  unfold settle; dsimp only; simp

@[simp] theorem stopServing_frame (s : State) (pos : Nat) :
    (stopServing s pos).links = s.links ∧ (stopServing s pos).table = s.table ∧
    (stopServing s pos).xlate = s.xlate ∧ (stopServing s pos).tenure = s.tenure ∧
    (stopServing s pos).locks = s.locks ∧ (stopServing s pos).notices = s.notices ∧
    (stopServing s pos).refresh = s.refresh ∧ (stopServing s pos).chan = s.chan ∧
    (stopServing s pos).dram = s.dram ∧ (stopServing s pos).mgmt = s.mgmt ∧
    (stopServing s pos).settings = s.settings ∧ (stopServing s pos).wire = s.wire ∧
    (stopServing s pos).channelOut = s.channelOut ∧ (stopServing s pos).event = s.event ∧
    (stopServing s pos).free = s.free ∧ (stopServing s pos).pending = s.pending :=
  by
  unfold stopServing; simp

@[simp] theorem releaseBank_frame (s : State) (pos : Nat) :
    (releaseBank s pos).links = s.links ∧ (releaseBank s pos).table = s.table ∧
    (releaseBank s pos).xlate = s.xlate ∧ (releaseBank s pos).tenure = s.tenure ∧
    (releaseBank s pos).locks = s.locks ∧ (releaseBank s pos).notices = s.notices ∧
    (releaseBank s pos).refresh = s.refresh ∧ (releaseBank s pos).chan = s.chan ∧
    (releaseBank s pos).dram = s.dram ∧ (releaseBank s pos).mgmt = s.mgmt ∧
    (releaseBank s pos).settings = s.settings ∧ (releaseBank s pos).wire = s.wire ∧
    (releaseBank s pos).channelOut = s.channelOut ∧ (releaseBank s pos).event = s.event ∧
    (releaseBank s pos).free = s.free ∧ (releaseBank s pos).pending = s.pending :=
  by
  unfold releaseBank; simp

@[simp] theorem closeService_frame (s : State) (pos i : Nat) :
    (closeService s pos i).links = s.links ∧ (closeService s pos i).xlate = s.xlate ∧
    (closeService s pos i).tenure = s.tenure ∧ (closeService s pos i).locks = s.locks ∧
    (closeService s pos i).notices = s.notices ∧ (closeService s pos i).refresh = s.refresh ∧
    (closeService s pos i).chan = s.chan ∧ (closeService s pos i).dram = s.dram ∧
    (closeService s pos i).mgmt = s.mgmt ∧ (closeService s pos i).settings = s.settings ∧
    (closeService s pos i).wire = s.wire ∧ (closeService s pos i).channelOut = s.channelOut ∧
    (closeService s pos i).event = s.event ∧ (closeService s pos i).free = s.free ∧
    (closeService s pos i).pending = s.pending :=
  by
  unfold closeService; simp

@[simp] theorem settleLockRead_frame (s : State) (i : Nat) (status : MemStatus) :
    (settleLockRead s i status).links = s.links ∧ (settleLockRead s i status).xlate = s.xlate ∧
    (settleLockRead s i status).sched = s.sched ∧ (settleLockRead s i status).tenure = s.tenure ∧
    (settleLockRead s i status).notices = s.notices ∧
    (settleLockRead s i status).refresh = s.refresh ∧ (settleLockRead s i status).chan = s.chan ∧
    (settleLockRead s i status).dram = s.dram ∧ (settleLockRead s i status).mgmt = s.mgmt ∧
    (settleLockRead s i status).settings = s.settings ∧
    (settleLockRead s i status).wire = s.wire ∧
    (settleLockRead s i status).channelOut = s.channelOut ∧
    (settleLockRead s i status).event = s.event ∧ (settleLockRead s i status).free = s.free ∧
    (settleLockRead s i status).pending = s.pending :=
  by
  unfold settleLockRead; (repeat' split) <;> simp

@[simp] theorem settleLockWrite_frame (s : State) (i : Nat) :
    (settleLockWrite s i).links = s.links ∧ (settleLockWrite s i).xlate = s.xlate ∧
    (settleLockWrite s i).sched = s.sched ∧ (settleLockWrite s i).tenure = s.tenure ∧
    (settleLockWrite s i).notices = s.notices ∧ (settleLockWrite s i).refresh = s.refresh ∧
    (settleLockWrite s i).chan = s.chan ∧ (settleLockWrite s i).dram = s.dram ∧
    (settleLockWrite s i).mgmt = s.mgmt ∧ (settleLockWrite s i).settings = s.settings ∧
    (settleLockWrite s i).wire = s.wire ∧ (settleLockWrite s i).channelOut = s.channelOut ∧
    (settleLockWrite s i).event = s.event ∧ (settleLockWrite s i).free = s.free ∧
    (settleLockWrite s i).pending = s.pending :=
  by
  unfold settleLockWrite; (repeat' split) <;> simp

@[simp] theorem completeRead_frame (s : State) (pos i : Nat) (t : Txn)
    (got : List (Nat × BlockStatus × Block)) :
    (completeRead s pos i t got).links = s.links ∧ (completeRead s pos i t got).xlate = s.xlate ∧
    (completeRead s pos i t got).tenure = s.tenure ∧
    (completeRead s pos i t got).refresh = s.refresh ∧
    (completeRead s pos i t got).chan = s.chan ∧ (completeRead s pos i t got).dram = s.dram ∧
    (completeRead s pos i t got).mgmt = s.mgmt ∧
    (completeRead s pos i t got).settings = s.settings ∧
    (completeRead s pos i t got).wire = s.wire ∧
    (completeRead s pos i t got).channelOut = s.channelOut ∧
    (completeRead s pos i t got).event = s.event ∧ (completeRead s pos i t got).free = s.free ∧
    (completeRead s pos i t got).pending = s.pending :=
  by
  unfold completeRead; dsimp only; simp

@[simp] theorem leaveChannel_frame (s : State) (y : Link) (i : Nat) :
    (leaveChannel s y i).links = s.links ∧ (leaveChannel s y i).xlate = s.xlate ∧
    (leaveChannel s y i).sched = s.sched ∧ (leaveChannel s y i).tenure = s.tenure ∧
    (leaveChannel s y i).locks = s.locks ∧ (leaveChannel s y i).notices = s.notices ∧
    (leaveChannel s y i).refresh = s.refresh ∧ (leaveChannel s y i).chan = s.chan ∧
    (leaveChannel s y i).dram = s.dram ∧ (leaveChannel s y i).mgmt = s.mgmt ∧
    (leaveChannel s y i).settings = s.settings ∧ (leaveChannel s y i).wire = s.wire ∧
    (leaveChannel s y i).channelOut = s.channelOut ∧ (leaveChannel s y i).event = s.event ∧
    (leaveChannel s y i).free = s.free ∧ (leaveChannel s y i).pending = s.pending :=
  by
  unfold leaveChannel; (repeat' split) <;> simp

@[simp] theorem completeWrite_frame (s : State) (pos i : Nat) (t : Txn) :
    (completeWrite s pos i t).xlate = s.xlate ∧ (completeWrite s pos i t).tenure = s.tenure ∧
    (completeWrite s pos i t).refresh = s.refresh ∧ (completeWrite s pos i t).chan = s.chan ∧
    (completeWrite s pos i t).dram = s.dram ∧ (completeWrite s pos i t).mgmt = s.mgmt ∧
    (completeWrite s pos i t).settings = s.settings ∧ (completeWrite s pos i t).wire = s.wire ∧
    (completeWrite s pos i t).channelOut = s.channelOut ∧
    (completeWrite s pos i t).event = s.event ∧ (completeWrite s pos i t).free = s.free ∧
    (completeWrite s pos i t).pending = s.pending :=
  by
  unfold completeWrite; dsimp only; simp

@[simp] theorem failMerge_frame (s : State) (pos i : Nat) (t : Txn) :
    (failMerge s pos i t).links = s.links ∧ (failMerge s pos i t).xlate = s.xlate ∧
    (failMerge s pos i t).tenure = s.tenure ∧ (failMerge s pos i t).refresh = s.refresh ∧
    (failMerge s pos i t).chan = s.chan ∧ (failMerge s pos i t).dram = s.dram ∧
    (failMerge s pos i t).mgmt = s.mgmt ∧ (failMerge s pos i t).settings = s.settings ∧
    (failMerge s pos i t).wire = s.wire ∧ (failMerge s pos i t).channelOut = s.channelOut ∧
    (failMerge s pos i t).event = s.event ∧ (failMerge s pos i t).free = s.free ∧
    (failMerge s pos i t).pending = s.pending :=
  by
  unfold failMerge; dsimp only; simp

@[simp] theorem reportWrite_frame (s : State) (pos i : Nat) :
    (reportWrite s pos i).xlate = s.xlate ∧ (reportWrite s pos i).tenure = s.tenure ∧
    (reportWrite s pos i).refresh = s.refresh ∧ (reportWrite s pos i).chan = s.chan ∧
    (reportWrite s pos i).dram = s.dram ∧ (reportWrite s pos i).mgmt = s.mgmt ∧
    (reportWrite s pos i).settings = s.settings ∧ (reportWrite s pos i).wire = s.wire ∧
    (reportWrite s pos i).channelOut = s.channelOut ∧ (reportWrite s pos i).event = s.event ∧
    (reportWrite s pos i).free = s.free ∧ (reportWrite s pos i).pending = s.pending :=
  by
  unfold reportWrite; (repeat' split) <;> simp

@[simp] theorem countCorrected_frame (s : State) :
    (countCorrected s).links = s.links ∧ (countCorrected s).table = s.table ∧
    (countCorrected s).xlate = s.xlate ∧ (countCorrected s).sched = s.sched ∧
    (countCorrected s).tenure = s.tenure ∧ (countCorrected s).locks = s.locks ∧
    (countCorrected s).notices = s.notices ∧ (countCorrected s).refresh = s.refresh ∧
    (countCorrected s).dram = s.dram ∧ (countCorrected s).settings = s.settings ∧
    (countCorrected s).wire = s.wire ∧ (countCorrected s).channelOut = s.channelOut ∧
    (countCorrected s).event = s.event ∧ (countCorrected s).free = s.free ∧
    (countCorrected s).pending = s.pending :=
  by
  unfold countCorrected; dsimp only; (repeat' split) <;> simp

@[simp] theorem takeWords_frame (s : State) (link : Link) (addr : Nat) (cause : Cause)
    (poisoned : Bool) (classes : List WordClass) :
    (takeWords link addr cause s poisoned classes).links = s.links ∧
    (takeWords link addr cause s poisoned classes).table = s.table ∧
    (takeWords link addr cause s poisoned classes).xlate = s.xlate ∧
    (takeWords link addr cause s poisoned classes).sched = s.sched ∧
    (takeWords link addr cause s poisoned classes).tenure = s.tenure ∧
    (takeWords link addr cause s poisoned classes).locks = s.locks ∧
    (takeWords link addr cause s poisoned classes).notices = s.notices ∧
    (takeWords link addr cause s poisoned classes).refresh = s.refresh ∧
    (takeWords link addr cause s poisoned classes).dram = s.dram ∧
    (takeWords link addr cause s poisoned classes).settings = s.settings ∧
    (takeWords link addr cause s poisoned classes).wire = s.wire ∧
    (takeWords link addr cause s poisoned classes).channelOut = s.channelOut ∧
    (takeWords link addr cause s poisoned classes).event = s.event ∧
    (takeWords link addr cause s poisoned classes).free = s.free ∧
    (takeWords link addr cause s poisoned classes).pending = s.pending :=
  by
  induction classes generalizing s poisoned with
  | nil => simp [takeWords]
  | cons c cs ih =>
    cases c <;> simp only [takeWords, ih] <;> (repeat' split) <;> simp

@[simp] theorem afterLastRead_frame (s : State) (pos : Nat) (v : Service) (t : Txn) :
    (afterLastRead s pos v t).links = s.links ∧ (afterLastRead s pos v t).xlate = s.xlate ∧
    (afterLastRead s pos v t).tenure = s.tenure ∧ (afterLastRead s pos v t).refresh = s.refresh ∧
    (afterLastRead s pos v t).chan = s.chan ∧ (afterLastRead s pos v t).dram = s.dram ∧
    (afterLastRead s pos v t).mgmt = s.mgmt ∧ (afterLastRead s pos v t).settings = s.settings ∧
    (afterLastRead s pos v t).wire = s.wire ∧
    (afterLastRead s pos v t).channelOut = s.channelOut ∧
    (afterLastRead s pos v t).event = s.event ∧ (afterLastRead s pos v t).free = s.free ∧
    (afterLastRead s pos v t).pending = s.pending :=
  by
  unfold afterLastRead; (repeat' split) <;> simp

@[simp] theorem sendLevel_frame (s : State) (x : Link) (p : LinkCtl → WirePacket) :
    (sendLevel s x p).links = s.links ∧ (sendLevel s x p).table = s.table ∧
    (sendLevel s x p).xlate = s.xlate ∧ (sendLevel s x p).sched = s.sched ∧
    (sendLevel s x p).tenure = s.tenure ∧ (sendLevel s x p).locks = s.locks ∧
    (sendLevel s x p).notices = s.notices ∧ (sendLevel s x p).refresh = s.refresh ∧
    (sendLevel s x p).chan = s.chan ∧ (sendLevel s x p).dram = s.dram ∧
    (sendLevel s x p).mgmt = s.mgmt ∧ (sendLevel s x p).settings = s.settings ∧
    (sendLevel s x p).channelOut = s.channelOut ∧ (sendLevel s x p).event = s.event ∧
    (sendLevel s x p).free = s.free ∧ (sendLevel s x p).pending = s.pending :=
  by
  unfold sendLevel; simp

@[simp] theorem sendAck_frame (s : State) (x : Link) :
    (sendAck s x).table = s.table ∧ (sendAck s x).xlate = s.xlate ∧
    (sendAck s x).sched = s.sched ∧ (sendAck s x).tenure = s.tenure ∧
    (sendAck s x).locks = s.locks ∧ (sendAck s x).notices = s.notices ∧
    (sendAck s x).refresh = s.refresh ∧ (sendAck s x).chan = s.chan ∧
    (sendAck s x).dram = s.dram ∧ (sendAck s x).mgmt = s.mgmt ∧
    (sendAck s x).settings = s.settings ∧ (sendAck s x).channelOut = s.channelOut ∧
    (sendAck s x).event = s.event ∧ (sendAck s x).free = s.free ∧
    (sendAck s x).pending = s.pending :=
  by
  unfold sendAck; simp

@[simp] theorem sendRetryReq_frame (s : State) (x : Link) :
    (sendRetryReq s x).table = s.table ∧ (sendRetryReq s x).xlate = s.xlate ∧
    (sendRetryReq s x).sched = s.sched ∧ (sendRetryReq s x).tenure = s.tenure ∧
    (sendRetryReq s x).locks = s.locks ∧ (sendRetryReq s x).notices = s.notices ∧
    (sendRetryReq s x).refresh = s.refresh ∧ (sendRetryReq s x).chan = s.chan ∧
    (sendRetryReq s x).dram = s.dram ∧ (sendRetryReq s x).mgmt = s.mgmt ∧
    (sendRetryReq s x).settings = s.settings ∧ (sendRetryReq s x).channelOut = s.channelOut ∧
    (sendRetryReq s x).event = s.event ∧ (sendRetryReq s x).free = s.free ∧
    (sendRetryReq s x).pending = s.pending :=
  by
  unfold sendRetryReq; simp

@[simp] theorem acceptPacket_frame (s : State) (x : Link) :
    (acceptPacket s x).table = s.table ∧ (acceptPacket s x).xlate = s.xlate ∧
    (acceptPacket s x).sched = s.sched ∧ (acceptPacket s x).tenure = s.tenure ∧
    (acceptPacket s x).locks = s.locks ∧ (acceptPacket s x).notices = s.notices ∧
    (acceptPacket s x).refresh = s.refresh ∧ (acceptPacket s x).chan = s.chan ∧
    (acceptPacket s x).dram = s.dram ∧ (acceptPacket s x).mgmt = s.mgmt ∧
    (acceptPacket s x).settings = s.settings ∧ (acceptPacket s x).channelOut = s.channelOut ∧
    (acceptPacket s x).event = s.event ∧ (acceptPacket s x).free = s.free ∧
    (acceptPacket s x).pending = s.pending :=
  by
  unfold acceptPacket; dsimp only; (repeat' split) <;> simp

@[simp] theorem enterRetry_frame (s : State) (x : Link) :
    (enterRetry s x).table = s.table ∧ (enterRetry s x).xlate = s.xlate ∧
    (enterRetry s x).sched = s.sched ∧ (enterRetry s x).tenure = s.tenure ∧
    (enterRetry s x).locks = s.locks ∧ (enterRetry s x).notices = s.notices ∧
    (enterRetry s x).refresh = s.refresh ∧ (enterRetry s x).chan = s.chan ∧
    (enterRetry s x).dram = s.dram ∧ (enterRetry s x).mgmt = s.mgmt ∧
    (enterRetry s x).settings = s.settings ∧ (enterRetry s x).channelOut = s.channelOut ∧
    (enterRetry s x).event = s.event ∧ (enterRetry s x).free = s.free ∧
    (enterRetry s x).pending = s.pending :=
  by
  unfold enterRetry; simp

@[simp] theorem sendSequenced_frame (s : State) (x : Link) (p : HubPacket) :
    (sendSequenced s x p).table = s.table ∧ (sendSequenced s x p).xlate = s.xlate ∧
    (sendSequenced s x p).sched = s.sched ∧ (sendSequenced s x p).tenure = s.tenure ∧
    (sendSequenced s x p).locks = s.locks ∧ (sendSequenced s x p).notices = s.notices ∧
    (sendSequenced s x p).refresh = s.refresh ∧ (sendSequenced s x p).chan = s.chan ∧
    (sendSequenced s x p).dram = s.dram ∧ (sendSequenced s x p).mgmt = s.mgmt ∧
    (sendSequenced s x p).settings = s.settings ∧
    (sendSequenced s x p).channelOut = s.channelOut ∧ (sendSequenced s x p).event = s.event ∧
    (sendSequenced s x p).free = s.free ∧ (sendSequenced s x p).pending = s.pending :=
  by
  unfold sendSequenced; dsimp only; simp

@[simp] theorem tableLinkReset_frame (s : State) (x : Link) :
    (tableLinkReset s x).links = s.links ∧ (tableLinkReset s x).xlate = s.xlate ∧
    (tableLinkReset s x).sched = s.sched ∧ (tableLinkReset s x).tenure = s.tenure ∧
    (tableLinkReset s x).locks = s.locks ∧ (tableLinkReset s x).notices = s.notices ∧
    (tableLinkReset s x).refresh = s.refresh ∧ (tableLinkReset s x).chan = s.chan ∧
    (tableLinkReset s x).dram = s.dram ∧ (tableLinkReset s x).mgmt = s.mgmt ∧
    (tableLinkReset s x).settings = s.settings ∧ (tableLinkReset s x).wire = s.wire ∧
    (tableLinkReset s x).channelOut = s.channelOut ∧ (tableLinkReset s x).event = s.event ∧
    (tableLinkReset s x).free = s.free ∧ (tableLinkReset s x).pending = s.pending :=
  by
  unfold tableLinkReset; dsimp only; simp

@[simp] theorem mgmtLinkReset_frame (s : State) (x : Link) :
    (mgmtLinkReset s x).links = s.links ∧ (mgmtLinkReset s x).table = s.table ∧
    (mgmtLinkReset s x).sched = s.sched ∧ (mgmtLinkReset s x).tenure = s.tenure ∧
    (mgmtLinkReset s x).locks = s.locks ∧ (mgmtLinkReset s x).notices = s.notices ∧
    (mgmtLinkReset s x).refresh = s.refresh ∧ (mgmtLinkReset s x).chan = s.chan ∧
    (mgmtLinkReset s x).dram = s.dram ∧ (mgmtLinkReset s x).settings = s.settings ∧
    (mgmtLinkReset s x).wire = s.wire ∧ (mgmtLinkReset s x).channelOut = s.channelOut ∧
    (mgmtLinkReset s x).event = s.event ∧ (mgmtLinkReset s x).free = s.free ∧
    (mgmtLinkReset s x).pending = s.pending :=
  by
  unfold mgmtLinkReset; dsimp only; (repeat' split) <;> simp

@[simp] theorem linkResetEvent_frame (s : State) (x : Link) (cause : Cause) :
    (linkResetEvent s x cause).dram = s.dram ∧ (linkResetEvent s x cause).settings = s.settings ∧
    (linkResetEvent s x cause).wire = s.wire ∧ (linkResetEvent s x cause).event = s.event ∧
    (linkResetEvent s x cause).pending = s.pending :=
  by
  unfold linkResetEvent; dsimp only; simp

@[simp] theorem hubLinkReset_frame (s : State) (x : Link) (cause : Cause) :
    (hubLinkReset s x cause).dram = s.dram ∧ (hubLinkReset s x cause).settings = s.settings ∧
    (hubLinkReset s x cause).event = s.event ∧ (hubLinkReset s x cause).pending = s.pending :=
  by
  unfold hubLinkReset; simp

@[simp] theorem storeTenureMode_frame (s : State) (v : Nat) :
    (storeTenureMode s v).links = s.links ∧ (storeTenureMode s v).table = s.table ∧
    (storeTenureMode s v).xlate = s.xlate ∧ (storeTenureMode s v).sched = s.sched ∧
    (storeTenureMode s v).locks = s.locks ∧ (storeTenureMode s v).notices = s.notices ∧
    (storeTenureMode s v).refresh = s.refresh ∧ (storeTenureMode s v).chan = s.chan ∧
    (storeTenureMode s v).dram = s.dram ∧ (storeTenureMode s v).mgmt = s.mgmt ∧
    (storeTenureMode s v).wire = s.wire ∧ (storeTenureMode s v).channelOut = s.channelOut ∧
    (storeTenureMode s v).event = s.event ∧ (storeTenureMode s v).free = s.free ∧
    (storeTenureMode s v).pending = s.pending :=
  by
  unfold storeTenureMode; (repeat' split) <;> simp

@[simp] theorem storeRefreshMode_frame (s : State) (v : Nat) :
    (storeRefreshMode s v).links = s.links ∧ (storeRefreshMode s v).table = s.table ∧
    (storeRefreshMode s v).xlate = s.xlate ∧ (storeRefreshMode s v).sched = s.sched ∧
    (storeRefreshMode s v).tenure = s.tenure ∧ (storeRefreshMode s v).locks = s.locks ∧
    (storeRefreshMode s v).notices = s.notices ∧ (storeRefreshMode s v).chan = s.chan ∧
    (storeRefreshMode s v).dram = s.dram ∧ (storeRefreshMode s v).mgmt = s.mgmt ∧
    (storeRefreshMode s v).wire = s.wire ∧ (storeRefreshMode s v).channelOut = s.channelOut ∧
    (storeRefreshMode s v).event = s.event ∧ (storeRefreshMode s v).free = s.free ∧
    (storeRefreshMode s v).pending = s.pending :=
  by
  unfold storeRefreshMode; dsimp only; (repeat' split) <;> simp

@[simp] theorem storeForceLevel_frame (s : State) (v : Nat) :
    (storeForceLevel s v).links = s.links ∧ (storeForceLevel s v).table = s.table ∧
    (storeForceLevel s v).xlate = s.xlate ∧ (storeForceLevel s v).locks = s.locks ∧
    (storeForceLevel s v).notices = s.notices ∧ (storeForceLevel s v).chan = s.chan ∧
    (storeForceLevel s v).dram = s.dram ∧ (storeForceLevel s v).mgmt = s.mgmt ∧
    (storeForceLevel s v).wire = s.wire ∧ (storeForceLevel s v).channelOut = s.channelOut ∧
    (storeForceLevel s v).event = s.event ∧ (storeForceLevel s v).free = s.free ∧
    (storeForceLevel s v).pending = s.pending :=
  by
  unfold storeForceLevel; simp

@[simp] theorem storeCueLink_frame (s : State) (v : Nat) :
    (storeCueLink s v).links = s.links ∧ (storeCueLink s v).table = s.table ∧
    (storeCueLink s v).xlate = s.xlate ∧ (storeCueLink s v).sched = s.sched ∧
    (storeCueLink s v).tenure = s.tenure ∧ (storeCueLink s v).locks = s.locks ∧
    (storeCueLink s v).notices = s.notices ∧ (storeCueLink s v).chan = s.chan ∧
    (storeCueLink s v).dram = s.dram ∧ (storeCueLink s v).mgmt = s.mgmt ∧
    (storeCueLink s v).wire = s.wire ∧ (storeCueLink s v).channelOut = s.channelOut ∧
    (storeCueLink s v).event = s.event ∧ (storeCueLink s v).free = s.free ∧
    (storeCueLink s v).pending = s.pending :=
  by
  unfold storeCueLink; dsimp only; simp

@[simp] theorem storeFilterEnable_frame (s : State) (v : Nat) :
    (storeFilterEnable s v).links = s.links ∧ (storeFilterEnable s v).table = s.table ∧
    (storeFilterEnable s v).xlate = s.xlate ∧ (storeFilterEnable s v).sched = s.sched ∧
    (storeFilterEnable s v).tenure = s.tenure ∧ (storeFilterEnable s v).locks = s.locks ∧
    (storeFilterEnable s v).refresh = s.refresh ∧ (storeFilterEnable s v).chan = s.chan ∧
    (storeFilterEnable s v).dram = s.dram ∧ (storeFilterEnable s v).mgmt = s.mgmt ∧
    (storeFilterEnable s v).wire = s.wire ∧ (storeFilterEnable s v).channelOut = s.channelOut ∧
    (storeFilterEnable s v).event = s.event ∧ (storeFilterEnable s v).free = s.free ∧
    (storeFilterEnable s v).pending = s.pending :=
  by
  unfold storeFilterEnable; dsimp only; (repeat' split) <;> simp

@[simp] theorem writeField_frame (s : State) (f : Field) (v : Nat) :
    (writeField s f v).links = s.links ∧ (writeField s f v).table = s.table ∧
    (writeField s f v).xlate = s.xlate ∧ (writeField s f v).locks = s.locks ∧
    (writeField s f v).chan = s.chan ∧ (writeField s f v).dram = s.dram ∧
    (writeField s f v).mgmt = s.mgmt ∧ (writeField s f v).wire = s.wire ∧
    (writeField s f v).channelOut = s.channelOut ∧ (writeField s f v).event = s.event ∧
    (writeField s f v).free = s.free ∧ (writeField s f v).pending = s.pending :=
  by
  unfold writeField; (repeat' split) <;> simp

@[simp] theorem loadLease_frame (s : State) :
    (loadLease s).links = s.links ∧ (loadLease s).table = s.table ∧
    (loadLease s).xlate = s.xlate ∧ (loadLease s).sched = s.sched ∧
    (loadLease s).tenure = s.tenure ∧ (loadLease s).locks = s.locks ∧
    (loadLease s).notices = s.notices ∧ (loadLease s).refresh = s.refresh ∧
    (loadLease s).chan = s.chan ∧ (loadLease s).dram = s.dram ∧
    (loadLease s).settings = s.settings ∧ (loadLease s).wire = s.wire ∧
    (loadLease s).channelOut = s.channelOut ∧ (loadLease s).event = s.event ∧
    (loadLease s).free = s.free ∧ (loadLease s).pending = s.pending :=
  by
  unfold loadLease; dsimp only; simp

@[simp] theorem renewLease_frame (s : State) (x : Link) :
    (renewLease s x).links = s.links ∧ (renewLease s x).table = s.table ∧
    (renewLease s x).xlate = s.xlate ∧ (renewLease s x).sched = s.sched ∧
    (renewLease s x).tenure = s.tenure ∧ (renewLease s x).locks = s.locks ∧
    (renewLease s x).notices = s.notices ∧ (renewLease s x).refresh = s.refresh ∧
    (renewLease s x).chan = s.chan ∧ (renewLease s x).dram = s.dram ∧
    (renewLease s x).settings = s.settings ∧ (renewLease s x).wire = s.wire ∧
    (renewLease s x).channelOut = s.channelOut ∧ (renewLease s x).event = s.event ∧
    (renewLease s x).free = s.free ∧ (renewLease s x).pending = s.pending :=
  by
  unfold renewLease; (repeat' split) <;> simp

@[simp] theorem joinReplies_frame (s : State) (x : Link) (kind : MgmtKind) (d : Decision) :
    (joinReplies s x kind d).links = s.links ∧ (joinReplies s x kind d).table = s.table ∧
    (joinReplies s x kind d).xlate = s.xlate ∧ (joinReplies s x kind d).sched = s.sched ∧
    (joinReplies s x kind d).tenure = s.tenure ∧ (joinReplies s x kind d).locks = s.locks ∧
    (joinReplies s x kind d).notices = s.notices ∧ (joinReplies s x kind d).refresh = s.refresh ∧
    (joinReplies s x kind d).chan = s.chan ∧ (joinReplies s x kind d).dram = s.dram ∧
    (joinReplies s x kind d).settings = s.settings ∧ (joinReplies s x kind d).wire = s.wire ∧
    (joinReplies s x kind d).channelOut = s.channelOut ∧
    (joinReplies s x kind d).event = s.event ∧ (joinReplies s x kind d).free = s.free ∧
    (joinReplies s x kind d).pending = s.pending :=
  by
  unfold joinReplies; dsimp only; simp

@[simp] theorem discardPacket_frame (s : State) (x : Link) :
    (discardPacket s x).table = s.table ∧ (discardPacket s x).xlate = s.xlate ∧
    (discardPacket s x).sched = s.sched ∧ (discardPacket s x).tenure = s.tenure ∧
    (discardPacket s x).locks = s.locks ∧ (discardPacket s x).notices = s.notices ∧
    (discardPacket s x).refresh = s.refresh ∧ (discardPacket s x).chan = s.chan ∧
    (discardPacket s x).dram = s.dram ∧ (discardPacket s x).settings = s.settings ∧
    (discardPacket s x).wire = s.wire ∧ (discardPacket s x).channelOut = s.channelOut ∧
    (discardPacket s x).event = s.event ∧ (discardPacket s x).free = s.free ∧
    (discardPacket s x).pending = s.pending :=
  by
  unfold discardPacket; dsimp only; (repeat' split) <;> simp

@[simp] theorem beginLong_frame (s : State) (kind : LongKind) (x : Link) :
    (beginLong s kind x).links = s.links ∧ (beginLong s kind x).table = s.table ∧
    (beginLong s kind x).xlate = s.xlate ∧ (beginLong s kind x).sched = s.sched ∧
    (beginLong s kind x).tenure = s.tenure ∧ (beginLong s kind x).locks = s.locks ∧
    (beginLong s kind x).notices = s.notices ∧ (beginLong s kind x).refresh = s.refresh ∧
    (beginLong s kind x).chan = s.chan ∧ (beginLong s kind x).dram = s.dram ∧
    (beginLong s kind x).settings = s.settings ∧ (beginLong s kind x).wire = s.wire ∧
    (beginLong s kind x).channelOut = s.channelOut ∧ (beginLong s kind x).event = s.event ∧
    (beginLong s kind x).free = s.free ∧ (beginLong s kind x).pending = s.pending :=
  by
  unfold beginLong; dsimp only; simp

@[simp] theorem beginDrain_frame (s : State) (x : Link) :
    (beginDrain s x).links = s.links ∧ (beginDrain s x).table = s.table ∧
    (beginDrain s x).sched = s.sched ∧ (beginDrain s x).tenure = s.tenure ∧
    (beginDrain s x).locks = s.locks ∧ (beginDrain s x).notices = s.notices ∧
    (beginDrain s x).refresh = s.refresh ∧ (beginDrain s x).chan = s.chan ∧
    (beginDrain s x).dram = s.dram ∧ (beginDrain s x).settings = s.settings ∧
    (beginDrain s x).wire = s.wire ∧ (beginDrain s x).channelOut = s.channelOut ∧
    (beginDrain s x).event = s.event ∧ (beginDrain s x).free = s.free ∧
    (beginDrain s x).pending = s.pending :=
  by
  unfold beginDrain; dsimp only; simp

@[simp] theorem freeClaim_frame (s : State) :
    (freeClaim s).links = s.links ∧ (freeClaim s).table = s.table ∧
    (freeClaim s).sched = s.sched ∧ (freeClaim s).tenure = s.tenure ∧
    (freeClaim s).locks = s.locks ∧ (freeClaim s).notices = s.notices ∧
    (freeClaim s).refresh = s.refresh ∧ (freeClaim s).chan = s.chan ∧
    (freeClaim s).dram = s.dram ∧ (freeClaim s).settings = s.settings ∧
    (freeClaim s).wire = s.wire ∧ (freeClaim s).channelOut = s.channelOut ∧
    (freeClaim s).event = s.event ∧ (freeClaim s).free = s.free ∧
    (freeClaim s).pending = s.pending :=
  by
  unfold freeClaim; dsimp only; simp

@[simp] theorem beginStart_frame (s : State) (x : Link) :
    (beginStart s x).links = s.links ∧ (beginStart s x).table = s.table ∧
    (beginStart s x).xlate = s.xlate ∧ (beginStart s x).sched = s.sched ∧
    (beginStart s x).tenure = s.tenure ∧ (beginStart s x).locks = s.locks ∧
    (beginStart s x).notices = s.notices ∧ (beginStart s x).refresh = s.refresh ∧
    (beginStart s x).settings = s.settings ∧ (beginStart s x).wire = s.wire ∧
    (beginStart s x).channelOut = s.channelOut ∧ (beginStart s x).event = s.event ∧
    (beginStart s x).free = s.free ∧ (beginStart s x).pending = s.pending :=
  by
  unfold beginStart; dsimp only; simp

@[simp] theorem beginResume_frame (s : State) (x : Link) :
    (beginResume s x).links = s.links ∧ (beginResume s x).table = s.table ∧
    (beginResume s x).xlate = s.xlate ∧ (beginResume s x).sched = s.sched ∧
    (beginResume s x).tenure = s.tenure ∧ (beginResume s x).locks = s.locks ∧
    (beginResume s x).notices = s.notices ∧ (beginResume s x).dram = s.dram ∧
    (beginResume s x).settings = s.settings ∧ (beginResume s x).wire = s.wire ∧
    (beginResume s x).event = s.event ∧ (beginResume s x).free = s.free ∧
    (beginResume s x).pending = s.pending :=
  by
  unfold beginResume; dsimp only; simp

@[simp] theorem beginWarmWork_frame (s : State) :
    (beginWarmWork s).links = s.links ∧ (beginWarmWork s).table = s.table ∧
    (beginWarmWork s).xlate = s.xlate ∧ (beginWarmWork s).tenure = s.tenure ∧
    (beginWarmWork s).locks = s.locks ∧ (beginWarmWork s).notices = s.notices ∧
    (beginWarmWork s).refresh = s.refresh ∧ (beginWarmWork s).dram = s.dram ∧
    (beginWarmWork s).mgmt = s.mgmt ∧ (beginWarmWork s).settings = s.settings ∧
    (beginWarmWork s).wire = s.wire ∧ (beginWarmWork s).channelOut = s.channelOut ∧
    (beginWarmWork s).event = s.event ∧ (beginWarmWork s).free = s.free ∧
    (beginWarmWork s).pending = s.pending :=
  by
  unfold beginWarmWork; dsimp only; simp

@[simp] theorem arriveRequest_frame (s : State) (t : Txn) :
    (arriveRequest t s).links = s.links ∧ (arriveRequest t s).xlate = s.xlate ∧
    (arriveRequest t s).sched = s.sched ∧ (arriveRequest t s).tenure = s.tenure ∧
    (arriveRequest t s).locks = s.locks ∧ (arriveRequest t s).notices = s.notices ∧
    (arriveRequest t s).refresh = s.refresh ∧ (arriveRequest t s).chan = s.chan ∧
    (arriveRequest t s).dram = s.dram ∧ (arriveRequest t s).settings = s.settings ∧
    (arriveRequest t s).wire = s.wire ∧ (arriveRequest t s).channelOut = s.channelOut ∧
    (arriveRequest t s).event = s.event ∧ (arriveRequest t s).free = s.free ∧
    (arriveRequest t s).pending = s.pending :=
  by
  unfold arriveRequest; dsimp only; (repeat' split) <;> simp

@[simp] theorem enterQueued_frame (s : State) (i : Nat) :
    (enterQueued s i).links = s.links ∧ (enterQueued s i).xlate = s.xlate ∧
    (enterQueued s i).sched = s.sched ∧ (enterQueued s i).tenure = s.tenure ∧
    (enterQueued s i).locks = s.locks ∧ (enterQueued s i).notices = s.notices ∧
    (enterQueued s i).refresh = s.refresh ∧ (enterQueued s i).chan = s.chan ∧
    (enterQueued s i).dram = s.dram ∧ (enterQueued s i).mgmt = s.mgmt ∧
    (enterQueued s i).settings = s.settings ∧ (enterQueued s i).wire = s.wire ∧
    (enterQueued s i).channelOut = s.channelOut ∧ (enterQueued s i).event = s.event ∧
    (enterQueued s i).free = s.free ∧ (enterQueued s i).pending = s.pending :=
  by
  unfold enterQueued; simp

@[simp] theorem queueBlocked_frame (s : State) (i block : Nat) :
    (queueBlocked s i block).links = s.links ∧ (queueBlocked s i block).xlate = s.xlate ∧
    (queueBlocked s i block).sched = s.sched ∧ (queueBlocked s i block).tenure = s.tenure ∧
    (queueBlocked s i block).locks = s.locks ∧ (queueBlocked s i block).notices = s.notices ∧
    (queueBlocked s i block).refresh = s.refresh ∧ (queueBlocked s i block).chan = s.chan ∧
    (queueBlocked s i block).dram = s.dram ∧ (queueBlocked s i block).mgmt = s.mgmt ∧
    (queueBlocked s i block).settings = s.settings ∧ (queueBlocked s i block).wire = s.wire ∧
    (queueBlocked s i block).channelOut = s.channelOut ∧
    (queueBlocked s i block).event = s.event ∧ (queueBlocked s i block).free = s.free ∧
    (queueBlocked s i block).pending = s.pending :=
  by
  unfold queueBlocked; simp

@[simp] theorem queueFree_frame (s : State) (i : Nat) :
    (queueFree s i).links = s.links ∧ (queueFree s i).xlate = s.xlate ∧
    (queueFree s i).sched = s.sched ∧ (queueFree s i).tenure = s.tenure ∧
    (queueFree s i).locks = s.locks ∧ (queueFree s i).notices = s.notices ∧
    (queueFree s i).refresh = s.refresh ∧ (queueFree s i).chan = s.chan ∧
    (queueFree s i).dram = s.dram ∧ (queueFree s i).mgmt = s.mgmt ∧
    (queueFree s i).settings = s.settings ∧ (queueFree s i).wire = s.wire ∧
    (queueFree s i).channelOut = s.channelOut ∧ (queueFree s i).event = s.event ∧
    (queueFree s i).free = s.free ∧ (queueFree s i).pending = s.pending :=
  by
  unfold queueFree; simp

@[simp] theorem placeLockRead_frame (s : State) (x : Link) (i block : Nat) :
    (placeLockRead s x i block).links = s.links ∧ (placeLockRead s x i block).xlate = s.xlate ∧
    (placeLockRead s x i block).sched = s.sched ∧ (placeLockRead s x i block).tenure = s.tenure ∧
    (placeLockRead s x i block).notices = s.notices ∧
    (placeLockRead s x i block).refresh = s.refresh ∧ (placeLockRead s x i block).chan = s.chan ∧
    (placeLockRead s x i block).dram = s.dram ∧ (placeLockRead s x i block).mgmt = s.mgmt ∧
    (placeLockRead s x i block).settings = s.settings ∧
    (placeLockRead s x i block).wire = s.wire ∧
    (placeLockRead s x i block).channelOut = s.channelOut ∧
    (placeLockRead s x i block).event = s.event ∧ (placeLockRead s x i block).free = s.free ∧
    (placeLockRead s x i block).pending = s.pending :=
  by
  unfold placeLockRead; (repeat' split) <;> simp

@[simp] theorem placeLockWrite_frame (s : State) (x : Link) (i block : Nat) :
    (placeLockWrite s x i block).links = s.links ∧ (placeLockWrite s x i block).xlate = s.xlate ∧
    (placeLockWrite s x i block).sched = s.sched ∧
    (placeLockWrite s x i block).tenure = s.tenure ∧
    (placeLockWrite s x i block).notices = s.notices ∧
    (placeLockWrite s x i block).refresh = s.refresh ∧
    (placeLockWrite s x i block).chan = s.chan ∧ (placeLockWrite s x i block).dram = s.dram ∧
    (placeLockWrite s x i block).mgmt = s.mgmt ∧
    (placeLockWrite s x i block).settings = s.settings ∧
    (placeLockWrite s x i block).wire = s.wire ∧
    (placeLockWrite s x i block).channelOut = s.channelOut ∧
    (placeLockWrite s x i block).event = s.event ∧ (placeLockWrite s x i block).free = s.free ∧
    (placeLockWrite s x i block).pending = s.pending :=
  by
  unfold placeLockWrite; (repeat' split) <;> simp

@[simp] theorem placeLockDrop_frame (s : State) (x : Link) (i block : Nat) :
    (placeLockDrop s x i block).links = s.links ∧ (placeLockDrop s x i block).xlate = s.xlate ∧
    (placeLockDrop s x i block).sched = s.sched ∧ (placeLockDrop s x i block).tenure = s.tenure ∧
    (placeLockDrop s x i block).notices = s.notices ∧
    (placeLockDrop s x i block).refresh = s.refresh ∧ (placeLockDrop s x i block).chan = s.chan ∧
    (placeLockDrop s x i block).dram = s.dram ∧ (placeLockDrop s x i block).mgmt = s.mgmt ∧
    (placeLockDrop s x i block).settings = s.settings ∧
    (placeLockDrop s x i block).wire = s.wire ∧
    (placeLockDrop s x i block).channelOut = s.channelOut ∧
    (placeLockDrop s x i block).event = s.event ∧ (placeLockDrop s x i block).free = s.free ∧
    (placeLockDrop s x i block).pending = s.pending :=
  by
  unfold placeLockDrop; (repeat' split) <;> simp

@[simp] theorem placeAccess_frame (s : State) (i : Nat) (t : Txn) :
    (placeAccess s i t).links = s.links ∧ (placeAccess s i t).xlate = s.xlate ∧
    (placeAccess s i t).sched = s.sched ∧ (placeAccess s i t).tenure = s.tenure ∧
    (placeAccess s i t).locks = s.locks ∧ (placeAccess s i t).notices = s.notices ∧
    (placeAccess s i t).refresh = s.refresh ∧ (placeAccess s i t).chan = s.chan ∧
    (placeAccess s i t).dram = s.dram ∧ (placeAccess s i t).mgmt = s.mgmt ∧
    (placeAccess s i t).settings = s.settings ∧ (placeAccess s i t).wire = s.wire ∧
    (placeAccess s i t).channelOut = s.channelOut ∧ (placeAccess s i t).event = s.event ∧
    (placeAccess s i t).free = s.free ∧ (placeAccess s i t).pending = s.pending :=
  by
  unfold placeAccess; (repeat' split) <;> simp

@[simp] theorem placeRequest_frame (s : State) (i : Nat) (t : Txn) (phys : Nat) :
    (placeRequest s i t phys).links = s.links ∧ (placeRequest s i t phys).xlate = s.xlate ∧
    (placeRequest s i t phys).sched = s.sched ∧ (placeRequest s i t phys).tenure = s.tenure ∧
    (placeRequest s i t phys).notices = s.notices ∧
    (placeRequest s i t phys).refresh = s.refresh ∧ (placeRequest s i t phys).chan = s.chan ∧
    (placeRequest s i t phys).dram = s.dram ∧ (placeRequest s i t phys).mgmt = s.mgmt ∧
    (placeRequest s i t phys).settings = s.settings ∧ (placeRequest s i t phys).wire = s.wire ∧
    (placeRequest s i t phys).channelOut = s.channelOut ∧
    (placeRequest s i t phys).event = s.event ∧ (placeRequest s i t phys).free = s.free ∧
    (placeRequest s i t phys).pending = s.pending :=
  by
  unfold placeRequest; (repeat' split) <;> simp

@[simp] theorem consult_frame (s : State) (i : Nat) (t : Txn) :
    (consult s i t).links = s.links ∧ (consult s i t).xlate = s.xlate ∧
    (consult s i t).sched = s.sched ∧ (consult s i t).tenure = s.tenure ∧
    (consult s i t).notices = s.notices ∧ (consult s i t).refresh = s.refresh ∧
    (consult s i t).chan = s.chan ∧ (consult s i t).dram = s.dram ∧
    (consult s i t).mgmt = s.mgmt ∧ (consult s i t).settings = s.settings ∧
    (consult s i t).wire = s.wire ∧ (consult s i t).channelOut = s.channelOut ∧
    (consult s i t).event = s.event ∧ (consult s i t).free = s.free ∧
    (consult s i t).pending = s.pending :=
  by
  unfold consult; dsimp only; (repeat' split) <;> simp

@[simp] theorem placeFence_frame (s : State) (i : Nat) (t : Txn) :
    (placeFence s i t).links = s.links ∧ (placeFence s i t).xlate = s.xlate ∧
    (placeFence s i t).sched = s.sched ∧ (placeFence s i t).tenure = s.tenure ∧
    (placeFence s i t).locks = s.locks ∧ (placeFence s i t).notices = s.notices ∧
    (placeFence s i t).refresh = s.refresh ∧ (placeFence s i t).chan = s.chan ∧
    (placeFence s i t).dram = s.dram ∧ (placeFence s i t).mgmt = s.mgmt ∧
    (placeFence s i t).settings = s.settings ∧ (placeFence s i t).wire = s.wire ∧
    (placeFence s i t).channelOut = s.channelOut ∧ (placeFence s i t).event = s.event ∧
    (placeFence s i t).free = s.free ∧ (placeFence s i t).pending = s.pending :=
  by
  unfold placeFence; simp

@[simp] theorem intakeStep_frame (s : State) (i : Nat) (t : Txn) :
    (intakeStep s i t).links = s.links ∧ (intakeStep s i t).xlate = s.xlate ∧
    (intakeStep s i t).sched = s.sched ∧ (intakeStep s i t).tenure = s.tenure ∧
    (intakeStep s i t).notices = s.notices ∧ (intakeStep s i t).refresh = s.refresh ∧
    (intakeStep s i t).chan = s.chan ∧ (intakeStep s i t).dram = s.dram ∧
    (intakeStep s i t).mgmt = s.mgmt ∧ (intakeStep s i t).settings = s.settings ∧
    (intakeStep s i t).wire = s.wire ∧ (intakeStep s i t).channelOut = s.channelOut ∧
    (intakeStep s i t).event = s.event ∧ (intakeStep s i t).free = s.free ∧
    (intakeStep s i t).pending = s.pending :=
  by
  unfold intakeStep; (repeat' split) <;> simp

@[simp] theorem takeIntake_frame (s : State) (x : Link) :
    (takeIntake x s).links = s.links ∧ (takeIntake x s).dram = s.dram ∧
    (takeIntake x s).settings = s.settings ∧ (takeIntake x s).wire = s.wire ∧
    (takeIntake x s).event = s.event ∧ (takeIntake x s).pending = s.pending :=
  by
  unfold takeIntake; (repeat' split) <;> simp

@[simp] theorem raiseBypass_frame (s : State) (limit i : Nat) :
    (raiseBypass limit s i).links = s.links ∧ (raiseBypass limit s i).xlate = s.xlate ∧
    (raiseBypass limit s i).sched = s.sched ∧ (raiseBypass limit s i).tenure = s.tenure ∧
    (raiseBypass limit s i).locks = s.locks ∧ (raiseBypass limit s i).notices = s.notices ∧
    (raiseBypass limit s i).refresh = s.refresh ∧ (raiseBypass limit s i).chan = s.chan ∧
    (raiseBypass limit s i).dram = s.dram ∧ (raiseBypass limit s i).mgmt = s.mgmt ∧
    (raiseBypass limit s i).settings = s.settings ∧ (raiseBypass limit s i).wire = s.wire ∧
    (raiseBypass limit s i).channelOut = s.channelOut ∧ (raiseBypass limit s i).event = s.event ∧
    (raiseBypass limit s i).free = s.free ∧ (raiseBypass limit s i).pending = s.pending :=
  by
  unfold raiseBypass; simp

@[simp] theorem completeEmpty_frame (s : State) (pos : Nat) :
    (completeEmpty s pos).xlate = s.xlate ∧ (completeEmpty s pos).tenure = s.tenure ∧
    (completeEmpty s pos).refresh = s.refresh ∧ (completeEmpty s pos).chan = s.chan ∧
    (completeEmpty s pos).dram = s.dram ∧ (completeEmpty s pos).mgmt = s.mgmt ∧
    (completeEmpty s pos).settings = s.settings ∧ (completeEmpty s pos).wire = s.wire ∧
    (completeEmpty s pos).channelOut = s.channelOut ∧ (completeEmpty s pos).event = s.event ∧
    (completeEmpty s pos).free = s.free ∧ (completeEmpty s pos).pending = s.pending :=
  by
  unfold completeEmpty; (repeat' split) <;> simp

@[simp] theorem issueAt_frame (s : State) (pos i : Nat) (t : Txn) :
    (issueAt s pos i t).xlate = s.xlate ∧ (issueAt s pos i t).tenure = s.tenure ∧
    (issueAt s pos i t).refresh = s.refresh ∧ (issueAt s pos i t).chan = s.chan ∧
    (issueAt s pos i t).dram = s.dram ∧ (issueAt s pos i t).mgmt = s.mgmt ∧
    (issueAt s pos i t).settings = s.settings ∧ (issueAt s pos i t).wire = s.wire ∧
    (issueAt s pos i t).channelOut = s.channelOut ∧ (issueAt s pos i t).event = s.event ∧
    (issueAt s pos i t).free = s.free ∧ (issueAt s pos i t).pending = s.pending :=
  by
  cases h : isWrite t <;>
    simp [issueAt, h, foldl_keeps State.xlate, foldl_keeps State.tenure, foldl_keeps State.refresh,
      foldl_keeps State.chan, foldl_keeps State.dram, foldl_keeps State.mgmt,
      foldl_keeps State.settings, foldl_keeps State.wire, foldl_keeps State.channelOut,
      foldl_keeps State.event, foldl_keeps State.free, foldl_keeps State.pending]

@[simp] theorem issueGranted_frame (s : State) :
    (issueGranted s).dram = s.dram ∧ (issueGranted s).settings = s.settings ∧
    (issueGranted s).wire = s.wire ∧ (issueGranted s).event = s.event ∧
    (issueGranted s).pending = s.pending :=
  by
  unfold issueGranted; (repeat' split) <;> simp

@[simp] theorem sendActivate_frame (s : State) (pos : Nat) :
    (sendActivate pos s).links = s.links ∧ (sendActivate pos s).table = s.table ∧
    (sendActivate pos s).dram = s.dram ∧ (sendActivate pos s).settings = s.settings ∧
    (sendActivate pos s).wire = s.wire ∧ (sendActivate pos s).event = s.event ∧
    (sendActivate pos s).pending = s.pending :=
  by
  unfold sendActivate; dsimp only; (repeat' split) <;> simp

@[simp] theorem completeActivation_frame (s : State) (pos : Nat) :
    (completeActivation pos s).dram = s.dram ∧ (completeActivation pos s).settings = s.settings ∧
    (completeActivation pos s).wire = s.wire ∧ (completeActivation pos s).event = s.event ∧
    (completeActivation pos s).pending = s.pending :=
  by
  unfold completeActivation; dsimp only; (repeat' split) <;> simp

@[simp] theorem sendReadColumn_frame (s : State) (pos : Nat) :
    (sendReadColumn pos s).links = s.links ∧ (sendReadColumn pos s).table = s.table ∧
    (sendReadColumn pos s).xlate = s.xlate ∧ (sendReadColumn pos s).tenure = s.tenure ∧
    (sendReadColumn pos s).locks = s.locks ∧ (sendReadColumn pos s).notices = s.notices ∧
    (sendReadColumn pos s).refresh = s.refresh ∧ (sendReadColumn pos s).dram = s.dram ∧
    (sendReadColumn pos s).mgmt = s.mgmt ∧ (sendReadColumn pos s).settings = s.settings ∧
    (sendReadColumn pos s).wire = s.wire ∧ (sendReadColumn pos s).event = s.event ∧
    (sendReadColumn pos s).free = s.free ∧ (sendReadColumn pos s).pending = s.pending :=
  by
  unfold sendReadColumn; dsimp only; (repeat' split) <;> simp

@[simp] theorem sendWriteColumn_frame (s : State) (pos : Nat) :
    (sendWriteColumn pos s).settings = s.settings ∧ (sendWriteColumn pos s).wire = s.wire ∧
    (sendWriteColumn pos s).event = s.event ∧ (sendWriteColumn pos s).pending = s.pending :=
  by
  unfold sendWriteColumn; dsimp only; (repeat' split) <;> simp

@[simp] theorem arriveData_frame (s : State) (es : List ErrMask) :
    (arriveData es s).links = s.links ∧ (arriveData es s).settings = s.settings ∧
    (arriveData es s).wire = s.wire ∧ (arriveData es s).event = s.event ∧
    (arriveData es s).pending = s.pending :=
  by
  unfold arriveData; dsimp only; (repeat' split) <;> simp

@[simp] theorem sendPrecharge_frame (s : State) (pos : Nat) :
    (sendPrecharge pos s).links = s.links ∧ (sendPrecharge pos s).table = s.table ∧
    (sendPrecharge pos s).dram = s.dram ∧ (sendPrecharge pos s).settings = s.settings ∧
    (sendPrecharge pos s).wire = s.wire ∧ (sendPrecharge pos s).event = s.event ∧
    (sendPrecharge pos s).pending = s.pending :=
  by
  unfold sendPrecharge; dsimp only; simp

@[simp] theorem completeBankPrecharge_frame (s : State) (pos : Nat) :
    (completeBankPrecharge pos s).links = s.links ∧
    (completeBankPrecharge pos s).table = s.table ∧ (completeBankPrecharge pos s).dram = s.dram ∧
    (completeBankPrecharge pos s).settings = s.settings ∧
    (completeBankPrecharge pos s).wire = s.wire ∧ (completeBankPrecharge pos s).event = s.event ∧
    (completeBankPrecharge pos s).pending = s.pending :=
  by
  unfold completeBankPrecharge; dsimp only; (repeat' split) <;> simp

@[simp] theorem completeStartPrecharge_frame (s : State) :
    (completeStartPrecharge s).links = s.links ∧ (completeStartPrecharge s).table = s.table ∧
    (completeStartPrecharge s).xlate = s.xlate ∧ (completeStartPrecharge s).sched = s.sched ∧
    (completeStartPrecharge s).tenure = s.tenure ∧ (completeStartPrecharge s).locks = s.locks ∧
    (completeStartPrecharge s).notices = s.notices ∧
    (completeStartPrecharge s).refresh = s.refresh ∧ (completeStartPrecharge s).dram = s.dram ∧
    (completeStartPrecharge s).mgmt = s.mgmt ∧ (completeStartPrecharge s).settings = s.settings ∧
    (completeStartPrecharge s).wire = s.wire ∧
    (completeStartPrecharge s).channelOut = s.channelOut ∧
    (completeStartPrecharge s).event = s.event ∧ (completeStartPrecharge s).free = s.free ∧
    (completeStartPrecharge s).pending = s.pending :=
  by
  unfold completeStartPrecharge; dsimp only; simp

@[simp] theorem completePrecharge_frame (s : State) (target : PrechargeTarget) :
    (completePrecharge target s).links = s.links ∧ (completePrecharge target s).table = s.table ∧
    (completePrecharge target s).dram = s.dram ∧
    (completePrecharge target s).settings = s.settings ∧
    (completePrecharge target s).wire = s.wire ∧ (completePrecharge target s).event = s.event ∧
    (completePrecharge target s).pending = s.pending :=
  by
  unfold completePrecharge; (repeat' split) <;> simp

@[simp] theorem expireRowIdle_frame (s : State) (pos : Nat) :
    (expireRowIdle pos s).links = s.links ∧ (expireRowIdle pos s).table = s.table ∧
    (expireRowIdle pos s).dram = s.dram ∧ (expireRowIdle pos s).settings = s.settings ∧
    (expireRowIdle pos s).wire = s.wire ∧ (expireRowIdle pos s).event = s.event ∧
    (expireRowIdle pos s).pending = s.pending :=
  by
  unfold expireRowIdle; simp

@[simp] theorem noteStartRefresh_frame (s : State) (rank : Nat) :
    (noteStartRefresh rank s).links = s.links ∧ (noteStartRefresh rank s).table = s.table ∧
    (noteStartRefresh rank s).xlate = s.xlate ∧ (noteStartRefresh rank s).sched = s.sched ∧
    (noteStartRefresh rank s).tenure = s.tenure ∧ (noteStartRefresh rank s).locks = s.locks ∧
    (noteStartRefresh rank s).notices = s.notices ∧
    (noteStartRefresh rank s).refresh = s.refresh ∧ (noteStartRefresh rank s).dram = s.dram ∧
    (noteStartRefresh rank s).mgmt = s.mgmt ∧ (noteStartRefresh rank s).settings = s.settings ∧
    (noteStartRefresh rank s).wire = s.wire ∧
    (noteStartRefresh rank s).channelOut = s.channelOut ∧
    (noteStartRefresh rank s).event = s.event ∧ (noteStartRefresh rank s).free = s.free ∧
    (noteStartRefresh rank s).pending = s.pending :=
  by
  unfold noteStartRefresh; dsimp only; (repeat' split) <;> simp

@[simp] theorem refreshRank_frame (s : State) (rank : Nat) :
    (refreshRank rank s).links = s.links ∧ (refreshRank rank s).table = s.table ∧
    (refreshRank rank s).xlate = s.xlate ∧ (refreshRank rank s).tenure = s.tenure ∧
    (refreshRank rank s).locks = s.locks ∧ (refreshRank rank s).notices = s.notices ∧
    (refreshRank rank s).chan = s.chan ∧ (refreshRank rank s).dram = s.dram ∧
    (refreshRank rank s).mgmt = s.mgmt ∧ (refreshRank rank s).settings = s.settings ∧
    (refreshRank rank s).wire = s.wire ∧ (refreshRank rank s).channelOut = s.channelOut ∧
    (refreshRank rank s).event = s.event ∧ (refreshRank rank s).free = s.free ∧
    (refreshRank rank s).pending = s.pending :=
  by
  simp [refreshRank, foldl_keeps State.links, foldl_keeps State.table, foldl_keeps State.xlate,
    foldl_keeps State.tenure, foldl_keeps State.locks, foldl_keeps State.notices,
    foldl_keeps State.chan, foldl_keeps State.dram, foldl_keeps State.mgmt,
    foldl_keeps State.settings, foldl_keeps State.wire, foldl_keeps State.channelOut,
    foldl_keeps State.event, foldl_keeps State.free, foldl_keeps State.pending]

@[simp] theorem sendRefresh_frame (s : State) (rank : Nat) :
    (sendRefresh rank s).links = s.links ∧ (sendRefresh rank s).table = s.table ∧
    (sendRefresh rank s).xlate = s.xlate ∧ (sendRefresh rank s).tenure = s.tenure ∧
    (sendRefresh rank s).locks = s.locks ∧ (sendRefresh rank s).notices = s.notices ∧
    (sendRefresh rank s).dram = s.dram ∧ (sendRefresh rank s).mgmt = s.mgmt ∧
    (sendRefresh rank s).settings = s.settings ∧ (sendRefresh rank s).wire = s.wire ∧
    (sendRefresh rank s).event = s.event ∧ (sendRefresh rank s).free = s.free ∧
    (sendRefresh rank s).pending = s.pending :=
  by
  unfold sendRefresh; dsimp only; (repeat' split) <;> simp

@[simp] theorem completeRefresh_frame (s : State) (rank : Nat) :
    (completeRefresh rank s).links = s.links ∧ (completeRefresh rank s).table = s.table ∧
    (completeRefresh rank s).dram = s.dram ∧ (completeRefresh rank s).settings = s.settings ∧
    (completeRefresh rank s).wire = s.wire ∧ (completeRefresh rank s).event = s.event ∧
    (completeRefresh rank s).pending = s.pending :=
  by
  simp [completeRefresh, foldl_keeps State.links, foldl_keeps State.table, foldl_keeps State.dram,
    foldl_keeps State.settings, foldl_keeps State.wire, foldl_keeps State.event,
    foldl_keeps State.pending]

@[simp] theorem expireRefreshTimer_frame (s : State) :
    (expireRefreshTimer s).links = s.links ∧ (expireRefreshTimer s).table = s.table ∧
    (expireRefreshTimer s).dram = s.dram ∧ (expireRefreshTimer s).settings = s.settings ∧
    (expireRefreshTimer s).wire = s.wire ∧ (expireRefreshTimer s).event = s.event ∧
    (expireRefreshTimer s).pending = s.pending :=
  by
  unfold expireRefreshTimer; simp

@[simp] theorem expireCueMonitor_frame (s : State) :
    (expireCueMonitor s).links = s.links ∧ (expireCueMonitor s).table = s.table ∧
    (expireCueMonitor s).dram = s.dram ∧ (expireCueMonitor s).settings = s.settings ∧
    (expireCueMonitor s).wire = s.wire ∧ (expireCueMonitor s).event = s.event ∧
    (expireCueMonitor s).pending = s.pending :=
  by
  unfold expireCueMonitor; dsimp only; (repeat' split) <;> simp

@[simp] theorem expireQuantum_frame (s : State) :
    (expireQuantum s).links = s.links ∧ (expireQuantum s).table = s.table ∧
    (expireQuantum s).dram = s.dram ∧ (expireQuantum s).settings = s.settings ∧
    (expireQuantum s).wire = s.wire ∧ (expireQuantum s).event = s.event ∧
    (expireQuantum s).pending = s.pending :=
  by
  unfold expireQuantum; dsimp only; simp

@[simp] theorem expireIdle_frame (s : State) :
    (expireIdle s).links = s.links ∧ (expireIdle s).table = s.table ∧
    (expireIdle s).dram = s.dram ∧ (expireIdle s).settings = s.settings ∧
    (expireIdle s).wire = s.wire ∧ (expireIdle s).event = s.event ∧
    (expireIdle s).pending = s.pending :=
  by
  unfold expireIdle; dsimp only; (repeat' split) <;> simp

@[simp] theorem expireCommit_frame (s : State) :
    (expireCommit s).links = s.links ∧ (expireCommit s).table = s.table ∧
    (expireCommit s).dram = s.dram ∧ (expireCommit s).settings = s.settings ∧
    (expireCommit s).wire = s.wire ∧ (expireCommit s).event = s.event ∧
    (expireCommit s).pending = s.pending :=
  by
  unfold expireCommit; dsimp only; simp

@[simp] theorem takeCue_frame (s : State) (x : Link) :
    (takeCue x s).links = s.links ∧ (takeCue x s).table = s.table ∧ (takeCue x s).dram = s.dram ∧
    (takeCue x s).settings = s.settings ∧ (takeCue x s).wire = s.wire ∧
    (takeCue x s).event = s.event ∧ (takeCue x s).pending = s.pending :=
  by
  unfold takeCue; dsimp only; (repeat' split) <;> simp

@[simp] theorem takeNoticeAck_frame (s : State) (x : Link) (number : Byte) :
    (takeNoticeAck x number s).links = s.links ∧ (takeNoticeAck x number s).dram = s.dram ∧
    (takeNoticeAck x number s).settings = s.settings ∧ (takeNoticeAck x number s).wire = s.wire ∧
    (takeNoticeAck x number s).event = s.event ∧ (takeNoticeAck x number s).pending = s.pending :=
  by
  unfold takeNoticeAck; (repeat' split) <;> simp

@[simp] theorem expireNotice_frame (s : State) (y : Link) (number : Byte) :
    (expireNotice y number s).links = s.links ∧ (expireNotice y number s).dram = s.dram ∧
    (expireNotice y number s).settings = s.settings ∧ (expireNotice y number s).wire = s.wire ∧
    (expireNotice y number s).event = s.event ∧ (expireNotice y number s).pending = s.pending :=
  by
  unfold expireNotice; dsimp only; (repeat' split) <;> simp

@[simp] theorem expireLock_frame (s : State) (block : Nat) :
    (expireLock block s).links = s.links ∧ (expireLock block s).dram = s.dram ∧
    (expireLock block s).settings = s.settings ∧ (expireLock block s).wire = s.wire ∧
    (expireLock block s).event = s.event ∧ (expireLock block s).pending = s.pending :=
  by
  unfold expireLock; (repeat' split) <;> simp

@[simp] theorem expireLease_frame (s : State) :
    (expireLease s).links = s.links ∧ (expireLease s).table = s.table ∧
    (expireLease s).sched = s.sched ∧ (expireLease s).tenure = s.tenure ∧
    (expireLease s).locks = s.locks ∧ (expireLease s).notices = s.notices ∧
    (expireLease s).refresh = s.refresh ∧ (expireLease s).chan = s.chan ∧
    (expireLease s).dram = s.dram ∧ (expireLease s).settings = s.settings ∧
    (expireLease s).wire = s.wire ∧ (expireLease s).channelOut = s.channelOut ∧
    (expireLease s).event = s.event ∧ (expireLease s).free = s.free ∧
    (expireLease s).pending = s.pending :=
  by
  unfold expireLease; simp

@[simp] theorem loadSettings_frame (s : State) :
    (loadSettings s).links = s.links ∧ (loadSettings s).table = s.table ∧
    (loadSettings s).xlate = s.xlate ∧ (loadSettings s).sched = s.sched ∧
    (loadSettings s).tenure = s.tenure ∧ (loadSettings s).locks = s.locks ∧
    (loadSettings s).notices = s.notices ∧ (loadSettings s).refresh = s.refresh ∧
    (loadSettings s).chan = s.chan ∧ (loadSettings s).dram = s.dram ∧
    (loadSettings s).mgmt = s.mgmt ∧ (loadSettings s).settings = s.settings ∧
    (loadSettings s).wire = s.wire ∧ (loadSettings s).event = s.event ∧
    (loadSettings s).free = s.free ∧ (loadSettings s).pending = s.pending :=
  by
  unfold loadSettings; simp

@[simp] theorem expireStartTimer_frame (s : State) :
    (expireStartTimer s).links = s.links ∧ (expireStartTimer s).table = s.table ∧
    (expireStartTimer s).xlate = s.xlate ∧ (expireStartTimer s).sched = s.sched ∧
    (expireStartTimer s).tenure = s.tenure ∧ (expireStartTimer s).locks = s.locks ∧
    (expireStartTimer s).notices = s.notices ∧ (expireStartTimer s).refresh = s.refresh ∧
    (expireStartTimer s).dram = s.dram ∧ (expireStartTimer s).mgmt = s.mgmt ∧
    (expireStartTimer s).settings = s.settings ∧ (expireStartTimer s).wire = s.wire ∧
    (expireStartTimer s).event = s.event ∧ (expireStartTimer s).free = s.free ∧
    (expireStartTimer s).pending = s.pending :=
  by
  unfold expireStartTimer; dsimp only; (repeat' split) <;> simp

@[simp] theorem completeStartRound_frame (s : State) :
    (completeStartRound s).links = s.links ∧ (completeStartRound s).table = s.table ∧
    (completeStartRound s).xlate = s.xlate ∧ (completeStartRound s).sched = s.sched ∧
    (completeStartRound s).tenure = s.tenure ∧ (completeStartRound s).locks = s.locks ∧
    (completeStartRound s).notices = s.notices ∧ (completeStartRound s).refresh = s.refresh ∧
    (completeStartRound s).dram = s.dram ∧ (completeStartRound s).mgmt = s.mgmt ∧
    (completeStartRound s).settings = s.settings ∧ (completeStartRound s).wire = s.wire ∧
    (completeStartRound s).event = s.event ∧ (completeStartRound s).free = s.free ∧
    (completeStartRound s).pending = s.pending :=
  by
  unfold completeStartRound; dsimp only; (repeat' split) <;> simp

@[simp] theorem sleepAgain_frame (s : State) :
    (sleepAgain s).links = s.links ∧ (sleepAgain s).table = s.table ∧
    (sleepAgain s).xlate = s.xlate ∧ (sleepAgain s).sched = s.sched ∧
    (sleepAgain s).tenure = s.tenure ∧ (sleepAgain s).locks = s.locks ∧
    (sleepAgain s).notices = s.notices ∧ (sleepAgain s).refresh.episode = s.refresh.episode ∧
    (sleepAgain s).dram = s.dram ∧ (sleepAgain s).mgmt = s.mgmt ∧
    (sleepAgain s).settings = s.settings ∧ (sleepAgain s).wire = s.wire ∧
    (sleepAgain s).event = s.event ∧ (sleepAgain s).free = s.free ∧
    (sleepAgain s).pending = s.pending :=
  by
  unfold sleepAgain; dsimp only; simp

@[simp] theorem expireResumeTimer_frame (s : State) :
    (expireResumeTimer s).links = s.links ∧ (expireResumeTimer s).table = s.table ∧
    (expireResumeTimer s).xlate = s.xlate ∧ (expireResumeTimer s).sched = s.sched ∧
    (expireResumeTimer s).tenure = s.tenure ∧ (expireResumeTimer s).locks = s.locks ∧
    (expireResumeTimer s).notices = s.notices ∧
    (expireResumeTimer s).refresh.episode = s.refresh.episode ∧
    (expireResumeTimer s).dram = s.dram ∧ (expireResumeTimer s).mgmt = s.mgmt ∧
    (expireResumeTimer s).settings = s.settings ∧ (expireResumeTimer s).wire = s.wire ∧
    (expireResumeTimer s).event = s.event ∧ (expireResumeTimer s).free = s.free ∧
    (expireResumeTimer s).pending = s.pending :=
  by
  unfold expireResumeTimer; dsimp only; (repeat' split) <;> simp

@[simp] theorem endStart_frame (s : State) :
    (endStart s).links = s.links ∧ (endStart s).table = s.table ∧ (endStart s).dram = s.dram ∧
    (endStart s).settings = s.settings ∧ (endStart s).wire = s.wire ∧
    (endStart s).event = s.event ∧ (endStart s).pending = s.pending :=
  by
  unfold endStart; dsimp only; simp

@[simp] theorem endResume_frame (s : State) :
    (endResume s).links = s.links ∧ (endResume s).table = s.table ∧ (endResume s).dram = s.dram ∧
    (endResume s).settings = s.settings ∧ (endResume s).wire = s.wire ∧
    (endResume s).event = s.event ∧ (endResume s).pending = s.pending :=
  by
  unfold endResume; dsimp only; split <;> simp

@[simp] theorem takeResetPoint_frame (s : State) :
    (takeResetPoint s).dram = s.dram ∧ (takeResetPoint s).settings = s.settings ∧
    (takeResetPoint s).wire = s.wire ∧ (takeResetPoint s).event = s.event ∧
    (takeResetPoint s).free = s.free ∧ (takeResetPoint s).pending = s.pending :=
  by
  unfold takeResetPoint; dsimp only; simp

@[simp] theorem handResponse_frame (s : State) (x : Link) :
    (handResponse x s).xlate = s.xlate ∧ (handResponse x s).sched = s.sched ∧
    (handResponse x s).tenure = s.tenure ∧ (handResponse x s).locks = s.locks ∧
    (handResponse x s).notices = s.notices ∧ (handResponse x s).refresh = s.refresh ∧
    (handResponse x s).chan = s.chan ∧ (handResponse x s).dram = s.dram ∧
    (handResponse x s).mgmt = s.mgmt ∧ (handResponse x s).settings = s.settings ∧
    (handResponse x s).channelOut = s.channelOut ∧ (handResponse x s).event = s.event ∧
    (handResponse x s).free = s.free ∧ (handResponse x s).pending = s.pending :=
  by
  unfold handResponse; dsimp only; (repeat' split) <;> simp

@[simp] theorem handReply_frame (s : State) (x : Link) :
    (handReply x s).table = s.table ∧ (handReply x s).xlate = s.xlate ∧
    (handReply x s).sched = s.sched ∧ (handReply x s).tenure = s.tenure ∧
    (handReply x s).locks = s.locks ∧ (handReply x s).notices = s.notices ∧
    (handReply x s).refresh = s.refresh ∧ (handReply x s).chan = s.chan ∧
    (handReply x s).dram = s.dram ∧ (handReply x s).settings = s.settings ∧
    (handReply x s).channelOut = s.channelOut ∧ (handReply x s).event = s.event ∧
    (handReply x s).free = s.free ∧ (handReply x s).pending = s.pending :=
  by
  unfold handReply; dsimp only; (repeat' split) <;> simp

@[simp] theorem handNotice_frame (s : State) (x : Link) :
    (handNotice x s).table = s.table ∧ (handNotice x s).xlate = s.xlate ∧
    (handNotice x s).sched = s.sched ∧ (handNotice x s).tenure = s.tenure ∧
    (handNotice x s).locks = s.locks ∧ (handNotice x s).notices = s.notices ∧
    (handNotice x s).refresh = s.refresh ∧ (handNotice x s).chan = s.chan ∧
    (handNotice x s).dram = s.dram ∧ (handNotice x s).mgmt = s.mgmt ∧
    (handNotice x s).settings = s.settings ∧ (handNotice x s).channelOut = s.channelOut ∧
    (handNotice x s).event = s.event ∧ (handNotice x s).free = s.free ∧
    (handNotice x s).pending = s.pending :=
  by
  unfold handNotice; (repeat' split) <;> simp

@[simp] theorem handAlert_frame (s : State) :
    (handAlert s).table = s.table ∧ (handAlert s).xlate = s.xlate ∧
    (handAlert s).sched = s.sched ∧ (handAlert s).tenure = s.tenure ∧
    (handAlert s).locks = s.locks ∧ (handAlert s).notices = s.notices ∧
    (handAlert s).refresh = s.refresh ∧ (handAlert s).chan = s.chan ∧
    (handAlert s).dram = s.dram ∧ (handAlert s).settings = s.settings ∧
    (handAlert s).channelOut = s.channelOut ∧ (handAlert s).event = s.event ∧
    (handAlert s).free = s.free ∧ (handAlert s).pending = s.pending :=
  by
  unfold handAlert; dsimp only; (repeat' split) <;> simp

@[simp] theorem handCredit_frame (s : State) (x : Link) :
    (handCredit x s).table = s.table ∧ (handCredit x s).xlate = s.xlate ∧
    (handCredit x s).sched = s.sched ∧ (handCredit x s).tenure = s.tenure ∧
    (handCredit x s).locks = s.locks ∧ (handCredit x s).notices = s.notices ∧
    (handCredit x s).refresh = s.refresh ∧ (handCredit x s).chan = s.chan ∧
    (handCredit x s).dram = s.dram ∧ (handCredit x s).mgmt = s.mgmt ∧
    (handCredit x s).settings = s.settings ∧ (handCredit x s).channelOut = s.channelOut ∧
    (handCredit x s).event = s.event ∧ (handCredit x s).free = s.free ∧
    (handCredit x s).pending = s.pending :=
  by
  unfold handCredit; dsimp only; simp

@[simp] theorem handRestart_frame (s : State) (x : Link) :
    (handRestart x s).table = s.table ∧ (handRestart x s).xlate = s.xlate ∧
    (handRestart x s).sched = s.sched ∧ (handRestart x s).tenure = s.tenure ∧
    (handRestart x s).locks = s.locks ∧ (handRestart x s).notices = s.notices ∧
    (handRestart x s).refresh = s.refresh ∧ (handRestart x s).chan = s.chan ∧
    (handRestart x s).dram = s.dram ∧ (handRestart x s).mgmt = s.mgmt ∧
    (handRestart x s).settings = s.settings ∧ (handRestart x s).channelOut = s.channelOut ∧
    (handRestart x s).event = s.event ∧ (handRestart x s).free = s.free ∧
    (handRestart x s).pending = s.pending :=
  by
  unfold handRestart; simp

@[simp] theorem leaveDown_frame (s : State) (x : Link) :
    (leaveDown x s).table = s.table ∧ (leaveDown x s).xlate = s.xlate ∧
    (leaveDown x s).sched = s.sched ∧ (leaveDown x s).tenure = s.tenure ∧
    (leaveDown x s).locks = s.locks ∧ (leaveDown x s).notices = s.notices ∧
    (leaveDown x s).refresh = s.refresh ∧ (leaveDown x s).chan = s.chan ∧
    (leaveDown x s).dram = s.dram ∧ (leaveDown x s).mgmt = s.mgmt ∧
    (leaveDown x s).settings = s.settings ∧ (leaveDown x s).wire = s.wire ∧
    (leaveDown x s).channelOut = s.channelOut ∧ (leaveDown x s).event = s.event ∧
    (leaveDown x s).free = s.free ∧ (leaveDown x s).pending = s.pending :=
  by
  unfold leaveDown; simp

@[simp] theorem sendTrain_frame (s : State) (x : Link) :
    (sendTrain s x).table = s.table ∧ (sendTrain s x).xlate = s.xlate ∧
    (sendTrain s x).sched = s.sched ∧ (sendTrain s x).tenure = s.tenure ∧
    (sendTrain s x).locks = s.locks ∧ (sendTrain s x).notices = s.notices ∧
    (sendTrain s x).refresh = s.refresh ∧ (sendTrain s x).chan = s.chan ∧
    (sendTrain s x).dram = s.dram ∧ (sendTrain s x).mgmt = s.mgmt ∧
    (sendTrain s x).settings = s.settings ∧ (sendTrain s x).channelOut = s.channelOut ∧
    (sendTrain s x).event = s.event ∧ (sendTrain s x).free = s.free ∧
    (sendTrain s x).pending = s.pending :=
  by
  unfold sendTrain; simp

@[simp] theorem sendFirst_frame (s : State) (x : Link) :
    (sendFirst x s).table = s.table ∧ (sendFirst x s).xlate = s.xlate ∧
    (sendFirst x s).sched = s.sched ∧ (sendFirst x s).tenure = s.tenure ∧
    (sendFirst x s).locks = s.locks ∧ (sendFirst x s).notices = s.notices ∧
    (sendFirst x s).refresh = s.refresh ∧ (sendFirst x s).chan = s.chan ∧
    (sendFirst x s).dram = s.dram ∧ (sendFirst x s).mgmt = s.mgmt ∧
    (sendFirst x s).settings = s.settings ∧ (sendFirst x s).channelOut = s.channelOut ∧
    (sendFirst x s).event = s.event ∧ (sendFirst x s).free = s.free ∧
    (sendFirst x s).pending = s.pending :=
  by
  unfold sendFirst; dsimp only; simp

@[simp] theorem takeTrain_frame (s : State) (x : Link) (seen : Bool) :
    (takeTrain x seen s).table = s.table ∧ (takeTrain x seen s).xlate = s.xlate ∧
    (takeTrain x seen s).sched = s.sched ∧ (takeTrain x seen s).tenure = s.tenure ∧
    (takeTrain x seen s).locks = s.locks ∧ (takeTrain x seen s).notices = s.notices ∧
    (takeTrain x seen s).refresh = s.refresh ∧ (takeTrain x seen s).chan = s.chan ∧
    (takeTrain x seen s).dram = s.dram ∧ (takeTrain x seen s).mgmt = s.mgmt ∧
    (takeTrain x seen s).settings = s.settings ∧ (takeTrain x seen s).channelOut = s.channelOut ∧
    (takeTrain x seen s).event = s.event ∧ (takeTrain x seen s).free = s.free ∧
    (takeTrain x seen s).pending = s.pending :=
  by
  unfold takeTrain; dsimp only; (repeat' split) <;> simp

@[simp] theorem takeLateTrain_frame (s : State) (x : Link) (seen : Bool) :
    (takeLateTrain x seen s).dram = s.dram ∧ (takeLateTrain x seen s).settings = s.settings ∧
    (takeLateTrain x seen s).event = s.event ∧ (takeLateTrain x seen s).pending = s.pending :=
  by
  unfold takeLateTrain; (repeat' split) <;> simp

@[simp] theorem actOnAck_frame (s : State) (x : Link) (acked : Byte) :
    (actOnAck s x acked).table = s.table ∧ (actOnAck s x acked).xlate = s.xlate ∧
    (actOnAck s x acked).sched = s.sched ∧ (actOnAck s x acked).tenure = s.tenure ∧
    (actOnAck s x acked).locks = s.locks ∧ (actOnAck s x acked).notices = s.notices ∧
    (actOnAck s x acked).refresh = s.refresh ∧ (actOnAck s x acked).chan = s.chan ∧
    (actOnAck s x acked).dram = s.dram ∧ (actOnAck s x acked).mgmt = s.mgmt ∧
    (actOnAck s x acked).settings = s.settings ∧ (actOnAck s x acked).wire = s.wire ∧
    (actOnAck s x acked).channelOut = s.channelOut ∧ (actOnAck s x acked).event = s.event ∧
    (actOnAck s x acked).free = s.free ∧ (actOnAck s x acked).pending = s.pending :=
  by
  unfold actOnAck; (repeat' split) <;> simp

@[simp] theorem actOnRetryReq_frame (s : State) (x : Link) (wanted : Byte) :
    (actOnRetryReq s x wanted).table = s.table ∧ (actOnRetryReq s x wanted).xlate = s.xlate ∧
    (actOnRetryReq s x wanted).sched = s.sched ∧ (actOnRetryReq s x wanted).tenure = s.tenure ∧
    (actOnRetryReq s x wanted).locks = s.locks ∧ (actOnRetryReq s x wanted).notices = s.notices ∧
    (actOnRetryReq s x wanted).refresh = s.refresh ∧ (actOnRetryReq s x wanted).chan = s.chan ∧
    (actOnRetryReq s x wanted).dram = s.dram ∧ (actOnRetryReq s x wanted).mgmt = s.mgmt ∧
    (actOnRetryReq s x wanted).settings = s.settings ∧
    (actOnRetryReq s x wanted).channelOut = s.channelOut ∧
    (actOnRetryReq s x wanted).event = s.event ∧ (actOnRetryReq s x wanted).free = s.free ∧
    (actOnRetryReq s x wanted).pending = s.pending :=
  by
  unfold actOnRetryReq; dsimp only; (repeat' split) <;> simp

@[simp] theorem judgeMark_frame (s : State) (x : Link) (mark : Byte) :
    (judgeMark s x mark).table = s.table ∧ (judgeMark s x mark).xlate = s.xlate ∧
    (judgeMark s x mark).sched = s.sched ∧ (judgeMark s x mark).tenure = s.tenure ∧
    (judgeMark s x mark).locks = s.locks ∧ (judgeMark s x mark).notices = s.notices ∧
    (judgeMark s x mark).refresh = s.refresh ∧ (judgeMark s x mark).chan = s.chan ∧
    (judgeMark s x mark).dram = s.dram ∧ (judgeMark s x mark).mgmt = s.mgmt ∧
    (judgeMark s x mark).settings = s.settings ∧ (judgeMark s x mark).wire = s.wire ∧
    (judgeMark s x mark).channelOut = s.channelOut ∧ (judgeMark s x mark).event = s.event ∧
    (judgeMark s x mark).free = s.free ∧ (judgeMark s x mark).pending = s.pending :=
  by
  unfold judgeMark; (repeat' split) <;> simp

@[simp] theorem expireRetry_frame (s : State) (x : Link) :
    (expireRetry x s).dram = s.dram ∧ (expireRetry x s).settings = s.settings ∧
    (expireRetry x s).event = s.event ∧ (expireRetry x s).pending = s.pending :=
  by
  unfold expireRetry; (repeat' split) <;> simp

@[simp] theorem expireReplay_frame (s : State) (x : Link) :
    (expireReplay x s).dram = s.dram ∧ (expireReplay x s).settings = s.settings ∧
    (expireReplay x s).event = s.event ∧ (expireReplay x s).pending = s.pending :=
  by
  unfold expireReplay; (repeat' split) <;> simp

end Sys2Proof.Machine
end

