-- ==== Sys2Proof/Laws/Slots.lean ====
section
/-! SUPPORT. Slots: which records the table holds, where a new request goes, and the order of arrival. -/

namespace Sys2Proof.Machine

/-! ## Reading and writing slots -/

/-- The record of a slot as the list of slots gives it. -/
theorem slotAt_eq_some {s : State} {i : Nat} {t : Txn} :
    slotAt s i = some t ↔ s.table.slots[i]? = some (some t) := by
  simp only [slotAt, List.getD_eq_getElem?_getD]
  cases s.table.slots[i]? <;> simp

/-- A live slot is one of the table's. -/
theorem lt_of_slotAt {s : State} {i : Nat} {t : Txn} (h : slotAt s i = some t) :
    i < s.table.slots.length :=
  (List.getElem?_eq_some_iff.mp (slotAt_eq_some.mp h)).1

/-- Slots are read from the field `table` alone. -/
theorem slotAt_congr {s t : State} (h : t.table = s.table) (i : Nat) : slotAt t i = slotAt s i := by
  simp [slotAt, h]

/-- The slots after one is set. -/
theorem slotAt_of_set {s u : State} {i : Nat} {t : Option Txn}
    (h : u.table.slots = s.table.slots.set i t) (j : Nat) :
    slotAt u j = if j = i ∧ i < s.table.slots.length then t else slotAt s j := by
  simp only [slotAt, h, List.getD_eq_getElem?_getD, List.getElem?_set]
  by_cases h : i = j
  · subst h
    by_cases hl : i < s.table.slots.length <;> simp [hl]
  · simp [h, Ne.symm h]

/-- The slots after `setSlot`. -/
theorem slotAt_setSlot (s : State) (i j : Nat) (t : Option Txn) :
    slotAt (setSlot s i t) j = if j = i ∧ i < s.table.slots.length then t else slotAt s j :=
  slotAt_of_set rfl j

/-- Setting a live slot. -/
theorem slotAt_setSlot_self {s : State} {i : Nat} {u : Txn} (h : slotAt s i = some u)
    (t : Option Txn) : slotAt (setSlot s i t) i = t := by
  simp [slotAt_setSlot, lt_of_slotAt h]

/-- Setting one slot leaves the others. -/
theorem slotAt_setSlot_ne (s : State) {i j : Nat} (h : j ≠ i) (t : Option Txn) :
    slotAt (setSlot s i t) j = slotAt s j := by
  simp [slotAt_setSlot, h]

/-- The slots after `modSlot`. -/
theorem slotAt_modSlot (s : State) (i j : Nat) (f : Txn → Txn) :
    slotAt (modSlot s i f) j = if j = i then (slotAt s i).map f else slotAt s j := by
  rw [modSlot, slotAt_setSlot]
  by_cases h : j = i
  · subst h
    by_cases hl : j < s.table.slots.length
    · simp [hl]
    · have : slotAt s j = none := by
        simp [slotAt, List.getD_eq_getElem?_getD, List.getElem?_eq_none (Nat.le_of_not_lt hl)]
      simp [this]
  · simp [h]

/-! ## Live slots -/

/-- Membership in the live slots. -/
theorem mem_liveSlots {s : State} {p : Nat × Txn} :
    p ∈ liveSlots s ↔ slotAt s p.1 = some p.2 := by
  rw [slotAt_eq_some]
  simp only [liveSlots, liveIn, List.mem_filterMap, Option.map_eq_some_iff, Prod.exists,
    List.mem_zipIdx_iff_getElem?]
  constructor
  · rintro ⟨o, i, h, t, ho, rfl⟩; simpa [ho] using h
  · intro h; exact ⟨some p.2, p.1, h, p.2, rfl, rfl⟩

/-- Membership in the live slots of a link. -/
theorem mem_liveOf {s : State} {x : Link} {p : Nat × Txn} :
    p ∈ liveOf s x ↔ slotAt s p.1 = some p.2 ∧ p.2.link = x := by
  simp [liveOf, mem_liveSlots]

/-- Live slots are read from the field `table` alone. -/
theorem liveOf_congr {s t : State} (h : t.table = s.table) (x : Link) : liveOf t x = liveOf s x := by
  simp [liveOf, liveSlots, h]

/-- The lowest FREE slot. -/
theorem freeSlot_eq_some {s : State} {i : Nat} :
    freeSlot s.table.slots = some i ↔
      i < s.table.slots.length ∧ slotAt s i = none ∧ ∀ j < i, slotAt s j ≠ none := by
  rw [freeSlot, List.findIdx?_eq_some_iff_getElem]
  constructor
  · rintro ⟨h, hi, hj⟩
    refine ⟨h, ?_, fun j hji => ?_⟩
    · simpa [slotAt, List.getD_eq_getElem?_getD, h] using hi
    · have hl := Nat.lt_trans hji h
      have := hj j hji
      simpa [slotAt, List.getD_eq_getElem?_getD, hl] using this
  · rintro ⟨h, hi, hj⟩
    refine ⟨h, ?_, fun j hji => ?_⟩
    · simpa [slotAt, List.getD_eq_getElem?_getD, h] using hi
    · have hl := Nat.lt_trans hji h
      have := hj j hji
      simpa [slotAt, List.getD_eq_getElem?_getD, hl] using this

/-! ## The order of arrival -/

/-- Inserting keeps what was there and adds the new slot. -/
theorem mem_insertByArrival (s : State) (p q : Nat × Txn) (l : List (Nat × Txn)) :
    q ∈ insertByArrival s p l ↔ q = p ∨ q ∈ l := by
  induction l with
  | nil => simp [insertByArrival]
  | cons a l ih =>
    simp only [insertByArrival]; split
    · simp
    · simp only [List.mem_cons, ih]; exact or_left_comm

/-- Sorting by arrival keeps the slots. -/
theorem mem_byArrival (s : State) (q : Nat × Txn) (l : List (Nat × Txn)) :
    q ∈ byArrival s l ↔ q ∈ l := by
  induction l with
  | nil => simp [byArrival]
  | cons a l ih =>
    have : byArrival s (a :: l) = insertByArrival s a (byArrival s l) := rfl
    rw [this, mem_insertByArrival, ih, List.mem_cons]

/-- `p` does not come after `q`. -/
def notAfter (s : State) (p q : Nat × Txn) : Prop := arrivedBefore s q.2 p.2 = false

theorem sorted_insertByArrival (s : State) (p : Nat × Txn) (l : List (Nat × Txn))
    (h : l.Pairwise (notAfter s)) : (insertByArrival s p l).Pairwise (notAfter s) := by
  induction l with
  | nil => simp [insertByArrival]
  | cons a l ih =>
    have ha := List.pairwise_cons.mp h
    simp only [insertByArrival]; split
    · rename_i hp
      refine List.pairwise_cons.mpr ⟨fun q hq => ?_, h⟩
      rcases List.mem_cons.mp hq with rfl | hq
      · simp [notAfter, arrivedBefore] at *; omega
      · have := ha.1 q hq; simp [notAfter, arrivedBefore] at *; omega
    · rename_i hp
      refine List.pairwise_cons.mpr ⟨fun q hq => ?_, ih ha.2⟩
      rcases (mem_insertByArrival s p q l).mp hq with rfl | hq
      · simpa [notAfter] using hp
      · exact ha.1 q hq

/-- Sorting by arrival puts older slots first. -/
theorem sorted_byArrival (s : State) (l : List (Nat × Txn)) :
    (byArrival s l).Pairwise (notAfter s) := by
  induction l with
  | nil => simp [byArrival]
  | cons a l ih => exact sorted_insertByArrival s a _ ih

/-- Arrival is compared by the field `table` alone. -/
theorem byArrival_congr {s t : State} (h : t.table = s.table) (l : List (Nat × Txn)) :
    byArrival t l = byArrival s l := by
  have hi : ∀ p l, insertByArrival t p l = insertByArrival s p l := by
    intro p l
    induction l with
    | nil => rfl
    | cons a l ih => simp only [insertByArrival, arrivedBefore, h, ih]; rfl
  induction l with
  | nil => rfl
  | cons a l ih =>
    show insertByArrival t a (byArrival t l) = insertByArrival s a (byArrival s l)
    rw [ih, hi]

/-- Which intake step may be taken is read from three fields. -/
theorem intakeReady_congr {s t : State} (h : t.table = s.table) (hx : t.xlate = s.xlate)
    (hc : t.chan = s.chan) (x : Link) : intakeReady t x = intakeReady s x := by
  simp only [intakeReady, fenceWaiting, liveOf_congr h, hx, warmReset, hc, intakeOrder,
    byArrival_congr h]
  rfl

/-- The slot whose intake step may be taken is in INTAKE and its link's. -/
theorem intakeReady_spec {s : State} {x : Link} {i : Nat} {t : Txn}
    (h : intakeReady s x = some (i, t)) :
    slotAt s i = some t ∧ t.link = x ∧ t.state = .intake ∧ fenceWaiting s x = false ∧
      s.xlate.commit ≠ .draining ∧ warmReset s = false := by
  unfold intakeReady at h
  split at h
  · cases h
  · rename_i hc
    have hm := (mem_byArrival s (i, t) _).mp (List.mem_of_mem_head? h)
    simp [mem_liveOf] at hm
    simp at hc
    exact ⟨hm.1.1, hm.1.2, hm.2, hc.1.1, hc.1.2, hc.2⟩

/-! ## Requests that reach the table -/

/-- An accepted packet is passed on at `accepted`. -/
theorem receive_accepts {s : State} {x : Link} {seq : Byte} (h : accepts s x seq)
    (f : State → State) : receive s x seq f = f (accepted s x) := by
  obtain ⟨hs, he⟩ := h
  unfold receive accepted linkIs
  cases hst : (linkOf s x).state <;> simp [inService, hst] at hs <;> simp [he]

/-- What a request row does is to bring its record to the table. -/
theorem exec_requestOf {c : Instr} {r : Txn} {seq : Byte} (h : requestOf c = some (r, seq))
    (s : State) : exec c s = .next (receive s r.link seq (arriveRequest r)) := by
  cases c <;> simp [requestOf] at h <;> obtain ⟨rfl, rfl⟩ := h <;> rfl

/-- The fields that the acceptance of a packet leaves. -/
@[simp] theorem accepted_frame (s : State) (x : Link) :
    (accepted s x).table = s.table ∧ (accepted s x).xlate = s.xlate ∧
    (accepted s x).sched = s.sched ∧ (accepted s x).tenure = s.tenure ∧
    (accepted s x).locks = s.locks ∧ (accepted s x).notices = s.notices ∧
    (accepted s x).refresh = s.refresh ∧ (accepted s x).chan = s.chan ∧
    (accepted s x).dram = s.dram ∧ (accepted s x).mgmt = s.mgmt ∧
    (accepted s x).settings = s.settings ∧ (accepted s x).channelOut = [] ∧
    (accepted s x).event = s.event + 1 ∧ (accepted s x).free = s.free ∧
    (accepted s x).pending = s.pending := by
  unfold accepted; split <;> simp [beginEvent]

/-! ## The acceptance at the Link Controller -/

@[simp] theorem linkOf_beginEvent (s : State) (x : Link) : linkOf (beginEvent s) x = linkOf s x := rfl

@[simp] theorem linkOf_putOnWire (s : State) (x y : Link) (ps : List WirePacket) :
    linkOf (putOnWire s x ps) y = linkOf s y := rfl

@[simp] theorem linkOf_sendLevel (s : State) (x y : Link) (p : LinkCtl → WirePacket) :
    linkOf (sendLevel s x p) y = linkOf s y := rfl

/-- The Link Controller after an acceptance. -/
theorem linkOf_acceptPacket (s : State) (x : Link) :
    linkOf (acceptPacket s x) x =
      if (linkOf s x).unacked + 1 = 8 then
        { linkOf s x with expected := (linkOf s x).expected + 1, unacked := 0, ackTimer := .stopped }
      else { linkOf s x with
        expected := (linkOf s x).expected + 1
        unacked := (linkOf s x).unacked + 1
        ackTimer := if (linkOf s x).unacked = 0 then loaded (usUnits 2) else (linkOf s x).ackTimer } := by
  unfold acceptPacket
  simp only [linkOf_modLink]
  split <;> simp [sendAck, clearUnacked]

/-- An acceptance on one link leaves the other. -/
theorem linkOf_acceptPacket_ne (s : State) {x y : Link} (h : y ≠ x) :
    linkOf (acceptPacket s x) y = linkOf s y := by
  unfold acceptPacket
  simp only [linkOf_modLink]
  split <;> simp [sendAck, linkOf_modLink_ne _ _ _ _ h]

/-- The acceptance of a packet leaves every current limit. -/
@[simp] theorem currentLimit_accepted (s : State) (x y : Link) :
    (linkOf (accepted s x) y).currentLimit = (linkOf s y).currentLimit := by
  unfold accepted
  by_cases h : y = x
  · subst h; rw [linkOf_acceptPacket]; (repeat' split) <;> simp [leaveRetry]
  · rw [linkOf_acceptPacket_ne _ h]; split <;> simp [linkOf_modLink_ne _ _ _ _ h]

end Sys2Proof.Machine
end

