-- ==== Sys2Proof/Laws/Requests.lean ====
section
/-! SUPPORT. What the operations of the intake step do, each said once: the slot in REPLY, the ordering
point, the entry into QUEUED, and the way of a request through the checks. -/

namespace Sys2Proof.Machine

/-! ## One operation at a time -/

/-- A live slot enters REPLY. -/
theorem enterReply_eq {s : State} {i : Nat} {t : Txn} (st : MemStatus) (h : slotAt s i = some t) :
    enterReply s i st = { s with table := { s.table with
      slots := s.table.slots.set i (some { t with
        state := .reply, status := some st, replySince := s.event })
      responses := s.table.responses.set t.link (s.table.responses.get t.link ++ [i]) } } := by
  simp [enterReply, h, setSlot, withSlots]

/-- A live slot enters REPLY at the event after `s`. -/
theorem enterReply_beginEvent {s : State} {i : Nat} {t : Txn} (st : MemStatus)
    (h : slotAt s i = some t) :
    enterReply (beginEvent s) i st = { beginEvent s with table := repliedTable s i t st } := by
  rw [enterReply_eq st (show slotAt (beginEvent s) i = some t from h)]; rfl

/-- Changing a live slot. -/
theorem modSlot_eq {s : State} {i : Nat} {t : Txn} (f : Txn → Txn) (h : slotAt s i = some t) :
    modSlot s i f = setSlot s i (some (f t)) := by
  simp [modSlot, h]

@[simp] theorem setSlot_setSlot (s : State) (i : Nat) (a b : Option Txn) :
    setSlot (setSlot s i a) i b = setSlot s i b := by
  simp [setSlot, withSlots]

/-- The candidates of slot `i` stand in the other slots. -/
theorem candidates_set (s : State) (i : Nat) (o : Option Txn) (t : Txn) (l : List (Option Txn)) :
    ((liveIn (l.set i o)).filter fun p => predCandidate s i t p.1 p.2) =
      (liveIn l).filter fun p => predCandidate s i t p.1 p.2 := by
  have key : ∀ (l : List (Option Txn)) (k j : Nat), k + j = i →
      (((l.set j o).zipIdx k).filterMap fun p => p.1.map fun t => (p.2, t)).filter
          (fun p => predCandidate s i t p.1 p.2) =
        ((l.zipIdx k).filterMap fun p => p.1.map fun t => (p.2, t)).filter
          (fun p => predCandidate s i t p.1 p.2) := by
    intro l
    induction l with
    | nil => intros; rfl
    | cons a l ih =>
      intro k j hkj
      cases j with
      | zero =>
        have hk : k = i := by omega
        subst hk
        have hc : ∀ u, predCandidate s k t k u = false := by intro u; simp [predCandidate]
        cases o <;> cases a <;> simp [hc]
      | succ j =>
        have := ih (k + 1) j (by omega)
        cases a <;> simp [List.filter_cons] <;> simp [this]
  exact key l 0 i (by omega)

/-- The own record of a slot does not bear on its predecessor. -/
theorem choosePred_setSlot (s : State) (i : Nat) (o : Option Txn) (t : Txn) :
    choosePred (setSlot s i o) i t = choosePred s i t := by
  have hp : predCandidate (setSlot s i o) = predCandidate s := rfl
  have hl : laterTrans (setSlot s i o) = laterTrans s := rfl
  unfold choosePred
  rw [hp, hl]
  show (List.foldl _ none (List.filter _ (liveIn (s.table.slots.set i o)))).map _ = _
  rw [candidates_set]; rfl

/-- A live slot reaches its ordering point. -/
theorem orderingPoint_eq {s : State} {i : Nat} {t : Txn} (h : slotAt s i = some t) :
    orderingPoint s i = { s with table := { s.table with
      slots := s.table.slots.set i (some { t with
        transNo := some s.table.transCounter
        pred := choosePred s i { t with transNo := none }
        lockWait := none })
      transCounter := s.table.transCounter + 1 } } := by
  simp [orderingPoint, h, setSlot, withSlots]

/-- A record placed in a live slot enters QUEUED at its ordering point. -/
theorem queueFree_eq {s : State} {i : Nat} {t u : Txn} (h : slotAt s i = some u) :
    queueFree (setSlot s i (some t)) i = { s with table := { s.table with
      slots := s.table.slots.set i (some { t with
        state := .queued
        transNo := some s.table.transCounter
        pred := choosePred s i { t with transNo := none }
        lockWait := none })
      transCounter := s.table.transCounter + 1 } } := by
  unfold queueFree enterQueued
  rw [modSlot_eq (t := t) _ (slotAt_setSlot_self h _), setSlot_setSlot,
    orderingPoint_eq (t := { t with state := .queued }) (slotAt_setSlot_self h _),
    choosePred_setSlot]
  simp only [setSlot, withSlots, List.set_set]; rfl

/-- A record placed in a live slot enters QUEUED blocked on the entry of a block. -/
theorem queueBlocked_eq {s : State} {i b : Nat} {t u : Txn} (h : slotAt s i = some u) :
    queueBlocked (setSlot s i (some t)) i b =
      setSlot s i (some { t with state := .queued, lockWait := some b }) := by
  unfold queueBlocked enterQueued waitOn
  rw [modSlot_eq (t := t) _ (slotAt_setSlot_self h _), setSlot_setSlot,
    modSlot_eq (t := { t with state := .queued }) _ (slotAt_setSlot_self h _), setSlot_setSlot]

/-! ## The way of a request -/

/-- The intake step of the oldest slot. -/
theorem answers_intakeStep {s : State} {x : Link} {i : Nat} {t : Txn}
    (h : intakeReady s x = some (i, t)) {u : State} (hu : intakeStep (beginEvent s) i t = u) :
    answers (.intakeStep x) s u := by
  have hb : intakeReady (beginEvent s) x = some (i, t) := by
    rw [← h]; exact intakeReady_congr (by simp) (by simp) (by simp) x
  show happens _ s _ = _
  simp [happens, h, takeIntake, hb, hu]

/-- Past the table's own checks the Translation Unit is consulted. -/
theorem intakeStep_consults {s : State} {i : Nat} {t : Txn} (h : passesTable s i t) :
    intakeStep (beginEvent s) i t = consult (beginEvent s) i t := by
  obtain ⟨hm, ht, hf, hc, ha⟩ := h
  have ht' : tagTaken (beginEvent s) i t = false := ht
  simp [intakeStep, hm, ht', hf, hc, ha]

/-- The Translation Unit passes the request. -/
theorem consult_ok {s : State} {i : Nat} {t : Txn} {p : Nat}
    (h : translate s { t with epoch := some s.xlate.epoch } = .ok p) :
    consult (beginEvent s) i t =
      placeRequest (setSlot (beginEvent s) i (some (located s t p))) i (located s t p) p := by
  have h' : translate (beginEvent s) { t with epoch := some (beginEvent s).xlate.epoch } = .ok p := h
  simp only [consult]; rw [h']; rfl

/-- The Translation Unit refuses the request. -/
theorem consult_error {s : State} {i : Nat} {t u : Txn} {st : MemStatus}
    (h : translate s { t with epoch := some s.xlate.epoch } = .error st)
    (hu : slotAt s i = some u) :
    consult (beginEvent s) i t = { beginEvent s with
      table := repliedTable s i { t with epoch := some s.xlate.epoch } st } := by
  have h' : translate (beginEvent s) { t with epoch := some (beginEvent s).xlate.epoch } =
    .error st := h
  have hs : slotAt (beginEvent s) i = some u := hu
  simp only [consult]; rw [h']; dsimp only
  rw [enterReply_eq st (slotAt_setSlot_self hs _)]
  simp only [setSlot, withSlots, List.set_set]; rfl

/-- A record placed in a live slot enters REPLY. -/
theorem enterReply_setSlot {s : State} {i : Nat} {t u : Txn} (st : MemStatus)
    (h : slotAt s i = some u) :
    enterReply (setSlot (beginEvent s) i (some t)) i st =
      { beginEvent s with table := repliedTable s i t st } := by
  rw [enterReply_eq st (slotAt_setSlot_self (s := beginEvent s) h _)]
  simp only [setSlot, withSlots, List.set_set]; rfl

/-- Some entry of link `x` on a block is HELD. -/
theorem heldBy_iff {s : State} {x : Link} {b : Nat} :
    heldBy s x b = true ↔ ∃ e ∈ s.locks, e.block = b ∧ e.holder = x ∧ e.state = .held := by
  simp [heldBy, and_assoc]

end Sys2Proof.Machine
end

