-- ==== Sys2Proof/Laws/Banks.lean ====
section
/-! SUPPORT. What close requests and the consequences of an event leave of a bank record: its state,
row, behaviour, streak, service and last commands. -/

namespace Sys2Proof.Machine

/-- The part of a bank record that no close request and no consequence of an event changes. -/
def bankCore (b : Bank) :
    BankState × Option Nat × Behaviour × Nat × Option Service × Nat × Nat :=
  (b.state, b.row, b.behaviour, b.streak, b.serving, b.activatedAt, b.writtenAt)

/-- The cores of all bank records, by position. -/
def bankCores (s : State) :
    List (BankState × Option Nat × Behaviour × Nat × Option Service × Nat × Nat) :=
  s.sched.banks.map bankCore

/-- Changing one bank without touching its core leaves all cores. -/
theorem map_modify_core (banks : List Bank) (pos : Nat) (f : Bank → Bank)
    (h : ∀ b, bankCore (f b) = bankCore b) :
    (banks.modify pos f).map bankCore = banks.map bankCore := by
  apply List.ext_getElem? ; intro i
  simp only [List.getElem?_map, List.getElem?_modify]
  cases banks[i]? <;> simp; split <;> simp [h]

theorem bankCores_modBank (s : State) (pos : Nat) (f : Bank → Bank)
    (h : ∀ b, bankCore (f b) = bankCore b) : bankCores (modBank s pos f) = bankCores s :=
  map_modify_core _ _ _ h

@[simp] theorem bankCores_requestClose (s : State) (pos : Nat) :
    bankCores (requestClose s pos) = bankCores s := by
  apply bankCores_modBank; intro b; split <;> (try split) <;> rfl

@[simp] theorem bankCores_requestCloses (s : State) (ps : List Nat) :
    bankCores (requestCloses s ps) = bankCores s :=
  foldl_keeps bankCores requestClose bankCores_requestClose ps s

theorem bankCores_victimClose (s : State) (rank : Nat) :
    bankCores (victimClose s rank) = bankCores s := by
  unfold victimClose; (repeat' split) <;> simp

@[simp] theorem bankCores_settleVictims (s : State) : bankCores (settleVictims s) = bankCores s :=
  foldl_keeps bankCores victimClose bankCores_victimClose _ s

@[simp] theorem bankCores_sleepBanks (s : State) : bankCores (sleepBanks s) = bankCores s := by
  simp only [bankCores, sleepBanks, List.map_map]; rfl

/-- The cores are read from the field `sched` alone. -/
theorem bankCores_congr {s t : State} (h : t.sched = s.sched) : bankCores t = bankCores s := by
  simp [bankCores, h]

@[simp] theorem bankCores_afterAccess (s : State) (pos : Nat) :
    bankCores (afterAccess s pos) = bankCores s := by
  unfold afterAccess
  (repeat' split) <;> first
    | rfl
    | (apply bankCores_modBank; intro b; rfl)
    | simp

@[simp] theorem bankCores_withTenure (s : State) (t : Tenure) :
    bankCores (withTenure s t) = bankCores s := rfl

@[simp] theorem bankCores_withRefresh (s : State) (r : Refresh) :
    bankCores (withRefresh s r) = bankCores s := rfl

@[simp] theorem bankCores_restRefresh (s : State) : bankCores (restRefresh s) = bankCores s := rfl

@[simp] theorem bankCores_clearRecent (s : State) : bankCores (clearRecent s) = bankCores s := rfl

@[simp] theorem bankCores_raiseAlert (s : State) (k : AlertKind) (x : Option Link)
    (a : Option Nat) (c : Option Cause) (v : Option Nat) :
    bankCores (raiseAlert s k x a c v) = bankCores s := bankCores_congr (by simp)

@[simp] theorem bankCores_endLong (s : State) (k : LongKind) (st : MgmtStatus) (v : ReplyValue) :
    bankCores (endLong s k st v) = bankCores s := bankCores_congr (by simp)

@[simp] theorem bankCores_commitSwitch (s : State) :
    bankCores (commitSwitch s) = bankCores s := bankCores_congr (by simp)

@[simp] theorem bankCores_setDue (s : State) (d : HandOver) :
    bankCores (setDue s d) = bankCores s := bankCores_congr (by simp)

@[simp] theorem bankCores_passTenure (s : State) (y : Link) :
    bankCores (passTenure s y) = bankCores s := by
  unfold passTenure; dsimp only; (repeat' split) <;> simp

@[simp] theorem bankCores_makePass (s : State) (x : Link) :
    bankCores (makePass s x) = bankCores s := by
  unfold makePass; (repeat' split) <;> simp

@[simp] theorem bankCores_makeGrant (s : State) : bankCores (makeGrant s) = bankCores s := by
  unfold makeGrant; split <;> simp

@[simp] theorem bankCores_pauseTenure (s : State) : bankCores (pauseTenure s) = bankCores s := rfl

@[simp] theorem bankCores_beginOpportunistic (s : State) :
    bankCores (beginOpportunistic s) = bankCores s := by
  simp [beginOpportunistic]

@[simp] theorem bankCores_tryEpisode (s : State) : bankCores (tryEpisode s) = bankCores s := by
  unfold tryEpisode; split <;> simp

@[simp] theorem bankCores_forceTest (s : State) : bankCores (forceTest s) = bankCores s := by
  unfold forceTest; dsimp only; (repeat' split) <;> simp

@[simp] theorem bankCores_addDebt (s : State) : bankCores (addDebt s) = bankCores s := by
  unfold addDebt; dsimp only; rw [bankCores_forceTest]; split <;> simp

@[simp] theorem bankCores_settleCommit (s : State) :
    bankCores (settleCommit s) = bankCores s := bankCores_congr (by simp)

@[simp] theorem bankCores_waitingToClosing (s : State) :
    bankCores (waitingToClosing s) = bankCores s := bankCores_congr (by simp)

@[simp] theorem bankCores_judgeIdle (s : State) :
    bankCores (judgeIdle s) = bankCores s := bankCores_congr (by simp)

@[simp] theorem bankCores_clearDue (s : State) :
    bankCores (clearDue s) = bankCores s := bankCores_congr (by simp)

@[simp] theorem bankCores_wantDue (s : State) :
    bankCores (wantDue s) = bankCores s := bankCores_congr (by simp)

@[simp] theorem bankCores_closingToRefreshing (s : State) :
    bankCores (closingToRefreshing s) = bankCores s := bankCores_congr (by simp)

@[simp] theorem bankCores_warmSleep (s : State) :
    bankCores (warmSleep s) = bankCores s := by
  have h : bankCores (sendWarmSrEnter s) = bankCores s := bankCores_congr (by simp)
  rw [← h]; unfold warmSleep enterWarmSleep
  (repeat' split)
  · rfl
  · rw [bankCores_restRefresh, bankCores_sleepBanks]; rfl
  · rfl

@[simp] theorem bankCores_settlePass (s : State) : bankCores (settlePass s) = bankCores s := by
  unfold settlePass; (repeat' split) <;> simp

@[simp] theorem bankCores_settleGrant (s : State) : bankCores (settleGrant s) = bankCores s := by
  unfold settleGrant; dsimp only; (repeat' split) <;> simp <;> rfl

@[simp] theorem bankCores_settleQuiesce (s : State) :
    bankCores (settleQuiesce s) = bankCores s := by
  unfold settleQuiesce; split <;> simp

@[simp] theorem bankCores_raiseBroken (s : State) (es : List LockEntry) :
    bankCores (raiseBroken s es) = bankCores s := bankCores_congr (by simp)

@[simp] theorem bankCores_sendDram (s : State) (cs : List DramCommand) :
    bankCores (sendDram s cs) = bankCores s := rfl

@[simp] theorem bankCores_enterSelfRefresh (s : State) :
    bankCores (enterSelfRefresh s) = bankCores s := by
  unfold enterSelfRefresh; dsimp only
  rw [bankCores_endLong, bankCores_restRefresh, bankCores_withTenure, bankCores_raiseBroken]
  exact bankCores_sleepBanks _

@[simp] theorem bankCores_settleSleep (s : State) : bankCores (settleSleep s) = bankCores s := by
  unfold settleSleep; rw [bankCores_warmSleep]; split <;> simp

/-- The consequences of an event leave the core of every bank record. -/
@[simp] theorem bankCores_settle (s : State) : bankCores (settle s) = bankCores s := by
  simp [settle]

/-- The bank at a position has the same core after the consequences of an event. -/
theorem bankAt_settle (s : State) (pos : Nat) :
    (bankAt (settle s) pos).map bankCore = (bankAt s pos).map bankCore := by
  have h := congrArg (fun l => l[pos]?) (bankCores_settle s)
  simpa [bankCores, bankAt, List.getElem?_map] using h

/-! ## The times a PRECHARGE waits for -/

/-- Noting the times of a bank, given its record. -/
theorem noteClocks_eq {s : State} {pos : Nat} {b : Bank} (h : bankAt s pos = some b) :
    noteClocks s pos = { s with sched := { s.sched with
      openedBy := max s.sched.openedBy b.activatedAt
      writtenBy := max s.sched.writtenBy b.writtenAt } } := by simp [noteClocks, h]

/-- It leaves the bank records, the lists of open rows and the position last granted. -/
@[simp] theorem noteClocks_sched (s : State) (pos : Nat) :
    (noteClocks s pos).sched.banks = s.sched.banks ∧
    (noteClocks s pos).sched.openRows0 = s.sched.openRows0 ∧
    (noteClocks s pos).sched.openRows1 = s.sched.openRows1 ∧
    (noteClocks s pos).sched.lastGranted = s.sched.lastGranted := by
  unfold noteClocks; split <;> simp

end Sys2Proof.Machine
end

