-- ==== Sys2Proof/Laws/Settle.lean ====
section
/-! SUPPORT. What the consequences of an event leave, beyond `settle_frame`: the claim and the lease,
the channel's sequences, the notice queues, the scheduler beside its banks and lists, and, outside a
quiesce, the locks, the channel state and the alerts. -/

namespace Sys2Proof.Machine

/-! ## The Management Unit -/

/-- Deciding an entry leaves the length of the list. -/
@[simp] theorem length_decideEntry (kind : MgmtKind) (st : MgmtStatus) (v : ReplyValue) (n : Nat)
    (l : List MgmtEntry) : (decideEntry kind st v n l).length = l.length := by
  induction l with
  | nil => rfl
  | cons e l ih => unfold decideEntry; split <;> simp [ih]

/-- What the end of a long operation leaves of the Management Unit. -/
@[simp] theorem endLong_mgmt (s : State) (k : LongKind) (st : MgmtStatus) (v : ReplyValue) :
    (endLong s k st v).mgmt.claim = s.mgmt.claim ∧ (endLong s k st v).mgmt.lease = s.mgmt.lease ∧
    (endLong s k st v).mgmt.discarded = s.mgmt.discarded ∧
    (endLong s k st v).mgmt.clock = s.mgmt.clock ∧
    (endLong s k st v).mgmt.alerts = s.mgmt.alerts ∧
    (endLong s k st v).mgmt.dropped = s.mgmt.dropped := by
  unfold endLong; (repeat' split) <;> simp

/-- The end of a long operation leaves the lengths of the reply lists. -/
@[simp] theorem length_replies_endLong (s : State) (k : LongKind) (st : MgmtStatus) (v : ReplyValue)
    (x : Link) :
    ((endLong s k st v).mgmt.replies.get x).length = (s.mgmt.replies.get x).length := by
  unfold endLong
  (repeat' split) <;> try rfl
  rename_i y _ _
  by_cases h : x = y
  · subst h; simp
  · simp [PerLink.get_set_ne _ _ _ _ h]

@[simp] theorem raiseAlert_mgmt (s : State) (k : AlertKind) (x : Option Link) (a : Option Nat)
    (c : Option Cause) (v : Option Nat) :
    (raiseAlert s k x a c v).mgmt.claim = s.mgmt.claim ∧
    (raiseAlert s k x a c v).mgmt.lease = s.mgmt.lease ∧
    (raiseAlert s k x a c v).mgmt.discarded = s.mgmt.discarded ∧
    (raiseAlert s k x a c v).mgmt.clock = s.mgmt.clock ∧
    (raiseAlert s k x a c v).mgmt.replies = s.mgmt.replies ∧
    (raiseAlert s k x a c v).mgmt.longOp = s.mgmt.longOp := by
  unfold raiseAlert; split <;> simp

@[simp] theorem raiseBroken_mgmt (s : State) (es : List LockEntry) :
    (raiseBroken s es).mgmt.claim = s.mgmt.claim ∧ (raiseBroken s es).mgmt.lease = s.mgmt.lease ∧
    (raiseBroken s es).mgmt.discarded = s.mgmt.discarded ∧
    (raiseBroken s es).mgmt.clock = s.mgmt.clock ∧
    (raiseBroken s es).mgmt.replies = s.mgmt.replies ∧
    (raiseBroken s es).mgmt.longOp = s.mgmt.longOp :=
  ⟨foldl_keeps (fun s => s.mgmt.claim) _ (fun _ _ => (raiseAlert_mgmt ..).1) es s,
   foldl_keeps (fun s => s.mgmt.lease) _ (fun _ _ => (raiseAlert_mgmt ..).2.1) es s,
   foldl_keeps (fun s => s.mgmt.discarded) _ (fun _ _ => (raiseAlert_mgmt ..).2.2.1) es s,
   foldl_keeps (fun s => s.mgmt.clock) _ (fun _ _ => (raiseAlert_mgmt ..).2.2.2.1) es s,
   foldl_keeps (fun s => s.mgmt.replies) _ (fun _ _ => (raiseAlert_mgmt ..).2.2.2.2.1) es s,
   foldl_keeps (fun s => s.mgmt.longOp) _ (fun _ _ => (raiseAlert_mgmt ..).2.2.2.2.2) es s⟩

@[simp] theorem settleCommit_mgmt (s : State) :
    (settleCommit s).mgmt.claim = s.mgmt.claim ∧ (settleCommit s).mgmt.lease = s.mgmt.lease ∧
    (settleCommit s).mgmt.discarded = s.mgmt.discarded ∧
    (settleCommit s).mgmt.clock = s.mgmt.clock ∧ (settleCommit s).mgmt.alerts = s.mgmt.alerts ∧
    (settleCommit s).mgmt.dropped = s.mgmt.dropped := by
  unfold settleCommit; dsimp only; split <;> simp

@[simp] theorem length_replies_settleCommit (s : State) (x : Link) :
    ((settleCommit s).mgmt.replies.get x).length = (s.mgmt.replies.get x).length := by
  unfold settleCommit; dsimp only; split <;> simp

@[simp] theorem enterSelfRefresh_mgmt (s : State) :
    (enterSelfRefresh s).mgmt.claim = s.mgmt.claim ∧
    (enterSelfRefresh s).mgmt.lease = s.mgmt.lease ∧
    (enterSelfRefresh s).mgmt.discarded = s.mgmt.discarded ∧
    (enterSelfRefresh s).mgmt.clock = s.mgmt.clock := by
  simp [enterSelfRefresh]

@[simp] theorem length_replies_enterSelfRefresh (s : State) (x : Link) :
    ((enterSelfRefresh s).mgmt.replies.get x).length = (s.mgmt.replies.get x).length := by
  simp [enterSelfRefresh]

@[simp] theorem settleSleep_mgmt (s : State) :
    (settleSleep s).mgmt.claim = s.mgmt.claim ∧ (settleSleep s).mgmt.lease = s.mgmt.lease ∧
    (settleSleep s).mgmt.discarded = s.mgmt.discarded ∧
    (settleSleep s).mgmt.clock = s.mgmt.clock := by
  unfold settleSleep; split <;> simp

@[simp] theorem length_replies_settleSleep (s : State) (x : Link) :
    ((settleSleep s).mgmt.replies.get x).length = (s.mgmt.replies.get x).length := by
  unfold settleSleep; split <;> simp

/-- The consequences of an event leave the claim, the lease, the counts of discards and the clock. -/
@[simp] theorem settle_mgmt (s : State) :
    (settle s).mgmt.claim = s.mgmt.claim ∧ (settle s).mgmt.lease = s.mgmt.lease ∧
    (settle s).mgmt.discarded = s.mgmt.discarded ∧ (settle s).mgmt.clock = s.mgmt.clock := by
  simp [settle]

/-- They leave the lengths of the reply lists. -/
@[simp] theorem length_replies_settle (s : State) (x : Link) :
    ((settle s).mgmt.replies.get x).length = (s.mgmt.replies.get x).length := by
  simp [settle]

/-! ## The channel -/

@[simp] theorem settleSleep_chan (s : State) :
    (settleSleep s).chan.clockOn = s.chan.clockOn ∧
    (settleSleep s).chan.startTimer = s.chan.startTimer ∧
    (settleSleep s).chan.resumeTimer = s.chan.resumeTimer ∧
    (settleSleep s).chan.startPhase = s.chan.startPhase ∧
    (settleSleep s).chan.resumePhase = s.chan.resumePhase ∧
    (settleSleep s).chan.readsDue = s.chan.readsDue ∧
    (settleSleep s).chan.correctedCount = s.chan.correctedCount ∧
    (settleSleep s).chan.lastRun = s.chan.lastRun := by
  unfold settleSleep warmSleep enterWarmSleep sendWarmSrEnter enterSelfRefresh; dsimp only
  (repeat' split) <;> simp [sleepBanks, sendDram]

/-- The consequences of an event leave the channel's clock, timers, sequences, data path and counter. -/
@[simp] theorem settle_chan (s : State) :
    (settle s).chan.clockOn = s.chan.clockOn ∧ (settle s).chan.startTimer = s.chan.startTimer ∧
    (settle s).chan.resumeTimer = s.chan.resumeTimer ∧
    (settle s).chan.startPhase = s.chan.startPhase ∧
    (settle s).chan.resumePhase = s.chan.resumePhase ∧
    (settle s).chan.readsDue = s.chan.readsDue ∧
    (settle s).chan.correctedCount = s.chan.correctedCount ∧
    (settle s).chan.lastRun = s.chan.lastRun := by
  simp [settle]

/-! ## Outside a quiesce -/

/-- Outside a quiesce nothing enters self-refresh. -/
theorem settleSleep_eq {s : State} (h : s.chan.state ≠ .quiescing) :
    settleSleep s = warmSleep s := by
  simp [settleSleep, selfRefreshReady, h]

@[simp] theorem warmSleep_state (s : State) :
    (warmSleep s).chan.state = s.chan.state ∧ (warmSleep s).chan.warm.isSome = s.chan.warm.isSome := by
  unfold warmSleep enterWarmSleep sendWarmSrEnter; (repeat' split) <;> simp_all

/-- Outside a quiesce the consequences of an event leave the locks, the channel state and the alerts. -/
theorem settle_quiet {s : State} (h : s.chan.state ≠ .quiescing) :
    (settle s).locks = s.locks ∧ (settle s).chan.state = s.chan.state ∧
    (settle s).mgmt.alerts = s.mgmt.alerts ∧ (settle s).mgmt.dropped = s.mgmt.dropped := by
  unfold settle; dsimp only
  rw [settleSleep_eq (by simp [h])]
  simp

/-- Outside a commit the consequences of an event leave the Translation Unit. -/
theorem settle_xlate {s : State} (h : s.xlate.commit ≠ .draining) : (settle s).xlate = s.xlate := by
  simp [settle, settleCommit, h]

/-! ## The Notice Unit -/

/-- The part of a notice target that no consequence of an event changes. -/
def targetCore (s : State) (y : Link) : List NoticeEntry × Byte :=
  ((targetOf s y).queue, (targetOf s y).counter)

theorem targetCore_congr {s t : State} (h : t.notices = s.notices) (y : Link) :
    targetCore t y = targetCore s y := by simp [targetCore, targetOf, h]

@[simp] theorem targetCore_clearRecent (s : State) (y : Link) :
    targetCore (clearRecent s) y = targetCore s y := by cases y <;> rfl

/-- A pass of tenure clears both Recent Line Lists and nothing else of the Notice Unit. -/
theorem passTenure_notices (s : State) (x : Link) :
    (passTenure s x).notices = (clearRecent s).notices := by
  unfold passTenure; dsimp only
  (repeat' split) <;> first | rfl | (rw [(requestCloses_frame _ _).2.2.2.2.2.1]; rfl)

@[simp] theorem targetCore_passTenure (s : State) (x y : Link) :
    targetCore (passTenure s x) y = targetCore s y := by
  rw [targetCore_congr (passTenure_notices s x), targetCore_clearRecent]

@[simp] theorem targetCore_settleCommit (s : State) (y : Link) :
    targetCore (settleCommit s) y = targetCore s y := by
  have h : (commitSwitch s).notices = (clearRecent s).notices := by
    unfold commitSwitch; rw [(makeHeldRevert_frame _).2.2.2.2.2.1]; rfl
  unfold settleCommit; dsimp only; split
  · rw [targetCore_congr ((endLong_frame ..).2.2.2.2.2.2.1), targetCore_congr h]; simp
  · rfl

@[simp] theorem targetCore_makePass (s : State) (x y : Link) :
    targetCore (makePass s x) y = targetCore s y := by
  unfold makePass; (repeat' split) <;> first | rfl | simp

@[simp] theorem targetCore_makeGrant (s : State) (y : Link) :
    targetCore (makeGrant s) y = targetCore s y := by
  unfold makeGrant; split <;> simp

@[simp] theorem targetCore_settlePass (s : State) (y : Link) :
    targetCore (settlePass s) y = targetCore s y := by
  unfold settlePass; (repeat' split) <;> first | rfl | simp | exact targetCore_congr (by simp) y

@[simp] theorem targetCore_settleGrant (s : State) (y : Link) :
    targetCore (settleGrant s) y = targetCore s y := by
  have h : ∀ u, targetCore (tryEpisode u) y = targetCore u y := fun u => targetCore_congr (by simp) y
  unfold settleGrant; dsimp only; (repeat' split) <;> simp [h] <;> rfl

/-- The consequences of an event leave the Notice Queues and the notice counters. -/
@[simp] theorem targetCore_settle (s : State) (y : Link) :
    targetCore (settle s) y = targetCore s y := by
  have h : ∀ u, targetCore (settleSleep (settleVictims (closingToRefreshing (settleQuiesce u)))) y =
      targetCore u y := fun u => targetCore_congr (by simp) y
  have h' : ∀ u, targetCore (wantDue (clearDue (judgeIdle (waitingToClosing u)))) y =
      targetCore u y := fun u => targetCore_congr (by simp) y
  unfold settle; dsimp only
  rw [h, targetCore_settleGrant, targetCore_settlePass, h', targetCore_settleCommit]

/-! ## The scheduler beside its banks and lists -/

/-- The part of the scheduler that no close request and no consequence of an event changes, the bank
records and the lists apart: the position last granted and the times known to have passed. -/
def schedRest (s : State) : Nat × Nat × Nat :=
  (s.sched.lastGranted, s.sched.openedBy, s.sched.writtenBy)

theorem schedRest_congr {s t : State} (h : t.sched = s.sched) : schedRest t = schedRest s := by
  simp [schedRest, h]

@[simp] theorem schedRest_warmSleep (s : State) : schedRest (warmSleep s) = schedRest s := by
  have h : schedRest (sendWarmSrEnter s) = schedRest s := schedRest_congr (by simp)
  rw [← h]; unfold warmSleep enterWarmSleep; (repeat' split) <;> rfl

@[simp] theorem schedRest_requestCloses (s : State) (ps : List Nat) :
    schedRest (requestCloses s ps) = schedRest s :=
  foldl_keeps schedRest requestClose (fun _ _ => rfl) ps s

theorem schedRest_victimClose (s : State) (r : Nat) : schedRest (victimClose s r) = schedRest s := by
  unfold victimClose; (repeat' split) <;> rfl

@[simp] theorem schedRest_passTenure (s : State) (y : Link) :
    schedRest (passTenure s y) = schedRest s := by
  unfold passTenure; dsimp only; (repeat' split) <;> first | rfl | (rw [schedRest_requestCloses]; rfl)

@[simp] theorem schedRest_makePass (s : State) (x : Link) : schedRest (makePass s x) = schedRest s := by
  unfold makePass; (repeat' split) <;> first | rfl | simp

@[simp] theorem schedRest_makeGrant (s : State) : schedRest (makeGrant s) = schedRest s := by
  unfold makeGrant; split <;> simp

@[simp] theorem schedRest_beginOpportunistic (s : State) :
    schedRest (beginOpportunistic s) = schedRest s := by
  unfold beginOpportunistic; exact schedRest_requestCloses _ _

@[simp] theorem schedRest_tryEpisode (s : State) : schedRest (tryEpisode s) = schedRest s := by
  unfold tryEpisode; split <;> simp

@[simp] theorem schedRest_settlePass (s : State) : schedRest (settlePass s) = schedRest s := by
  unfold settlePass; (repeat' split) <;> simp

@[simp] theorem schedRest_settleGrant (s : State) : schedRest (settleGrant s) = schedRest s := by
  unfold settleGrant; dsimp only; (repeat' split) <;> simp <;> rfl

@[simp] theorem schedRest_settleSleep (s : State) : schedRest (settleSleep s) = schedRest s := by
  have h : schedRest (enterSelfRefresh s) = schedRest s := by
    unfold enterSelfRefresh; dsimp only; unfold schedRest; simp; exact ⟨rfl, rfl, rfl⟩
  unfold settleSleep; rw [schedRest_warmSleep]; split <;> simp [h]

/-- The consequences of an event leave the position last granted and the times known to have passed. -/
@[simp] theorem schedRest_settle (s : State) : schedRest (settle s) = schedRest s := by
  have hc : ∀ u, schedRest (closingToRefreshing u) = schedRest u := fun u => schedRest_congr (by simp)
  have hv : ∀ u, schedRest (settleVictims u) = schedRest u := fun u =>
    foldl_keeps schedRest victimClose schedRest_victimClose _ u
  have hq : ∀ u, schedRest (settleQuiesce u) = schedRest u := by
    intro u; unfold settleQuiesce; split <;> simp
  have h : ∀ u, schedRest (wantDue (clearDue (judgeIdle (waitingToClosing (settleCommit u))))) =
      schedRest u := fun u => schedRest_congr (by simp)
  unfold settle; dsimp only
  rw [schedRest_settleSleep, hv, hc, hq, schedRest_settleGrant, schedRest_settlePass, h]

@[simp] theorem lastGranted_settle (s : State) :
    (settle s).sched.lastGranted = s.sched.lastGranted := congrArg (·.1) (schedRest_settle s)

@[simp] theorem openedBy_settle (s : State) : (settle s).sched.openedBy = s.sched.openedBy :=
  congrArg (·.2.1) (schedRest_settle s)

@[simp] theorem writtenBy_settle (s : State) : (settle s).sched.writtenBy = s.sched.writtenBy :=
  congrArg (·.2.2) (schedRest_settle s)

end Sys2Proof.Machine
end

