-- ==== Sys2Proof/Laws/Answers.lean ====
section
/-! SUPPORT. How the meanings answer: one lemma for the commands whose event is conditional, one for the
accepted packets, one for the management packets; and the shared operations whose outcome several commands
give: requested closes, decided replies. -/

namespace Sys2Proof.Machine

/-! ## Conditional events -/

/-- An event whose condition holds. -/
theorem happens_of {b : Bool} {s u : State} {f : State → State} (h : b = true)
    (hf : f (beginEvent s) = u) : happens b s f = .next u := by
  subst hf; simp [happens, h]

/-- An event whose condition holds and whose consequences are taken. -/
theorem answers_of {c : Instr} {s u : State} {b : Bool} {f : State → State}
    (hE : exec c s = happens b s f) (h : b = true) (hf : f (beginEvent s) = settle u) :
    answers c s u := by
  unfold answers; rw [hE]; exact happens_of h hf

/-- An event whose condition does not hold. -/
theorem idles_of {c : Instr} {s : State} {b : Bool} {f : State → State}
    (hE : exec c s = happens b s f) (h : b = false) : idles c s := by
  unfold idles; rw [hE]; simp [happens, h]

/-- A command that answers with the consequences of a state. -/
theorem answers_next {c : Instr} {s u v : State} (hE : exec c s = .next v) (hf : v = settle u) :
    answers c s u := by
  unfold answers; rw [hE, hf]

/-! ## Accepted packets -/

/-- The acceptance of a packet leaves what is owed on the link. -/
theorem accepted_owed (s : State) (x : Link) :
    (linkOf (accepted s x) x).owedRequests = (linkOf s x).owedRequests ∧
    (linkOf (accepted s x) x).owedMgmt = (linkOf s x).owedMgmt ∧
    (linkOf (accepted s x) x).owedSince = (linkOf s x).owedSince := by
  unfold accepted acceptPacket sendAck; dsimp only
  (repeat' split) <;> simp [linkOf, modLink, beginEvent, sendLevel, putOnWire, clearUnacked, leaveRetry]

/-! ## Management packets -/

/-- A management packet that is taken, by the outcome of its effect on the accepted state. -/
theorem answers_mgmt {c : Instr} {s u : State} {x : Link} {seq : Byte} {k : MgmtKind}
    {eff : State → State × Decision} {st : Option MgmtStatus} {v : ReplyValue}
    (hc : exec c s = .next (takeMgmt s x seq k eff)) (h : mgmtTakes s x seq)
    (he : eff (accepted s x) = (u, st, v)) : answers c s (replyListed u x k st v) := by
  unfold answers
  rw [hc]
  congr 1
  unfold takeMgmt
  rw [receive_accepts h.1]
  show arriveMgmt x k eff (accepted s x) = _
  have hm := (accepted_frame s x).2.2.2.2.2.2.2.2.2.1
  have hch := (accepted_frame s x).2.2.2.2.2.2.2.1
  unfold arriveMgmt
  rw [if_neg (by have := h.2.1; unfold warmReset at *; rw [hch, this]; decide),
    if_neg (by rw [hm]; have := h.2.2; simp only [replyRoom]; omega)]
  dsimp only
  rw [he]
  congr 1
  unfold renewLease joinReplies replyListed loadLease msUnits
  dsimp only
  split <;> rfl

/-- Every management command takes its packet with some effect. -/
theorem exec_mgmtOf {c : Instr} {x : Link} {seq : Byte} {k : MgmtKind}
    (h : mgmtOf c = some (x, seq, k)) (s : State) :
    ∃ eff, exec c s = .next (takeMgmt s x seq k eff) := by
  cases c <;> simp only [mgmtOf] at h <;> first | (simp at h; done) | skip
  all_goals (cases h; exact ⟨_, rfl⟩)

/-- The effect of a MGMT-WRITE by the field it names. -/
def namedWrite (x : Link) (f : Option Field) (v : BitVec 32) (s : State) : State × Decision :=
  withClaim s x fun s =>
    match f with
    | none => refusal s .badIndex
    | some f => writeChecked f v s

/-- Every write command takes its packet with the effect of its field. -/
theorem exec_writeNames {c : Instr} {x : Link} {seq : Byte} {f : Option Field} {v : BitVec 32}
    (h : mgmtOf c = some (x, seq, .mgmtWrite)) (hw : writeNames c = some (f, v)) (s : State) :
    exec c s = .next (takeMgmt s x seq .mgmtWrite (namedWrite x f v)) := by
  cases c <;> simp only [mgmtOf] at h <;> first | (simp at h; done) | skip
  all_goals
    simp only [writeNames] at hw
    cases h
    cases hw
    rfl

/-- The entry a decision finds: the first undecided one of its kind. -/
theorem decideEntry_split {k : MgmtKind} {before after : List MgmtEntry} {e : MgmtEntry}
    (st : MgmtStatus) (v : ReplyValue) (n : Nat)
    (hb : ∀ d ∈ before, ¬ (d.kind = k ∧ d.status = none)) (he : e.kind = k)
    (hs : e.status = none) :
    decideEntry k st v n (before ++ e :: after) =
      before ++ { e with status := some st, value := v, readySince := n } :: after := by
  induction before with
  | nil => simp [decideEntry, he, hs]
  | cons d l ih =>
    have : ¬ ((decide (d.kind = k) && d.status.isNone) = true) := by
      have := hb d (by simp); simpa using this
    simp only [List.cons_append, decideEntry, if_neg this]
    rw [ih (fun d hd => hb d (by simp [hd]))]

/-- Where no entry is undecided a decision leaves the list. -/
theorem decideEntry_none {k : MgmtKind} {l : List MgmtEntry} (st : MgmtStatus) (v : ReplyValue)
    (n : Nat) (h : ∀ d ∈ l, ¬ (d.kind = k ∧ d.status = none)) : decideEntry k st v n l = l := by
  induction l with
  | nil => rfl
  | cons d l ih =>
    have : ¬ ((decide (d.kind = k) && d.status.isNone) = true) := by
      have := h d (by simp); simpa using this
    simp only [decideEntry, if_neg this]
    rw [ih (fun d hd => h d (by simp [hd]))]

/-! ## Banks -/

theorem bankAt_modBank (s : State) (p q : Nat) (f : Bank → Bank) :
    bankAt (modBank s p f) q = if p = q then (bankAt s q).map f else bankAt s q := by
  simp only [bankAt, modBank, List.getElem?_modify]
  split <;> cases s.sched.banks[q]? <;> simp

/-- A change made to several banks that is no more when made twice. -/
theorem foldl_modBank (f : Bank → Bank) (hf : ∀ b, f (f b) = f b) (l : List Nat) : ∀ s : State,
    (∀ q, bankAt (l.foldl (fun st p => modBank st p f) s) q =
      (bankAt s q).map fun b => if q ∈ l then f b else b) ∧
    l.foldl (fun st p => modBank st p f) s = { s with sched := { s.sched with
      banks := (l.foldl (fun st p => modBank st p f) s).sched.banks } } := by
  induction l with
  | nil => intro s; simp
  | cons a l ih =>
    intro s
    obtain ⟨h1, h2⟩ := ih (modBank s a f)
    rw [List.foldl_cons]
    refine ⟨fun q => ?_, ?_⟩
    · rw [h1, bankAt_modBank]
      by_cases haq : a = q
      · subst haq; cases bankAt s a <;> simp [hf]
      · rw [if_neg haq]
        cases bankAt s q with
        | none => rfl
        | some b => simp [Ne.symm haq]
    · rw [h2]; rfl

/-- A bank whose close is requested (03 R50). -/
def closeAsked (b : Bank) : Bank :=
  if b.serving.isSome then { b with closeAfter := true }
  else if b.state = .openRow then { b with closePending := true }
  else b

/-- The close of every bank is requested. -/
theorem requestCloses_all (s u : State) (h : u.sched = s.sched) :
    (∀ q, bankAt (requestCloses u (positions u)) q = (bankAt s q).map closeAsked) ∧
    requestCloses u (positions u) = { u with sched := { u.sched with
      banks := (requestCloses u (positions u)).sched.banks } } := by
  have hid : ∀ b, closeAsked (closeAsked b) = closeAsked b := by
    intro b
    unfold closeAsked
    by_cases h1 : b.serving.isSome = true
    · simp [h1]
    · by_cases h2 : b.state = .openRow <;> simp [h1, h2]
  obtain ⟨h1, h2⟩ := foldl_modBank closeAsked hid (positions u) u
  refine ⟨fun q => ?_, h2⟩
  have h3 : requestCloses u (positions u) =
      (positions u).foldl (fun st p => modBank st p closeAsked) u := rfl
  rw [h3, h1]
  have h4 : bankAt u q = bankAt s q := by unfold bankAt; rw [h]
  rw [h4]
  cases hq : bankAt s q with
  | none => rfl
  | some b =>
    have : q ∈ positions u := by
      simp only [positions, h, List.mem_range]
      unfold bankAt at hq
      exact (List.getElem?_eq_some_iff.mp hq).1
    simp [this]

/-! ## Pairs -/

theorem PerLink.set_get {α : Type} (p : PerLink α) (x : Link) : p.set x (p.get x) = p := by
  cases x <;> rfl

theorem PerLink.set_set {α : Type} (p : PerLink α) (x : Link) (v w : α) :
    (p.set x v).set x w = p.set x w := by
  cases x <;> rfl

end Sys2Proof.Machine
end

