-- ==== Sys2Proof/Laws/Memory.lean ====
section
/-! SUPPORT. Sparse maps and the DRAM's contents: what a write reads back as, and that every operation
over them keeps the canonical form. -/

namespace Sys2Proof.Machine

/-! ## Sparse maps -/

/-- A list that rises from a bound rises from every lower one. -/
theorem risingFrom_mono {α : Type} {n m : Nat} (h : n ≤ m) {l : List (Nat × α)}
    (hl : risingFrom m l = true) : risingFrom n l = true := by
  cases l with
  | nil => rfl
  | cons e l => simp [risingFrom] at hl ⊢; exact ⟨Nat.le_trans h hl.1, hl.2⟩

/-- Nothing is listed below the bound a list rises from. -/
theorem sparseGet_below {α : Type} {n key : Nat} {l : List (Nat × α)} (hl : risingFrom n l = true)
    (h : key < n) : sparseGet l key = none := by
  induction l generalizing n with
  | nil => rfl
  | cons e l ih =>
    simp [risingFrom] at hl
    have : key ≠ e.1 := by omega
    simp [sparseGet, this]; exact ih hl.2 (by omega)

/-- Setting a key keeps the keys rising. -/
theorem risingFrom_sparseSet {α : Type} {n key : Nat} {l : List (Nat × α)} (v : Option α)
    (hl : risingFrom n l = true) (h : n ≤ key) : risingFrom n (sparseSet l key v) = true := by
  induction l generalizing n with
  | nil => cases v <;> simp [sparseSet, risingFrom, h]
  | cons e l ih =>
    obtain ⟨k, w⟩ := e
    simp only [risingFrom, Bool.and_eq_true, decide_eq_true_eq] at hl
    unfold sparseSet
    split
    · cases v
      · simp [risingFrom, hl]
      · simp [risingFrom, h, hl.2]; omega
    · split
      · rename_i hk; subst hk
        cases v
        · exact risingFrom_mono (by omega) hl.2
        · simp [risingFrom, hl]
      · simp [risingFrom, hl.1]; exact ih hl.2 (by omega)

/-- What is listed after a value is set. -/
theorem sparseGet_sparseSet_some {α : Type} (l : List (Nat × α)) (key j : Nat) (v : α) :
    sparseGet (sparseSet l key (some v)) j = if j = key then some v else sparseGet l j := by
  induction l with
  | nil => simp [sparseSet, sparseGet]
  | cons e l ih =>
    obtain ⟨k, w⟩ := e
    unfold sparseSet; dsimp only
    split
    · simp [sparseGet]
    · split
      · rename_i hk; subst hk; simp only [sparseGet]; split <;> rfl
      · simp only [sparseGet, ih]
        by_cases hj : j = k
        · subst hj; simp; intro hc; exact absurd hc.symm ‹_›
        · simp [hj]

/-- What is listed after a key is cleared. -/
theorem sparseGet_sparseSet_none {α : Type} {n : Nat} {l : List (Nat × α)} (key j : Nat)
    (hl : risingFrom n l = true) :
    sparseGet (sparseSet l key none) j = if j = key then none else sparseGet l j := by
  induction l generalizing n with
  | nil => simp [sparseSet, sparseGet]
  | cons e l ih =>
    obtain ⟨k, w⟩ := e
    simp only [risingFrom, Bool.and_eq_true, decide_eq_true_eq] at hl
    unfold sparseSet; dsimp only
    split
    · by_cases hj : j = key
      · subst hj; simp only [if_true]
        exact sparseGet_below (n := k) (by simp [risingFrom, hl.2]) ‹_›
      · simp [hj]
    · split
      · rename_i hk; subst hk
        by_cases hj : j = key
        · subst hj; simp only [if_true]; exact sparseGet_below hl.2 (by omega)
        · simp [hj, sparseGet]
      · simp only [sparseGet, ih hl.2]
        by_cases hj : j = k
        · subst hj; simp; intro hc; exact absurd hc.symm ‹_›
        · simp [hj]

/-- A filtered list still rises. -/
theorem risingFrom_filter {α : Type} {n : Nat} {l : List (Nat × α)} (p : Nat × α → Bool)
    (hl : risingFrom n l = true) : risingFrom n (l.filter p) = true := by
  induction l generalizing n with
  | nil => rfl
  | cons e l ih =>
    simp only [risingFrom, Bool.and_eq_true, decide_eq_true_eq] at hl
    rw [List.filter_cons]; split
    · simp [risingFrom, hl.1, ih hl.2]
    · exact risingFrom_mono (by omega) (ih hl.2)

/-! ## The bits in error -/

/-- The values a set leaves: those there were, and the new one. -/
theorem all_sparseSet {α : Type} (p : Nat × α → Bool) (l : List (Nat × α)) (key : Nat)
    (v : Option α) (hl : l.all p = true) (hv : ∀ w, v = some w → p (key, w) = true) :
    (sparseSet l key v).all p = true := by
  induction l with
  | nil => cases v <;> simp [sparseSet]; exact hv _ rfl
  | cons e l ih =>
    obtain ⟨k, w⟩ := e
    simp only [List.all_cons, Bool.and_eq_true] at hl
    unfold sparseSet
    split
    · cases v
      · simp only [List.all_cons, Bool.and_eq_true]; exact hl
      · simp only [List.all_cons, Bool.and_eq_true]; exact ⟨hv _ rfl, hl⟩
    · split
      · rename_i hk; subst hk
        cases v
        · exact hl.2
        · simp only [List.all_cons, Bool.and_eq_true]; exact ⟨hv _ rfl, hl.2⟩
      · simp only [List.all_cons, Bool.and_eq_true]; exact ⟨hl.1, ih hl.2⟩

/-- Setting a word's bits in error keeps the canonical form. -/
theorem Errors.wf_setError {errors : List (Nat × ErrMask)} (w : Nat) (e : ErrMask)
    (h : Errors.wf errors = true) : Errors.wf (setError errors w e) = true := by
  simp only [Errors.wf, Bool.and_eq_true] at h ⊢
  refine ⟨risingFrom_sparseSet _ h.1 (Nat.zero_le _), all_sparseSet _ _ _ _ h.2 fun v hv => ?_⟩
  split at hv
  · cases hv
  · cases hv; simpa using ‹¬ e = 0›

/-- The bits in error of a word after they are set. -/
theorem sparseGet_setError {errors : List (Nat × ErrMask)} (w j : Nat) (e : ErrMask)
    (h : Errors.wf errors = true) :
    (sparseGet (setError errors w e) j).getD 0 =
      if j = w then e else (sparseGet errors j).getD 0 := by
  simp only [Errors.wf, Bool.and_eq_true] at h
  unfold setError; split
  · rename_i he; subst he
    rw [sparseGet_sparseSet_none _ _ h.1]; split <;> rfl
  · rw [sparseGet_sparseSet_some]; split <;> rfl

/-- A fold that keeps the canonical form at each step keeps it. -/
theorem Errors.wf_foldl {β : Type} (f : List (Nat × ErrMask) → β → List (Nat × ErrMask))
    (hf : ∀ es b, Errors.wf es = true → Errors.wf (f es b) = true) :
    ∀ (l : List β) (es : List (Nat × ErrMask)), Errors.wf es = true →
      Errors.wf (l.foldl f es) = true
  | [], _, h => h
  | b :: l, es, h => Errors.wf_foldl f hf l (f es b) (hf es b h)

/-- Clearing a run of words. -/
theorem sparseGet_clearWords {errors : List (Nat × ErrMask)} (base n j : Nat)
    (h : Errors.wf errors = true) :
    (sparseGet ((List.range n).foldl (fun es i => setError es (base + i) 0) errors) j).getD 0 =
      if base ≤ j ∧ j < base + n then 0 else (sparseGet errors j).getD 0 := by
  induction n with
  | zero =>
    have : ¬ (base ≤ j ∧ j < base + 0) := by omega
    rw [if_neg this]; rfl
  | succ n ih =>
    rw [List.range_succ, List.foldl_append, List.foldl_cons, List.foldl_nil,
      sparseGet_setError _ _ _ (Errors.wf_foldl _ (fun es b => Errors.wf_setError _ _) _ _ h), ih]
    by_cases h1 : j = base + n
    · simp [h1]
    · rw [if_neg h1]
      by_cases h2 : base ≤ j ∧ j < base + n
      · rw [if_pos h2, if_pos (by omega)]
      · rw [if_neg h2, if_neg (by omega)]

/-! ## The cells -/

/-- Storing bytes keeps the canonical form. -/
theorem Memory.wf_writeCells {cells : List Host.Cell} (base : Nat) (bytes : List Byte)
    (h : Memory.wf cells = true) : Memory.wf (writeCells cells base bytes) = true := by
  induction bytes generalizing cells base with
  | nil => exact h
  | cons b bytes ih => exact ih _ (risingFrom_sparseSet _ h (Nat.zero_le _))

/-- What is listed after bytes are stored. -/
theorem sparseGet_writeCells (cells : List Host.Cell) (base : Nat) (bytes : List Byte) (c : Nat) :
    sparseGet (writeCells cells base bytes) c =
      if base ≤ c ∧ c < base + bytes.length then bytes[c - base]? else sparseGet cells c := by
  induction bytes generalizing cells base with
  | nil =>
    have : ¬ (base ≤ c ∧ c < base) := by omega
    simp [writeCells, this]
  | cons b bytes ih =>
    unfold writeCells; rw [ih, sparseGet_sparseSet_some]
    by_cases h1 : c = base
    · subst h1
      have : ¬ (c + 1 ≤ c ∧ c < c + 1 + bytes.length) := by omega
      simp [this]
    · rw [if_neg h1]
      by_cases h2 : base + 1 ≤ c ∧ c < base + 1 + bytes.length
      · rw [if_pos h2, if_pos (by simp; omega)]
        have : c - base = (c - (base + 1)) + 1 := by omega
        rw [this, List.getElem?_cons_succ]
      · rw [if_neg h2, if_neg (by simp; omega)]

/-! ## Blocks -/

@[simp] theorem length_blockBytes (b : Block) : (blockBytes b).length = 32 := by simp [blockBytes]

/-- A stored block keeps the canonical forms. -/
theorem wf_writeBlock {d : Dram} (base : Nat) (data : Block) (hc : Memory.wf d.cells = true)
    (he : Errors.wf d.errors = true) : Memory.wf (writeBlock d base data).cells = true ∧
      Errors.wf (writeBlock d base data).errors = true := by
  unfold writeBlock; dsimp only
  exact ⟨Memory.wf_writeCells _ _ hc,
    Errors.wf_foldl _ (fun _ _ h => Errors.wf_setError _ _ h) _ _ he⟩

/-- New bits in error keep the canonical forms. -/
theorem wf_damage {d : Dram} (base : Nat) (es : List ErrMask) (hc : Memory.wf d.cells = true)
    (he : Errors.wf d.errors = true) : Memory.wf (damage d base es).cells = true ∧
      Errors.wf (damage d base es).errors = true := by
  unfold damage; dsimp only
  exact ⟨hc, Errors.wf_foldl _ (fun _ _ h => Errors.wf_setError _ _ h) _ _ he⟩

/-- The bits in error after new ones join: word `j` of those named has both, every other its own. -/
theorem errorOf_damage (base : Nat) (es : List ErrMask) (j : Nat) :
    ∀ d : Dram, Errors.wf d.errors = true → errorOf (damage d base es) (base / 8 + j) =
      errorOf d (base / 8 + j) ||| es.getD j 0 := by
  have key : ∀ (es : List ErrMask) (n : Nat) (errors : List (Nat × ErrMask)),
      Errors.wf errors = true →
      (sparseGet ((es.zipIdx n).foldl (damageWord base) errors) (base / 8 + j)).getD 0 =
        (sparseGet errors (base / 8 + j)).getD 0 ||| if n ≤ j then es.getD (j - n) 0 else 0 := by
    intro es
    induction es with
    | nil => intro n errors _; simp
    | cons e es ih =>
      intro n errors h
      rw [List.zipIdx_cons, List.foldl_cons, damageWord, ih _ _ (Errors.wf_setError _ _ h)]
      rw [sparseGet_setError _ _ _ h]
      rcases Nat.lt_trichotomy j n with hj | rfl | hj
      · rw [if_neg (by omega), if_neg (by omega), if_neg (by omega)]
      · rw [if_pos rfl, if_neg (by omega), if_pos (Nat.le_refl _)]; simp
      · rw [if_neg (by omega), if_pos (by omega), if_pos (by omega),
          show j - n = (j - (n + 1)) + 1 by omega, List.getD_cons_succ]
  intro d h
  simpa [errorOf, damage] using key es 0 d.errors h

/-- Words outside those named keep their bits in error. -/
theorem errorOf_damage_below (base : Nat) (es : List ErrMask) (w : Nat) (hw : w < base / 8) :
    ∀ d : Dram, Errors.wf d.errors = true → errorOf (damage d base es) w = errorOf d w := by
  have key : ∀ (es : List ErrMask) (n : Nat) (errors : List (Nat × ErrMask)),
      Errors.wf errors = true →
      (sparseGet ((es.zipIdx n).foldl (damageWord base) errors) w).getD 0 =
        (sparseGet errors w).getD 0 := by
    intro es
    induction es with
    | nil => intro n errors _; simp
    | cons e es ih =>
      intro n errors h
      rw [List.zipIdx_cons, List.foldl_cons, damageWord, ih _ _ (Errors.wf_setError _ _ h)]
      rw [sparseGet_setError _ _ _ h, if_neg (by omega)]
  intro d h
  exact key es 0 d.errors h

/-- The loss of a rank's contents keeps the canonical forms. -/
theorem wf_forgetRanks {d : Dram} (ranks : Nat) (hc : Memory.wf d.cells = true)
    (he : Errors.wf d.errors = true) : Memory.wf (forgetRanks d ranks).cells = true ∧
      Errors.wf (forgetRanks d ranks).errors = true := by
  refine ⟨risingFrom_filter _ hc, ?_⟩
  simp only [Errors.wf, Bool.and_eq_true] at he ⊢
  refine ⟨risingFrom_filter _ he.1, ?_⟩
  rw [List.all_eq_true] at he ⊢
  intro e hm; exact he.2 e (List.mem_filter.mp hm).1

/-- The contents at reset are in canonical form. -/
theorem wf_reset : Memory.wf State.reset.dram.cells = true ∧
    Errors.wf State.reset.dram.errors = true := ⟨rfl, rfl⟩

/-- A cell of a stored block holds its byte; every other cell holds what it held. -/
theorem readCell_writeBlock (d : Dram) (base : Nat) (data : Block) (c : Nat) :
    readCell (writeBlock d base data) c =
      if base ≤ c ∧ c < base + 32 then data.extractLsb' (8 * (c - base)) 8 else readCell d c := by
  have hg : (writeBlock d base data).generation = d.generation := by simp only [writeBlock]
  have hc : (writeBlock d base data).cells = writeCells d.cells base (blockBytes data) := by
    simp only [writeBlock]
  unfold readCell; rw [hg, hc, sparseGet_writeCells, length_blockBytes]
  by_cases h : base ≤ c ∧ c < base + 32
  · rw [if_pos h, if_pos h]
    have : (blockBytes data)[c - base]? = some (data.extractLsb' (8 * (c - base)) 8) := by
      have : c - base < 32 := by omega
      simp [blockBytes, this]
    rw [this]
  · rw [if_neg h, if_neg h]

/-- The bits in error after a block is stored. -/
theorem errorOf_writeBlock (d : Dram) (base : Nat) (data : Block) (w : Nat)
    (he : Errors.wf d.errors = true) :
    errorOf (writeBlock d base data) w =
      if base / 8 ≤ w ∧ w < base / 8 + 4 then 0 else errorOf d w := by
  simp only [errorOf, writeBlock]; exact sparseGet_clearWords _ _ _ he

/-- The words of a block of four words. -/
theorem blockWord_blockOfWords (w0 w1 w2 w3 : Word64) :
    blockWord (blockOfWords w0 w1 w2 w3) 0 = w0 ∧ blockWord (blockOfWords w0 w1 w2 w3) 1 = w1 ∧
    blockWord (blockOfWords w0 w1 w2 w3) 2 = w2 ∧ blockWord (blockOfWords w0 w1 w2 w3) 3 = w3 := by
  refine ⟨?_, ?_, ?_, ?_⟩ <;> apply BitVec.eq_of_getLsbD_eq <;> intro i hi <;>
    simp only [blockWord, blockOfWords, BitVec.getLsbD_extractLsb', BitVec.getLsbD_append, hi,
      decide_true, Bool.true_and]
  · rw [if_pos (by omega), show 64 * 0 + i = i by omega]
  · rw [if_neg (by omega), if_pos (by omega), show 64 * 1 + i - 64 = i by omega]
  · rw [if_neg (by omega), if_neg (by omega), if_pos (by omega),
      show 64 * 2 + i - 64 - 64 = i by omega]
  · rw [if_neg (by omega), if_neg (by omega), if_neg (by omega),
      show 64 * 3 + i - 64 - 64 - 64 = i by omega]

end Sys2Proof.Machine
end

