-- ==== Sys2Proof/Laws/Bytes.lean ====
section
/-! SUPPORT. Bytes and frames: what a number, a block and a list of records read back as from their bytes,
and how a frame of a kind, a sequence byte and a body is read. -/

namespace Sys2Proof.Machine

/-! ## Blocks -/

/-- The bits of a number given by its bytes, the lowest first. -/
theorem testBit_bytes : ∀ (bs : List Byte) (i : Nat),
    (bs.foldr (fun (b : Byte) acc => b.toNat + 256 * acc) 0).testBit i =
      (bs.getD (i / 8) 0).getLsbD (i % 8)
  | [], i => by simp
  | b :: bs, i => by
    simp only [List.foldr_cons]
    have h256 : b.toNat + 256 * (bs.foldr (fun b acc => b.toNat + 256 * acc) 0) =
        2 ^ 8 * (bs.foldr (fun b acc => b.toNat + 256 * acc) 0) + b.toNat := by ring
    rw [h256, Nat.testBit_two_pow_mul_add _ b.isLt]
    by_cases h : i < 8
    · rw [if_pos h]
      have h1 : i / 8 = 0 := by omega
      have h2 : i % 8 = i := by omega
      simp [h1, h2, BitVec.getLsbD]
    · rw [if_neg h, testBit_bytes bs (i - 8)]
      have h1 : i / 8 = (i - 8) / 8 + 1 := by omega
      have h2 : i % 8 = (i - 8) % 8 := by omega
      rw [h1, h2, List.getD_cons_succ]

/-- The bits of a block given by its bytes. -/
theorem bits_blockOfBytes (bs : List Byte) (h : bs.length ≤ 32) (i : Nat) (hi : i < 256) :
    (blockOfBytes bs).getLsbD i = (bs.getD (i / 8) 0).getLsbD (i % 8) := by
  unfold blockOfBytes
  rw [BitVec.getLsbD_ofNat, testBit_bytes, List.take_of_length_le h]
  simp [hi]

/-- A block is read back from its bytes. -/
theorem blockOf_blockBytes (b : Block) : blockOfBytes (blockBytes b) = b := by
  apply BitVec.eq_of_getLsbD_eq
  intro i hi
  rw [bits_blockOfBytes _ (by simp) i hi]
  have : i / 8 < 32 := by omega
  simp [blockBytes, this, BitVec.getLsbD_extractLsb']
  have h1 : i % 8 < 8 := by omega
  have h2 : 8 * (i / 8) + i % 8 = i := by omega
  simp [h1, h2]

/-! ## Big-endian numbers -/

@[simp] theorem length_bytesBE (len n : Nat) : (bytesBE len n).length = len := by
  induction len generalizing n with
  | zero => rfl
  | succ k ih => simp [bytesBE, ih]

/-- A fold of bytes from a number on. -/
theorem foldl_bytes (l : List Byte) (a : Nat) :
    l.foldl (fun n b => 256 * n + b.toNat) a = a * 256 ^ l.length + bigEndian l := by
  induction l generalizing a with
  | nil => simp [bigEndian]
  | cons b l ih =>
    unfold bigEndian
    rw [List.foldl_cons, List.foldl_cons, ih, ih]
    simp [pow_succ]
    ring

/-- A number that its bytes can hold is read back from them. -/
theorem bigEndian_bytesBE {len n : Nat} (h : n < 256 ^ len) : bigEndian (bytesBE len n) = n := by
  have key : ∀ len n, bigEndian (bytesBE len n) = n % 256 ^ len := by
    intro len
    induction len with
    | zero => intro n; simp [bytesBE, bigEndian, Nat.mod_one]
    | succ k ih =>
      intro n
      unfold bytesBE bigEndian
      rw [List.foldl_cons, foldl_bytes, ih, length_bytesBE, BitVec.toNat_ofNat]
      have : n % 256 ^ (k + 1) = n % 256 ^ k + 256 ^ k * (n / 256 ^ k % 256) := by
        rw [pow_succ, Nat.mod_mul]
      rw [this, show (2 : Nat) ^ 8 = 256 from rfl, Nat.mul_zero, Nat.zero_add, Nat.add_comm,
        Nat.mul_comm]
  rw [key, Nat.mod_eq_of_lt h]

/-- A bit vector is read back from its bytes. -/
theorem ofNat_bigEndian (w len : Nat) (v : BitVec w) (h : 2 ^ w ≤ 256 ^ len) :
    BitVec.ofNat w (bigEndian (bytesBE len v.toNat)) = v := by
  rw [bigEndian_bytesBE (lt_of_lt_of_le v.isLt h)]
  simp

/-! ## Lists of records -/

/-- Records of one length are cut apart again, whatever follows them. -/
theorem chunks_flatMap {α : Type} (size : Nat) (f : α → List Byte) (hf : ∀ a, (f a).length = size)
    (l : List α) (tail : List Byte) : chunks size l.length (l.flatMap f ++ tail) = l.map f := by
  induction l with
  | nil => rfl
  | cons a l ih =>
    simp only [List.length_cons, chunks, List.flatMap_cons, List.map_cons]
    have h1 : (f a ++ l.flatMap f ++ tail).take size = f a := by rw [← hf a]; simp
    have h2 : (f a ++ l.flatMap f ++ tail).drop size = l.flatMap f ++ tail := by
      rw [← hf a]; simp
    rw [h1, h2, ih]

/-- The length of records of one length, laid side by side. -/
theorem length_flatMap {α : Type} (size : Nat) (f : α → List Byte) (hf : ∀ a, (f a).length = size)
    (l : List α) : (l.flatMap f).length = size * l.length := by
  induction l with
  | nil => rfl
  | cons a l ih => simp [ih, hf]; ring

/-! ## Frames -/

/-- How a frame of a payload and two bytes more is judged: by whether they are its CRC. -/
theorem commandOfFrame_append (x : Link) (payload : List Byte) (crc : BitVec 16) :
    commandOfFrame x (payload ++ bytesBE 2 crc.toNat) =
      if crc = crc16 payload then commandOfPayload x payload else .receiveBadPacket x .crc := by
  have hlen : (payload ++ bytesBE 2 crc.toNat).length = payload.length + 2 := by
    rw [List.length_append, length_bytesBE]
  have ht : (payload ++ bytesBE 2 crc.toNat).take payload.length = payload := by simp
  have hd : (payload ++ bytesBE 2 crc.toNat).drop payload.length = bytesBE 2 crc.toNat := by simp
  have hc : bigEndian (bytesBE 2 crc.toNat) = crc.toNat :=
    bigEndian_bytesBE (lt_of_lt_of_le crc.isLt (by norm_num))
  unfold commandOfFrame
  dsimp only
  rw [hlen, Nat.add_sub_cancel, ht, hd, hc]
  by_cases h : crc = crc16 payload
  · rw [if_pos h, if_neg (by rw [h]; simp)]
  · rw [if_neg h, if_pos (Or.inr fun e => h (BitVec.eq_of_toNat_eq e.symm))]

/-- How a payload with a whole header is judged: by whether it holds the body its length says. -/
theorem commandOfPayload_header (x : Link) (kind seq : Byte) (len : Nat) (body : List Byte)
    (h : len < 65536) :
    commandOfPayload x (kind :: seq :: (bytesBE 2 len ++ body)) =
      if len ≤ body.length then commandOfBody x kind seq (body.take len)
      else unknownPacket x kind seq := by
  have hl : (bytesBE 2 len).length = 2 := length_bytesBE 2 len
  have ht : (bytesBE 2 len ++ body).take 2 = bytesBE 2 len := by rw [← hl]; simp
  have hd : (bytesBE 2 len ++ body).drop 2 = body := by rw [← hl]; simp
  have hn : bigEndian (bytesBE 2 len) = len := bigEndian_bytesBE (by norm_num; exact h)
  have hlen : (kind :: seq :: (bytesBE 2 len ++ body)).length = 4 + body.length := by
    simp only [List.length_cons, List.length_append, hl]; omega
  unfold commandOfPayload
  dsimp only
  rw [hlen, if_neg (by omega)]
  simp only [List.drop_succ_cons, List.drop_zero, ht, hn, hd, byteAt, List.getD_cons_zero,
    List.getD_cons_succ, Nat.add_le_add_iff_left]

/-- A frame that carries a body is read as the command of its kind and body. -/
theorem commandOfFrame_frameBytes (x : Link) (kind seq : Byte) (body : List Byte)
    (h : body.length < 65536) :
    commandOfFrame x (frameBytes kind seq body) = commandOfBody x kind seq body := by
  unfold frameBytes
  dsimp only
  rw [commandOfFrame_append, if_pos rfl, commandOfPayload_header x kind seq _ body h,
    if_pos (le_refl _), List.take_length]

/-- An address of a body is read back from its five bytes. -/
theorem addrAt_eq (p : List Byte) (i : Nat) (a : LinkAddr) (tail : List Byte)
    (h : p.drop i = bytesBE 5 a.toNat ++ tail) : addrAt p i = a := by
  unfold addrAt
  rw [h, List.take_left' (by simp)]
  exact ofNat_bigEndian 40 5 a (by norm_num)

end Sys2Proof.Machine
end

