-- ==== Sys2Proof/Laws/Notices.lean ====
section
/-! SUPPORT. The Notice Unit: where a slot stands among claimants and waiters, the number a notice takes, one
entry of a queue changed, and what the end of the waits on an entry does to the slots that waited. -/

namespace Sys2Proof.Machine

/-! ## Claimants and waiters -/

/-- A slot is placed beside the others. -/
theorem perm_placeSlot (s : State) (i : Nat) (l : List Nat) : (placeSlot s i l).Perm (i :: l) := by
  induction l with
  | nil => exact List.Perm.refl _
  | cons a l ih =>
    have h := (List.Perm.cons a ih).trans (List.Perm.swap i a l)
    unfold placeSlot
    (repeat' split) <;> first | exact List.Perm.refl _ | exact h

/-- A slot put into a list stands in it. -/
theorem mem_insertSlot (s : State) (i : Nat) (l : List Nat) : i ∈ insertSlot s i l := by
  unfold insertSlot
  split
  · rename_i h; simpa using h
  · rw [(perm_placeSlot s i l).mem_iff]; simp

/-- A list with no slot twice keeps so. -/
theorem nodup_insertSlot (s : State) (i : Nat) {l : List Nat} (h : l.Nodup) :
    (insertSlot s i l).Nodup := by
  unfold insertSlot
  split
  · exact h
  · rename_i hc
    rw [(perm_placeSlot s i l).nodup_iff, List.nodup_cons]
    exact ⟨by simpa using hc, h⟩

/-- The place of a slot depends on the table alone. -/
theorem insertSlot_congr {s u : State} (h : u.table = s.table) (i : Nat) (l : List Nat) :
    insertSlot u i l = insertSlot s i l := by
  have hs : ∀ j, slotAt u j = slotAt s j := fun j => slotAt_congr h j
  have ha : ∀ t w, arrivedBefore u t w = arrivedBefore s t w := by
    intro t w; unfold arrivedBefore; rw [h]
  have : placeSlot u i l = placeSlot s i l := by
    induction l with
    | nil => rfl
    | cons a l ih => unfold placeSlot; rw [hs, hs, ih]; simp only [ha]
  unfold insertSlot; rw [this]

/-! ## Numbers -/

/-- The number an entry holds. -/
def numberOf (e : NoticeEntry) : Option Byte :=
  match e.state with
  | .sent m _ => some m
  | .reserved => none

/-- A number is taken exactly if an entry holds it. -/
theorem numberTaken_iff (n : NoticeTarget) (k : Byte) :
    numberTaken n k = true ↔ k ∈ n.queue.filterMap numberOf := by
  unfold numberTaken
  rw [List.any_eq_true, List.mem_filterMap]
  apply exists_congr
  intro e
  apply and_congr_right
  intro _
  unfold numberOf
  rcases e.state with _ | ⟨m, a⟩ <;> simp

/-- The search for a number ends at the first that is free. -/
theorem pickNumber_eq (n : NoticeTarget) : ∀ (fuel j : Nat) (k : Byte), j < fuel →
    (∀ m < j, numberTaken n (k + BitVec.ofNat 8 m) = true) →
    numberTaken n (k + BitVec.ofNat 8 j) = false → pickNumber n fuel k = k + BitVec.ofNat 8 j
  | fuel + 1, 0, k, _, _, h => by
    have : numberTaken n k = false := by simpa using h
    simp [pickNumber, this]
  | fuel + 1, j + 1, k, hj, hm, h => by
    have h0 : numberTaken n k = true := by simpa using hm 0 (by omega)
    have e : ∀ m, k + BitVec.ofNat 8 (m + 1) = k + 1 + BitVec.ofNat 8 m := by
      intro m
      rw [BitVec.add_assoc]
      congr 1
      apply BitVec.eq_of_toNat_eq
      simp
      omega
    have := pickNumber_eq n fuel j (k + 1) (by omega)
      (fun m hmj => by rw [← e]; exact hm (m + 1) (by omega)) (by rw [← e]; exact h)
    unfold pickNumber
    rw [if_pos h0, this, e]

/-- With fewer than `fuel` numbers held the search finds the first free one (06 R107). -/
theorem pickNumber_least (n : NoticeTarget) (fuel : Nat) (k : Byte) (hf : fuel ≤ 256)
    (h : (n.queue.filterMap numberOf).length < fuel) :
    ∃ j < fuel, pickNumber n fuel k = k + BitVec.ofNat 8 j ∧
      numberTaken n (k + BitVec.ofNat 8 j) = false ∧
      ∀ m < j, numberTaken n (k + BitVec.ofNat 8 m) = true := by
  have hex : ∃ j, j < fuel ∧ numberTaken n (k + BitVec.ofNat 8 j) = false := by
    by_contra hc
    push Not at hc
    have hnd : ((List.range fuel).map fun j => k + BitVec.ofNat 8 j).Nodup := by
      refine List.Nodup.map_on ?_ List.nodup_range
      intro a ha b hb e
      have := congrArg BitVec.toNat (BitVec.add_right_inj k |>.mp e)
      simp at this ha hb
      omega
    have hsub : ((List.range fuel).map fun j => k + BitVec.ofNat 8 j) ⊆
        n.queue.filterMap numberOf := by
      intro m hm
      rw [List.mem_map] at hm
      obtain ⟨j, hj, rfl⟩ := hm
      rw [← numberTaken_iff]
      simpa using hc j (by simpa using hj)
    have := (List.subperm_of_subset hnd hsub).length_le
    simp at this
    omega
  classical
  obtain ⟨h1, h2⟩ := Nat.find_spec hex
  have h3 : ∀ m < Nat.find hex, numberTaken n (k + BitVec.ofNat 8 m) = true := by
    intro m hm
    have := Nat.find_min hex hm
    push Not at this
    simpa using this (by omega)
  exact ⟨Nat.find hex, h1, pickNumber_eq n fuel _ k h1 h3 h2, h2, h3⟩

/-! ## One entry -/

/-- The entries of other lines stay. -/
theorem map_other_lines (l : List NoticeEntry) (n : Nat) (f : NoticeEntry → NoticeEntry)
    (h : ∀ d ∈ l, d.line ≠ n) : l.map (fun d => if d.line = n then f d else d) = l := by
  conv_rhs => rw [← List.map_id l]
  apply List.map_congr_left
  intro d hd
  simp [h d hd]

/-- The one entry of a line is changed where it stands. -/
theorem modEntry_eq (s : State) (y : Link) (n : Nat) (f : NoticeEntry → NoticeEntry)
    (before after : List NoticeEntry) (e : NoticeEntry)
    (hq : (targetOf s y).queue = before ++ e :: after) (he : e.line = n)
    (hb : ∀ d ∈ before ++ after, d.line ≠ n) :
    modEntry s y n f = { s with notices := s.notices.set y { targetOf s y with
      queue := before ++ f e :: after } } := by
  unfold modEntry modTarget
  have : (s.notices.get y).queue = before ++ e :: after := hq
  simp only [this]
  rw [List.map_append, List.map_cons, map_other_lines before n f (fun d hd => hb d (by simp [hd])),
    map_other_lines after n f (fun d hd => hb d (by simp [hd])), if_pos he]
  rfl

/-! ## The end of a wait (01 R19; 06 R110, R111, R114) -/

/-- What becomes of a waiter's record: it keeps waiting on another entry, or is freed as an orphan, or is in
REPLY. -/
def dropped (s : State) (late waits : Bool) (u : Txn) : Option Txn :=
  if waits then some { u with stale := late || u.stale }
  else if u.orphan then none
  else some { u with
    stale := late || u.stale
    state := .reply
    status := some (if late || u.stale then .staleNotice else .ok)
    replySince := s.event }

/-- The slot joins the response queue of link `z` when it drops its wait. -/
def answersOn (s : State) (y z : Link) (i : Nat) : Bool :=
  !waitsLeft s y i && (slotAt s i).any fun u => !u.orphan && decide (u.link = z)

/-- One waiter drops its wait. -/
theorem dropWait_spec (y : Link) (late : Bool) (s : State) (i : Nat) :
    (∀ j, slotAt (dropWait y late s i) j =
      if j = i then (slotAt s i).bind (dropped s late (waitsLeft s y i)) else slotAt s j) ∧
    (∀ z, (dropWait y late s i).table.responses.get z =
      s.table.responses.get z ++ if answersOn s y z i then [i] else []) ∧
    dropWait y late s i = { s with table := { s.table with
      slots := (dropWait y late s i).table.slots
      responses := (dropWait y late s i).table.responses } } := by
  let m : State := if late then modSlot s i fun t => { t with stale := true } else s
  have hm : ∀ j, slotAt m j =
      if j = i then (slotAt s i).map (fun t => { t with stale := late || t.stale })
      else slotAt s j := by
    intro j
    simp only [m]
    cases late
    · by_cases h : j = i
      · subst h; simp
      · simp [h]
    · rw [if_pos rfl, slotAt_modSlot]
      by_cases h : j = i
      · subst h; simp
      · rw [if_neg h, if_neg h]
  have hme : m = { s with table := { s.table with slots := m.table.slots } } := by
    simp only [m]; cases late <;> rfl
  have hE : dropWait y late s i = if waitsLeft m y i then m else leaveNotify m i := rfl
  have hw : waitsLeft m y i = waitsLeft s y i := by rw [hme]; rfl
  have hev : m.event = s.event := by rw [hme]
  have hr : m.table.responses = s.table.responses := by rw [hme]
  have hmi := hm i
  rw [if_pos rfl] at hmi
  rw [hE, hw]
  unfold answersOn
  by_cases ho : waitsLeft s y i = true
  · rw [if_pos ho, ho]
    refine ⟨fun j => ?_, fun z => by simp [hr], by rw [hr]; exact hme⟩
    rw [hm]
    by_cases h : j = i
    · rw [if_pos h, if_pos h]; cases slotAt s i <;> rfl
    · rw [if_neg h, if_neg h]
  · have ho : waitsLeft s y i = false := by simpa using ho
    rw [if_neg (by simp [ho]), ho]
    cases hsi : slotAt s i with
    | none =>
      rw [hsi] at hmi
      have : leaveNotify m i = m := by unfold leaveNotify; rw [hmi]; rfl
      rw [this]
      refine ⟨fun j => ?_, fun z => by simp [hr], by rw [hr]; exact hme⟩
      rw [hm]
      by_cases h : j = i
      · rw [if_pos h, if_pos h, hsi]; rfl
      · rw [if_neg h, if_neg h]
    | some u =>
      rw [hsi, Option.map_some] at hmi
      have : leaveNotify m i = finish m i (if late || u.stale then .staleNotice else .ok) := by
        unfold leaveNotify; rw [hmi]
      rw [this]
      unfold finish
      rw [hmi]
      dsimp only
      by_cases hor : u.orphan = true
      · rw [if_pos hor]
        refine ⟨fun j => ?_, fun z => by simp [hor, freeTxn, setSlot, withSlots, hr], ?_⟩
        · unfold freeTxn
          by_cases h : j = i
          · subst h
            have := lt_of_slotAt hmi
            rw [if_pos rfl, slotAt_setSlot]
            simp [dropped, hor]
            omega
          · rw [if_neg h, slotAt_setSlot_ne _ h, hm, if_neg h]
        · unfold freeTxn setSlot withSlots
          rw [hme]
      · have hor' : u.orphan = false := by simpa using hor
        rw [if_neg hor, enterReply_eq _ hmi]
        refine ⟨fun j => ?_, fun z => ?_, by rw [hme]⟩
        · by_cases h : j = i
          · subst h
            have := lt_of_slotAt hmi
            rw [if_pos rfl]
            simp only [slotAt]
            rw [List.getD_eq_getElem?_getD, List.getElem?_set_self this]
            simp [dropped, hor', hev]
          · have h2 := hm j
            rw [if_neg h] at h2
            rw [if_neg h, ← h2]
            simp only [slotAt, List.getD_eq_getElem?_getD, List.getElem?_set_ne (Ne.symm h)]
        · simp only [hr]
          by_cases hz : u.link = z
          · subst hz; simp [hor']
          · rw [PerLink.get_set_ne _ _ _ _ (fun e => hz e.symm)]; simp [hz]

/-- Waiters drop their waits one after another, none twice. -/
theorem foldl_dropWait (y : Link) (late : Bool) (ws : List Nat) (hn : ws.Nodup) : ∀ s : State,
    (∀ j, slotAt (ws.foldl (dropWait y late) s) j =
      if j ∈ ws then (slotAt s j).bind (dropped s late (waitsLeft s y j)) else slotAt s j) ∧
    (∀ z, (ws.foldl (dropWait y late) s).table.responses.get z =
      s.table.responses.get z ++ ws.filter (answersOn s y z)) ∧
    ws.foldl (dropWait y late) s = { s with table := { s.table with
      slots := (ws.foldl (dropWait y late) s).table.slots
      responses := (ws.foldl (dropWait y late) s).table.responses } } := by
  induction ws with
  | nil => intro s; simp
  | cons a ws ih =>
    intro s
    have hnd := List.nodup_cons.mp hn
    obtain ⟨h1, h2, h3⟩ := dropWait_spec y late s a
    obtain ⟨g1, g2, g3⟩ := ih hnd.2 (dropWait y late s a)
    rw [List.foldl_cons]
    have hd : ∀ o, dropped (dropWait y late s a) late o = dropped s late o := by
      intro o; rw [h3]; rfl
    have hw : ∀ j, waitsLeft (dropWait y late s a) y j = waitsLeft s y j := by
      intro j; rw [h3]; rfl
    refine ⟨fun j => ?_, fun z => ?_, ?_⟩
    · rw [g1, hd, hw, h1]
      by_cases h : j = a
      · subst h; simp [hnd.1]
      · simp [h]
    · rw [g2, h2, List.append_assoc, List.filter_cons]
      have hl : ws.filter (answersOn (dropWait y late s a) y z) = ws.filter (answersOn s y z) := by
        apply List.filter_congr
        intro j hj
        have hja : j ≠ a := fun e => hnd.1 (by rw [← e]; exact hj)
        unfold answersOn
        rw [h1, if_neg hja, hw]
      rw [hl]
      split <;> simp
    · exact g3.trans (congrArg (fun z : State => { z with table := { z.table with
        slots := (ws.foldl (dropWait y late) (dropWait y late s a)).table.slots
        responses := (ws.foldl (dropWait y late) (dropWait y late s a)).table.responses } }) h3)

/-- The waiters of the one entry of a line drop their waits on it. -/
theorem dropWaiters_spec (s : State) (y : Link) (late : Bool) (before after : List NoticeEntry)
    (e : NoticeEntry) (hq : (targetOf s y).queue = before ++ e :: after)
    (hb : ∀ d ∈ before ++ after, d.line ≠ e.line) (hn : e.waiters.Nodup) :
    let waits (i : Nat) : Bool := decide (∃ d ∈ before ++ after, i ∈ d.waiters)
    let t := dropWaiters s y e.line late
    (∀ j, slotAt t j =
      if j ∈ e.waiters then (slotAt s j).bind (dropped s late (waits j)) else slotAt s j) ∧
    (∀ z, t.table.responses.get z = s.table.responses.get z ++ e.waiters.filter fun i =>
      !waits i && (slotAt s i).any fun u => !u.orphan && decide (u.link = z)) ∧
    t = { s with
      table := { s.table with slots := t.table.slots, responses := t.table.responses }
      notices := s.notices.set y { targetOf s y with
        queue := before ++ { e with waiters := [], timer := .stopped } :: after } } := by
  intro waits t
  have hw : ((targetOf s y).queue.filter fun d => d.line = e.line).flatMap
      (fun d => d.waiters) = e.waiters := by
    have none_of : ∀ l : List NoticeEntry, (∀ d ∈ l, d.line ≠ e.line) →
        l.filter (fun d => decide (d.line = e.line)) = [] := by
      intro l h
      rw [List.filter_eq_nil_iff]
      intro d hd
      simp [h d hd]
    rw [hq, List.filter_append, List.filter_cons, none_of before (fun d hd => hb d (by simp [hd])),
      none_of after (fun d hd => hb d (by simp [hd]))]
    simp
  have hM := modEntry_eq s y e.line (fun e => { e with waiters := [], timer := .stopped })
    before after e hq rfl hb
  have ht : t = e.waiters.foldl (dropWait y late)
      (modEntry s y e.line fun e => { e with waiters := [], timer := .stopped }) := by
    simp only [t, dropWaiters]; rw [hw]
  generalize modEntry s y e.line (fun e => { e with waiters := [], timer := .stopped }) = m at ht hM
  have hmq : (targetOf m y).queue = before ++ { e with waiters := [], timer := .stopped } :: after := by
    unfold targetOf; rw [hM]; simp only [PerLink.get_set]
  obtain ⟨g1, g2, g3⟩ := foldl_dropWait y late e.waiters hn m
  have hsl : ∀ j, slotAt m j = slotAt s j := by intro j; rw [hM]; rfl
  have hdr : ∀ o, dropped m late o = dropped s late o := by intro o; rw [hM]; rfl
  have hwl : ∀ j, waitsLeft m y j = waits j := by
    intro j
    unfold waitsLeft
    rw [hmq, Bool.eq_iff_iff]
    simp [waits, or_and_right, exists_or]
  rw [ht]
  refine ⟨fun j => by rw [g1, hsl, hdr, hwl], fun z => ?_, ?_⟩
  · rw [g2]
    congr 1
    · rw [hM]
    · apply List.filter_congr
      intro j _
      unfold answersOn
      rw [hsl, hwl]
  · rw [g3]
    conv_lhs => rw [hM]
    simp only [hM]

end Sys2Proof.Machine
end

