-- ==== Sys2Proof/Laws/Services.lean ====
section
/-! SUPPORT. The end of a transaction's DRAM work: predecessors chosen again, the decided slot, the lock entry
a slot owns; and the choice of a bank. -/

namespace Sys2Proof.Machine

/-! ## Predecessors (01 R14) -/

/-- A slot whose predecessor is gone chooses again; every other keeps its record. -/
theorem slotAt_reexamine (s : State) (gone : List Nat) (i : Nat) :
    slotAt (reexamine s gone) i = (slotAt s i).map fun t => match t.pred with
      | none => t
      | some p => if gone.contains p then { t with pred := choosePred s i t } else t := by
  simp only [slotAt, reexamine, withSlots, List.getD_eq_getElem?_getD, List.getElem?_map,
    List.getElem?_zipIdx]
  cases s.table.slots[i]?
  · simp
  · simp <;> rfl

/-- The last step of a completion ends the service. -/
theorem closeService_ends (v : State) (pos i : Nat) : serviceEnds v (closeService v pos i) pos i := by
  refine ⟨reexamine v [i], fun j => ?_, rfl, rfl⟩
  rw [slotAt_reexamine]
  congr 1
  funext t
  cases hp : t.pred with
  | none => simp
  | some p => by_cases h : p = i <;> simp [h]

/-! ## Decided slots (01 R15, R24) -/

/-- A transaction that is decided goes to REPLY, or is freed as an orphan. -/
theorem finish_eq {s : State} {i : Nat} {t : Txn} (st : MemStatus) (h : slotAt s i = some t) :
    finish s i st = { s with table := decidedTable s i t st } := by
  unfold finish
  rw [h]
  dsimp only
  unfold decidedTable
  split
  · rfl
  · rw [enterReply_eq _ h]

/-- What the slot held before does not matter. -/
theorem decidedTable_set (s u : State) (i : Nat) (t : Txn) (st : MemStatus) (o : Option Txn)
    (h : u.table = { s.table with slots := s.table.slots.set i o }) (he : u.event = s.event) :
    decidedTable u i t st = decidedTable s i t st := by
  unfold decidedTable
  rw [h, he]
  split <;> simp [List.set_set]

/-- The status of a read is POISON exactly if a block's is (01 R17). -/
theorem readOutcome_eq (got : List (Nat × BlockStatus × Block)) :
    readOutcome (got.map fun g => g.2.1) =
      if (∃ g ∈ got, g.2.1 = .poison) then .poison else .ok := by
  unfold readOutcome
  have : (got.map fun g => g.2.1).contains .poison = true ↔ ∃ g ∈ got, g.2.1 = .poison := by
    rw [List.contains_iff_mem]; simp
  by_cases h : ∃ g ∈ got, g.2.1 = .poison
  · rw [if_pos h, if_pos (this.mpr h)]
  · rw [if_neg h, if_neg (fun hh => h (this.mp hh))]

/-! ## Owned lock entries (05 R87) -/

/-- A slot that owns no entry in a state. -/
theorem ownedLock_none {s : State} {i : Nat} {st : LockState} (h : ownsNone s i st) :
    ownedLock s i st = none := by
  unfold ownedLock
  have : s.locks.find? (fun e => e.owner = some i && e.state = st) = none := by
    rw [List.find?_eq_none]
    intro e he
    simpa using h e he
  rw [this]; rfl

/-- A slot that owns one entry in a state. -/
theorem ownedLock_some {s : State} {i : Nat} {st : LockState} {e : LockEntry}
    (h : ownsEntry s i st e) : ownedLock s i st = some e.block := by
  obtain ⟨he, ho, hp, hu⟩ := h
  unfold ownedLock
  obtain ⟨f, hf⟩ : ∃ f, s.locks.find? (fun e => e.owner = some i && e.state = st) = some f := by
    rw [← Option.isSome_iff_exists, List.find?_isSome]
    exact ⟨e, he, by simp [ho, hp]⟩
  have h1 := List.mem_of_find?_eq_some hf
  have h2 := List.find?_some hf
  simp at h2
  rw [hf, hu f h1 h2.1 h2.2]; rfl

/-! ## The choice of a bank (03 R55) -/

/-- The choice is a live slot, and its transaction is eligible. -/
theorem choice_spec {s : State} {pos i : Nat} {t : Txn} (h : choice s pos = some (i, t)) :
    slotAt s i = some t ∧ eligible s t = true := by
  unfold choice at h
  split at h
  · cases h
  · split at h
    · have key : ∀ p, p ∈ (bankQueue s pos).filter (fun p => eligible s p.2) →
          slotAt s p.1 = some p.2 ∧ eligible s p.2 = true := by
        intro p hp
        have := (mem_byArrival s p _).mp (List.mem_filter.mp hp).1
        exact ⟨mem_liveSlots.mp (List.mem_filter.mp this).1,
          by simpa using (List.mem_filter.mp hp).2⟩
      dsimp only at h
      split at h
      · rename_i p hf
        cases h
        exact key _ (List.mem_of_find?_eq_some hf)
      · split at h
        · rename_i p hf
          cases h
          split at hf
          · exact key _ (List.mem_of_find?_eq_some hf)
          · cases hf
        · exact key _ (List.mem_of_head? h)
    · cases h

end Sys2Proof.Machine
end

