-- ==== Sys2Proof/Laws/Steps.lean ====
section
/-! SUPPORT. A step's change, said once: what a command does where its event happens (`effectOf`), and how
a law that the effects keep is kept by `exec` and by `step`. -/

namespace Sys2Proof.Machine

/-- What a command does to the state at which its event takes place: `beginEvent` of the state before, or,
for an accepted packet, the state at which it is passed on. -/
def effectOf : Instr → State → State
  | .coldReset => coldReset
  | .read x _ tag count m addr => arriveRequest (readRequest x .read tag count m addr)
  | .write x _ tag count addr masks data => arriveRequest (writeRequest x .write tag count addr masks data)
  | .lockRead x _ tag count m addr => arriveRequest (readRequest x .lockRead tag count m addr)
  | .lockWrite x _ tag count addr masks data =>
      arriveRequest (writeRequest x .lockWrite tag count addr masks data)
  | .lockDrop x _ tag unused addr => arriveRequest (dropRequest x tag unused addr)
  | .fence x _ tag => arriveRequest (arriving x .fence tag)
  | .intakeStep x => takeIntake x
  | .issue => issueGranted
  | .activateSent pos => sendActivate pos
  | .activationComplete pos => completeActivation pos
  | .readColumnSent pos => sendReadColumn pos
  | .readColumnDataArrival e0 e1 e2 e3 => arriveData [e0, e1, e2, e3]
  | .writeColumnSent pos => sendWriteColumn pos
  | .prechargeSent pos => sendPrecharge pos
  | .prechargeComplete target => completePrecharge target
  | .rowIdleTimerExpiry pos => expireRowIdle pos
  | .refreshCommandSent rank => sendRefresh rank
  | .refreshComplete rank => completeRefresh rank
  | .refreshTimerExpiry => expireRefreshTimer
  | .cueMonitorExpiry => expireCueMonitor
  | .refreshCue x _ => takeCue x
  | .noticeAck x _ number => takeNoticeAck x number
  | .noticeTimerExpiry y number => expireNotice y number
  | .lockHoldExpiry block => expireLock block
  | .quantumTimerExpiry => expireQuantum
  | .idleTimerExpiry => expireIdle
  | .commitTimerExpiry => expireCommit
  | .leaseTimerExpiry => expireLease
  | .mgmtRead x _ record field => arriveMgmt x .mgmtRead (mgmtReadEffect record field)
  | .mgmtWrite x _ record field value => arriveMgmt x .mgmtWrite (mgmtWriteEffect x record field value)
  | .writeTenureMode x _ value => arriveMgmt x .mgmtWrite (writeFieldEffect x .tenureMode value)
  | .writeRefreshMode x _ value => arriveMgmt x .mgmtWrite (writeFieldEffect x .refreshMode value)
  | .writeForceLevel x _ value => arriveMgmt x .mgmtWrite (writeFieldEffect x .forceLevel value)
  | .writeCueLink x _ value => arriveMgmt x .mgmtWrite (writeFieldEffect x .cueLink value)
  | .writeFilterEnable x _ value => arriveMgmt x .mgmtWrite (writeFieldEffect x .filterEnable value)
  | .writeCreditLimit x _ y value => arriveMgmt x .mgmtWrite (writeFieldEffect x (.creditLimit y) value)
  | .writeAlertLink x _ value => arriveMgmt x .mgmtWrite (writeFieldEffect x .alertLink value)
  | .writeLease x _ value => arriveMgmt x .mgmtWrite (writeFieldEffect x .lease value)
  | .writeCorrThreshold x _ value => arriveMgmt x .mgmtWrite (writeFieldEffect x .corrThreshold value)
  | .writeOpenLimit x _ value => arriveMgmt x .mgmtWrite (writeFieldEffect x .openLimit value)
  | .tableRead x _ set table index => arriveMgmt x .tableRead (tableReadEffect set table index)
  | .tableWrite x _ table index entry => arriveMgmt x .tableWrite (tableWriteEffect x table index entry)
  | .tableRevert x _ => arriveMgmt x .tableRevert (tableRevertEffect x)
  | .tableCommit x _ => arriveMgmt x .tableCommit (tableCommitEffect x)
  | .claim x _ => arriveMgmt x .claim (claimEffect x)
  | .release x _ => arriveMgmt x .release (releaseEffect x)
  | .channelStart x _ => arriveMgmt x .channelStart (channelStartEffect x)
  | .startTimerExpiry => expireStartTimer
  | .startRefreshRoundComplete => completeStartRound
  | .startSequenceEnd => endStart
  | .channelQuiesce x _ => arriveMgmt x .channelQuiesce (channelQuiesceEffect x)
  | .channelResume x _ => arriveMgmt x .channelResume (channelResumeEffect x)
  | .resumeTimerExpiry => expireResumeTimer
  | .resumeSequenceEnd => endResume
  | .hubReset x _ => arriveMgmt x .hubReset (hubResetEffect x)
  | .resetPoint => takeResetPoint
  | .sendResponse x => handResponse x
  | .sendMgmtReply x => handReply x
  | .sendNotice x => handNotice x
  | .sendAlert => handAlert
  | .sendCredit x => handCredit x
  | .restartingCredit x => handRestart x
  | .downTimerExpiry x => leaveDown x
  | .sendFirstTrain x => sendFirst x
  | .trainTimerExpiry x => fun s => sendTrain s x
  | .train x _ _ seen => fun s =>
      if linkIs s x .training then takeTrain x (seenFlag seen) s else takeLateTrain x (seenFlag seen) s
  | .linkAck x acked mark => fun s => actOnAck (judgeMark s x mark) x acked
  | .retryReq x wanted mark => fun s => actOnRetryReq (judgeMark s x mark) x wanted
  | .linkReset x => fun s => linkResetEvent s x .partnerReset
  | .receiveBadPacket x _ => fun s => enterRetry s x
  | .receiveUnknownPacket x _ => fun s => raiseProtocol s x .unknownPacket
  | .ackTimerExpiry x => fun s => sendAck s x
  | .retryTimerExpiry x => expireRetry x
  | .replayTimerExpiry x => expireReplay x

/-- A conditional event happens or leaves the state. -/
theorem happens_cases (b : Bool) (s : State) (f : State → State) :
    happens b s f = .next s ∨ happens b s f = .next (f (beginEvent s)) := by
  unfold happens; cases b <;> simp

/-- A sequenced packet is discarded, passed on at its acceptance, or puts the link in RETRY. -/
theorem receive_cases (s : State) (x : Link) (seq : Byte) (f : State → State) :
    receive s x seq f = s ∨ receive s x seq f = f (accepted s x) ∨
      receive s x seq f = enterRetry (beginEvent s) x := by
  by_cases h : accepts s x seq
  · exact .inr (.inl (receive_accepts h f))
  · unfold receive
    unfold accepts inService at h
    cases hs : (linkOf s x).state <;> simp [hs] at h <;> simp [h]

/-- What `exec` answers: the state itself, the effect at the beginning of the event, the effect at the
acceptance of a packet, or the entry of a link into RETRY. -/
theorem exec_cases (c : Instr) (s : State) :
    exec c s = .next s ∨ exec c s = .next (effectOf c (beginEvent s)) ∨
    (∃ x, exec c s = .next (effectOf c (accepted s x))) ∨
    (∃ x, exec c s = .next (enterRetry (beginEvent s) x)) ∨ c = .coldReset := by
  have hr : ∀ (x : Link) (seq : Byte) (f : State → State),
      exec c s = .next (receive s x seq f) → effectOf c = f →
      exec c s = .next s ∨ exec c s = .next (effectOf c (beginEvent s)) ∨
      (∃ x, exec c s = .next (effectOf c (accepted s x))) ∨
      (∃ x, exec c s = .next (enterRetry (beginEvent s) x)) ∨ c = .coldReset := by
    intro x seq f h hf
    rw [h, hf]
    rcases receive_cases s x seq f with e | e | e <;> rw [e]
    · exact .inl rfl
    · exact .inr (.inr (.inl ⟨x, rfl⟩))
    · exact .inr (.inr (.inr (.inl ⟨x, rfl⟩)))
  have hh : ∀ (b : Bool) (f : State → State), exec c s = happens b s f → effectOf c = f →
      exec c s = .next s ∨ exec c s = .next (effectOf c (beginEvent s)) ∨
      (∃ x, exec c s = .next (effectOf c (accepted s x))) ∨
      (∃ x, exec c s = .next (enterRetry (beginEvent s) x)) ∨ c = .coldReset := by
    intro b f h hf
    rw [h, hf]
    rcases happens_cases b s f with e | e <;> rw [e]
    · exact .inl rfl
    · exact .inr (.inl rfl)
  cases c
  case coldReset => exact .inr (.inr (.inr (.inr rfl)))
  case train x r m seen =>
    cases h : (linkOf s x).state with
    | down => exact .inl (by simp [exec, execTrain, h])
    | training =>
      exact .inr (.inl (by simp [exec, execTrain, h, effectOf, linkIs]))
    | up => exact .inr (.inl (by simp [exec, execTrain, h, effectOf, linkIs]))
    | retry => exact .inr (.inl (by simp [exec, execTrain, h, effectOf, linkIs]))
  case receiveUnknownPacket x seq =>
    cases seq with
    | none => exact hh _ (fun s => raiseProtocol s x .unknownPacket) rfl rfl
    | some n => exact hr _ _ (fun s => raiseProtocol s x .unknownPacket) rfl rfl
  case read | write | lockRead | lockWrite | lockDrop | fence | refreshCue | noticeAck | mgmtRead |
      mgmtWrite | writeTenureMode | writeRefreshMode | writeForceLevel | writeCueLink |
      writeFilterEnable | writeCreditLimit | writeAlertLink | writeLease | writeCorrThreshold |
      writeOpenLimit | tableRead | tableWrite | tableRevert | tableCommit | claim | release |
      channelStart | channelQuiesce | channelResume | hubReset => exact hr _ _ _ rfl rfl
  case trainTimerExpiry x => exact hh _ (fun s => sendTrain s x) rfl rfl
  case linkAck x acked mark => exact hh _ (fun s => actOnAck (judgeMark s x mark) x acked) rfl rfl
  case retryReq x wanted mark => exact hh _ (fun s => actOnRetryReq (judgeMark s x mark) x wanted) rfl rfl
  case linkReset x => exact hh _ (fun s => linkResetEvent s x .partnerReset) rfl rfl
  case receiveBadPacket x why => exact hh _ (fun s => enterRetry s x) rfl rfl
  case ackTimerExpiry x => exact hh _ (fun s => sendAck s x) rfl rfl
  all_goals exact hh _ _ rfl rfl

/-- A law that the beginning of an event, the acceptance of a packet, the entry into RETRY, the cold reset
and the command's effect keep is kept by the command. -/
theorem exec_keeps {I : State → Prop} {c : Instr} {s t : State} (h : exec c s = .next t) (hs : I s)
    (hb : ∀ u, I u → I (beginEvent u)) (ha : ∀ u x, I u → I (accepted u x))
    (hr : ∀ u x, I u → I (enterRetry u x)) (he : ∀ u, I u → I (effectOf c u)) : I t := by
  rcases exec_cases c s with e | e | ⟨x, e⟩ | ⟨x, e⟩ | e
  · rw [e] at h; cases h; exact hs
  · rw [e] at h; cases h; exact he _ (hb _ hs)
  · rw [e] at h; cases h; exact he _ (ha _ _ hs)
  · rw [e] at h; cases h; exact hr _ _ (hb _ hs)
  · subst e
    have : exec .coldReset s = .next (effectOf .coldReset s) := rfl
    rw [this] at h; cases h; exact he _ hs

/-- A law that the parts of a management packet's way keep, and its own effect keeps, is kept by it. -/
theorem arriveMgmt_keeps {I : State → Prop} {x : Link} {k : MgmtKind}
    {effect : State → State × Decision} {s : State} (hs : I s)
    (hd : ∀ u, I u → I (discardPacket u x)) (hp : ∀ u, I u → I (raiseProtocol u x .mgmtOverrun))
    (hc : ∀ u, I u → I (settle u)) (hr : ∀ u, I u → I (renewLease u x))
    (hj : (s.mgmt.replies.get x).length < 2 → ∀ d, I (effect s).1 → I (joinReplies (effect s).1 x k d))
    (he : I (effect s).1) : I (arriveMgmt x k effect s) := by
  unfold arriveMgmt
  split
  · exact hd _ hs
  · split
    · exact hp _ hs
    · rename_i h
      exact hc _ (hr _ (hj (by simpa [replyRoom] using h) _ he))

/-- A law that, further, one timebase unit keeps and that does not look at the queue is kept by every
step. -/
theorem step_keeps {I : State → Prop} {s t : State} (h : step s = .next t) (hs : I s)
    (ht : ∀ u, I u → I (tick u)) (hq : ∀ u q, I u → I { u with pending := q })
    (hb : ∀ u, I u → I (beginEvent u)) (ha : ∀ u x, I u → I (accepted u x))
    (hr : ∀ u x, I u → I (enterRetry u x)) (he : ∀ c u, I u → I (effectOf c u)) : I t := by
  unfold step at h
  split at h
  · cases h; exact ht _ hs
  · exact exec_keeps h (hq _ _ hs) hb ha hr (he _)

end Sys2Proof.Machine
end

