-- ==== Sys2Proof/Tests/Slice0.lean ====
section
/-! SUPPORT. Tests: ill-formed commands that the check refuses, frames written out from the layouts of
file 11, some commands on small states, and for every statement with hypotheses states that meet them. -/

set_option Elab.async false

namespace Sys2Proof.Tests

open Sys2Proof.Machine

/-! ## The check of a command's operands -/

theorem test_activateSent_position : (Instr.activateSent 16).wellFormed = false := by decide

theorem test_activationComplete_position : (Instr.activationComplete 16).wellFormed = false := by decide

theorem test_readColumnSent_position : (Instr.readColumnSent 16).wellFormed = false := by decide

theorem test_writeColumnSent_position : (Instr.writeColumnSent 16).wellFormed = false := by decide

theorem test_prechargeSent_position : (Instr.prechargeSent 16).wellFormed = false := by decide

theorem test_prechargeComplete_position : (Instr.prechargeComplete (.bank 16)).wellFormed = false := by
  decide

theorem test_rowIdleTimerExpiry_position : (Instr.rowIdleTimerExpiry 16).wellFormed = false := by decide

theorem test_refreshCommandSent_rank : (Instr.refreshCommandSent 2).wellFormed = false := by decide

theorem test_refreshComplete_rank : (Instr.refreshComplete 2).wellFormed = false := by decide

theorem test_lockHoldExpiry_unaligned : (Instr.lockHoldExpiry 31).wellFormed = false := by decide

theorem test_lockHoldExpiry_beyond : (Instr.lockHoldExpiry (2 ^ 30)).wellFormed = false := by decide

theorem test_mgmtWrite_ownRow : (Instr.mgmtWrite .a 0 0x03 0 1).wellFormed = false := by decide

theorem test_write_masks : (Instr.write .a 0 1 8 0 (List.replicate 256 0) []).wellFormed = false := by
  decide +kernel

theorem test_lockWrite_masks :
    (Instr.lockWrite .a 0 1 8 0 (List.replicate 256 0) []).wellFormed = false := by decide +kernel

theorem test_write_body : (Instr.write .a 0 1 8 0 [] (List.replicate 2048 0)).wellFormed = false := by
  decide +kernel

theorem test_lastPositions_wellFormed : ((List.range 16).all fun p =>
    (Instr.activateSent p).wellFormed && (Instr.prechargeComplete (.bank p)).wellFormed) = true := by
  decide

/-! ## Frames, byte by byte from file 11 -/

/-- The known check value, over the bytes "123456789", of a CRC with the generator polynomial, the initial
value and the bit order of 11 section 11.1. -/
theorem test_crc : crc16 [0x31, 0x32, 0x33, 0x34, 0x35, 0x36, 0x37, 0x38, 0x39] = 0x29B1#16 := by
  decide +kernel

/-- A frame is the payload and its CRC. -/
def framed (payload : List Byte) : List Byte := payload ++ bytesBE 2 (crc16 payload).toNat

theorem test_frame_read : commandOfFrame .a (framed
    [0x01, 0x05, 0x00, 0x08, 0x11, 0x02, 0x00, 0x01, 0x23, 0x45, 0x67, 0x80]) =
    .read .a 5 0x11 2 0 0x0123456780#40 := by decide +kernel

theorem test_frame_fence : commandOfFrame .b (framed [0x06, 0x3F, 0x00, 0x01, 0x7E]) =
    .fence .b 0x3F 0x7E := by decide +kernel

theorem test_frame_lockDrop : commandOfFrame .a (framed
    [0x05, 0x00, 0x00, 0x08, 0x01, 0x00, 0x02, 0xFF, 0x00, 0x00, 0x00, 0x20]) =
    .lockDrop .a 0 1 2 0xFF00000020#40 := by decide +kernel

theorem test_frame_write : commandOfFrame .b (framed ([0x02, 0x01, 0x00, 0x2C, 0x09, 0x01, 0x01,
      0x00, 0x00, 0x00, 0x01, 0x00, 0x80, 0x00, 0x00, 0x01] ++ (0xAB : Byte) :: List.replicate 31 0)) =
    .write .b 1 9 1 0x100#40 [0x80000001#32] [0xAB#256] := by decide +kernel

theorem test_frame_noticeAck : commandOfFrame .a (framed [0x10, 0x02, 0x00, 0x01, 0x0C]) =
    .noticeAck .a 2 0x0C := by decide +kernel

theorem test_frame_mgmtWrite : commandOfFrame .a (framed
    [0x21, 0x04, 0x00, 0x06, 0x05, 0x03, 0x00, 0x00, 0x00, 0x07]) = .writeForceLevel .a 4 7 := by
  decide +kernel

theorem test_frame_tableWrite : commandOfFrame .b (framed ([0x23, 0x00, 0x00, 0x0E, 0x01, 0x1F] ++
      [0x01, 0x00, 0x10, 0x00, 0x20, 0x02, 0x01, 0x01, 0x00, 0x00, 0x00, 0x00])) =
    .tableWrite .b 0 1 0x1F 0x010010002002010100000000#96 := by decide +kernel

theorem test_frame_train : commandOfFrame .a (framed [0x70, 0x00, 0x00, 0x03, 0x18, 0x02, 0x01]) =
    .train .a 24 2 1 := by decide +kernel

theorem test_frame_retryReq : commandOfFrame .b (framed [0x72, 0x00, 0x00, 0x02, 0x3E, 0x01]) =
    .retryReq .b 0x3E 1 := by decide +kernel

theorem test_frame_badCrc : commandOfFrame .a [0x06, 0x00, 0x00, 0x01, 0x7E, 0x00, 0x00] =
    .receiveBadPacket .a .crc := by decide +kernel

theorem test_frame_short : commandOfFrame .a (framed [0x06, 0x09, 0x00]) =
      .receiveUnknownPacket .a (some 9) ∧
    commandOfFrame .a (framed [0x06]) = .receiveUnknownPacket .a none ∧
    commandOfFrame .a (framed [0x06, 0x09, 0x00, 0x02, 0x7E]) = .receiveUnknownPacket .a (some 9) ∧
    commandOfFrame .a [0x06] = .receiveBadPacket .a .crc := by decide +kernel

theorem test_frame_readByItsLength : commandOfFrame .b
    (framed [0x06, 0x3F, 0x00, 0x01, 0x7E, 0xAA, 0xBB]) = .fence .b 0x3F 0x7E := by decide +kernel

theorem test_frame_unknownKind : commandOfFrame .a (framed [0x55, 0x09, 0x00, 0x00]) =
    .receiveUnknownPacket .a (some 9) := by decide +kernel

theorem test_hubFrame_alert : frameOfPacket (.sequenced 5 (.alert
      ⟨.lockBroken, some .b, some 0x12345678, some .quiesce, none, 0x01020304, 2, 0⟩)) = framed
    [0x52, 0x05, 0x00, 0x0F, 0x05, 0x07, 0x01, 0x21, 0x12, 0x34, 0x56, 0x78, 0x00, 0x00,
      0x01, 0x02, 0x03, 0x04, 0x02] := by decide +kernel

theorem test_hubFrame_reply : frameOfPacket (.sequenced 63 (.mgmtReply .tableCommit .commitTimeout (.word 9))) =
    framed [0x50, 0x3F, 0x00, 0x06, 0x24, 0x07, 0x00, 0x00, 0x00, 0x09] := by decide +kernel

theorem test_hubFrame_train : frameOfPacket (.train 24 2 true) =
    framed [0x70, 0x00, 0x00, 0x03, 0x18, 0x02, 0x01] := by decide +kernel

/-! ## Small states -/

/-- A link that is UP and idle. -/
def upLink : LinkCtl := { coldLink with state := .up, downTimer := .stopped }

/-- Rights that give both links everything. -/
def openRights : Rights := ⟨.readWrite, .readWrite, true, true⟩

/-- Tables with one window for both links over the whole physical space. -/
def openTables : TableSet :=
  ⟨⟨true, .both, 14, 0, 0⟩ :: List.replicate 15 coldWindow, List.replicate 32 coldRegion, openRights⟩

/-- The hub in RUN with both links UP, every bank CLOSED and the claim at link A. -/
def run : State := { State.reset with
  links := .both upLink
  xlate := ⟨openTables, openTables, 0, .steady, .stopped, false⟩
  sched := ⟨List.replicate 8 freshBank, [], [], 15, 0, 0⟩
  chan := { coldChannel with state := .run, clockOn := true }
  mgmt := { coldMgmt with claim := some .a } }

/-- The slots of these records, each with its place as its arrival number. -/
def tableOf (ts : List Txn) : TxnTable :=
  { emptyTable with
    slots := ts.zipIdx.map (fun p => some { p.1 with arrival := BitVec.ofNat 32 p.2 }) ++
      List.replicate (48 - ts.length) none
    arrivalCounter := BitVec.ofNat 32 ts.length
    transCounter := BitVec.ofNat 32 ts.length }

/-- The running hub with these transactions in its slots. -/
def holding (ts : List Txn) : State := { run with table := tableOf ts }

/-- The state a command answers with. -/
def after (o : Host.Outcome State Fault Refusal) : State :=
  match o with
  | .next t => t
  | _ => State.reset

/-- What holds of every live slot of a small table. -/
theorem ofLive {s : State} {p : Nat → Txn → Prop} (h : ∀ q ∈ liveSlots s, p q.1 q.2) (i : Nat)
    (t : Txn) (ht : slotAt s i = some t) : p i t := h (i, t) (mem_liveSlots.mpr ht)

/-- A request of link `x` for one block. -/
def one (kind : ReqKind) (x : Link) (tag : Byte) (addr : LinkAddr) : Txn :=
  match kind with
  | .write | .lockWrite => writeRequest x kind tag 1 addr [] [0]
  | .lockDrop => dropRequest x tag 0 addr
  | .fence => arriving x .fence tag
  | _ => readRequest x kind tag 1 0 addr

/-- The same after its intake step, with its ordering point. -/
def onPath (kind : ReqKind) (x : Link) (tag : Byte) (p : Nat) (n : Nat) (st : SlotState) : Txn :=
  { located run (one kind x tag (BitVec.ofNat 40 p)) p with
    state := st, transNo := some (BitVec.ofNat 32 n) }

/-! ## States that meet the hypotheses: the queue, cold reset, requests -/

theorem test_hyp_EmptyQueueIsOneTimebaseUnit : State.reset.pending = [] := rfl

/-- The hub with link A TRAINING. -/
def training : State := { State.reset with links := ⟨{ coldLink with state := .training }, coldLink⟩ }

theorem test_hyp_ColdResetEmptiesTheTable :
    requestOf (.read .a 0 1 1 0 0) = some (one .read .a 1 0, 0) ∧
    (linkOf State.reset .a).state = .down ∧ (linkOf training .a).state = .training ∧
    accepts run .a 0 ∧ run.table = (after (exec .coldReset run)).table ∧
    0 < (linkOf run .a).currentLimit :=
  ⟨rfl, rfl, rfl, ⟨rfl, rfl⟩, rfl, by decide⟩

/-- A warm reset with nothing left to do, the channel INIT. -/
def warmInit : State := { run with
  chan := { coldChannel with warm := some [] }, sched := ⟨[], [], [], 15, 0, 0⟩
  mgmt := { coldMgmt with
    claim := some .a, longOp := some (.hubReset, .a), replies := ⟨[⟨.hubReset, none, .none, 3⟩], []⟩ } }

theorem test_hyp_ColdResetEmptiesTheNoticeUnit :
    run.settings.notices.caching = ⟨false, false⟩ ∧ warmWorkDone warmInit = true := by decide +kernel

/-- A hub with one FREE slot, the last, and one request credit of link A. -/
def oneFree : State :=
  holding (List.replicate 24 (one .fence .b 0 0) ++ List.replicate 23 (one .fence .a 0 0))

theorem test_hyp_RequestTakesLowestFreeSlot :
    (requestOf (.fence .a 0 1) = some (one .fence .a 1 0, 0) ∧ accepts run .a 0 ∧
      (liveOf run .a).length < (linkOf run .a).currentLimit ∧ 0 < run.table.slots.length ∧
      slotAt run 0 = none ∧ ∀ j < 0, slotAt run j ≠ none) ∧
    (accepts oneFree .a 0 ∧ (liveOf oneFree .a).length < (linkOf oneFree .a).currentLimit ∧
      47 < oneFree.table.slots.length ∧ slotAt oneFree 47 = none ∧ ∀ j < 47, slotAt oneFree j ≠ none) :=
  ⟨⟨rfl, ⟨rfl, rfl⟩, by decide +kernel⟩, ⟨rfl, rfl⟩, by decide +kernel⟩

theorem test_hyp_ArrivingRecordHoldsTheArrivalFields :
    requestOf (.lockDrop .b 0 1 0 32) = some (one .lockDrop .b 1 32, 0) ∧
    (one .lockDrop .b 1 32).kind = .lockDrop := ⟨rfl, rfl⟩

/-- A hub that holds as many requests of link A as its current limit. -/
def fullA : State := holding (List.replicate 24 (one .fence .a 0 0))

theorem test_hyp_RequestCreditAndOverrun :
    (slotsLaw oneFree ∧ creditLaw oneFree ∧ liveLaw oneFree ∧
      (liveOf oneFree .a).length < (linkOf oneFree .a).currentLimit) ∧
    (requestOf (.fence .a 0 1) = some (one .fence .a 1 0, 0) ∧ accepts fullA .a 0 ∧
      (linkOf fullA .a).currentLimit ≤ (liveOf fullA .a).length) :=
  ⟨⟨by unfold slotsLaw; decide +kernel, by unfold creditLaw; decide +kernel,
      fun x => by cases x <;> decide +kernel, by decide +kernel⟩,
    rfl, ⟨rfl, rfl⟩, by decide +kernel⟩

/-! ## The intake step -/

/-- A request whose count is `n` blocks from an address. -/
def reading (n : Nat) (addr : LinkAddr) : Txn := { one .read .a 1 addr with count := some n }

/-- The hub holding one request of link A, not yet stepped. -/
def asked (t : Txn) : State := holding [t]

theorem test_hyp_IntakeStepRefusals_malformed :
    (intakeReady (asked (reading 0 0)) .a = some (0, reading 0 0) ∧ malformed (reading 0 0) = true) ∧
    (intakeReady (asked (reading 9 0)) .a = some (0, reading 9 0) ∧ malformed (reading 9 0) = true) ∧
    malformed (reading 8 0) = false := by decide +kernel

/-- A READ of link A with the tag of one in ACCESS. -/
def sameTag : State := holding [onPath .read .a 1 0 0 .access, one .read .a 1 0]

theorem test_hyp_IntakeStepRefusals_tagInUse :
    intakeReady sameTag .a = some (1, { one .read .a 1 0 with arrival := 1 }) ∧
    malformed { one .read .a 1 0 with arrival := 1 } = false ∧
    ∃ j u, slotAt sameTag j = some u ∧ j ≠ 1 ∧ u.link = .a ∧ u.tag = 1 ∧ u.state ≠ .intake :=
  ⟨by decide +kernel, by decide +kernel, 0, onPath .read .a 1 0 0 .access, by decide +kernel⟩

/-- The same hub with another channel state. -/
def channelIn (s : State) (c : ChannelState) : State := { s with chan := { s.chan with state := c } }

theorem test_hyp_IntakeStepRefusals_notReady :
    let s := channelIn (asked (reading 1 0)) .quiescing
    intakeReady s .a = some (0, reading 1 0) ∧ malformed (reading 1 0) = false ∧
    tagTaken s 0 (reading 1 0) = false ∧ (reading 1 0).kind ≠ .fence ∧ s.chan.state ≠ .run := by
  decide +kernel

theorem test_hyp_IntakeStepRefusals_align :
    let s := asked (reading 2 0xE0)
    (intakeReady s .a = some (0, reading 2 0xE0) ∧ malformed (reading 2 0xE0) = false ∧
      tagTaken s 0 (reading 2 0xE0) = false ∧ (reading 2 0xE0).kind ≠ .fence ∧ s.chan.state = .run ∧
      misaligned (reading 2 0xE0) = true) ∧
    misaligned (reading 1 31) = true ∧ misaligned (reading 8 0) = false ∧
    misaligned (reading 1 0xE0) = false := by decide +kernel

/-- The request passes its checks up to the tables. -/
theorem passes {s : State} {i : Nat} {t : Txn} (h : malformed t = false ∧ tagTaken s i t = false ∧
    t.kind ≠ .fence ∧ s.chan.state = .run ∧ misaligned t = false) : passesTable s i t := h

/-- The tables at the current epoch answer so. -/
def looksUp (s : State) (t : Txn) : Except MemStatus Nat :=
  Machine.translate s { t with epoch := some s.xlate.epoch }

theorem found {s : State} {t : Txn} {p : Nat} (h : (looksUp s t).toOption = some p) :
    looksUp s t = .ok p := by
  cases he : looksUp s t <;> simp_all [Except.toOption]

theorem turnedAway {s : State} {t : Txn} {e : MemStatus}
    (h : (match looksUp s t with | .ok _ => none | .error e => some e) = some e) :
    looksUp s t = .error e := by
  cases he : looksUp s t <;> simp_all

/-- The hub of one request of link A under tables with these rights. -/
def underRights (t : Txn) (r : Rights) : State :=
  { asked t with xlate := { run.xlate with active := { openTables with default := r } } }

/-- The hub of one request of link A with no window. -/
def noWindow (t : Txn) : State := { asked t with xlate := State.reset.xlate }

theorem test_hyp_IntakeStepRefusals_tables :
    (intakeReady (noWindow (reading 1 0)) .a = some (0, reading 1 0) ∧
      passesTable (noWindow (reading 1 0)) 0 (reading 1 0) ∧
      looksUp (noWindow (reading 1 0)) (reading 1 0) = .error .unmapped) ∧
    (intakeReady (asked (reading 1 0x8000000)) .a = some (0, reading 1 0x8000000) ∧
      passesTable (asked (reading 1 0x8000000)) 0 (reading 1 0x8000000) ∧
      looksUp (asked (reading 1 0x8000000)) (reading 1 0x8000000) = .error .range) ∧
    (passesTable (underRights (reading 1 0) coldRights) 0 (reading 1 0) ∧
      looksUp (underRights (reading 1 0) coldRights) (reading 1 0) = .error .denied) :=
  ⟨⟨by decide +kernel, passes (by decide +kernel), turnedAway (by decide +kernel)⟩,
    ⟨by decide +kernel, passes (by decide +kernel), turnedAway (by decide +kernel)⟩,
    passes (by decide +kernel), turnedAway (by decide +kernel)⟩

/-- A hub with these lock entries and link A's request at its intake step. -/
def locking (t : Txn) (locks : List LockEntry) : State := { asked t with locks := locks }

/-- A HELD entry of a link on a block. -/
def heldEntry (x : Link) (block : Nat) : LockEntry := ⟨x, block, .held, none, .running 256⟩

theorem test_hyp_IntakeStepQueuesRequests :
    (intakeReady (locking (one .read .a 1 0) [heldEntry .b 0]) .a = some (0, one .read .a 1 0) ∧
      passesTable (locking (one .read .a 1 0) [heldEntry .b 0]) 0 (one .read .a 1 0) ∧
      looksUp (locking (one .read .a 1 0) [heldEntry .b 0]) (one .read .a 1 0) = .ok 0 ∧
      blockingEntry (locking (one .read .a 1 0) [heldEntry .b 0])
        (located (locking (one .read .a 1 0) [heldEntry .b 0]) (one .read .a 1 0) 0) = some 0) ∧
    (intakeReady (asked (one .write .a 1 0)) .a = some (0, one .write .a 1 0) ∧
      passesTable (asked (one .write .a 1 0)) 0 (one .write .a 1 0) ∧
      looksUp (asked (one .write .a 1 0)) (one .write .a 1 0) = .ok 0 ∧
      blockingEntry (asked (one .write .a 1 0))
        (located (asked (one .write .a 1 0)) (one .write .a 1 0) 0) = none) :=
  ⟨⟨by decide +kernel, passes (by decide +kernel), found (by decide +kernel), by decide +kernel⟩,
    by decide +kernel, passes (by decide +kernel), found (by decide +kernel), by decide +kernel⟩

/-- A FENCE of link A behind a READ in ACCESS. -/
def fenced : State := holding [onPath .read .a 1 0 0 .access, one .fence .a 2 0]

theorem test_hyp_IntakeStepQueuesRequests_fence :
    (intakeReady fenced .a = some (1, { one .fence .a 2 0 with arrival := 1 }) ∧
      tagTaken fenced 1 { one .fence .a 2 0 with arrival := 1 } = false ∧
      ∃ p ∈ liveOf fenced .a, arrivedBefore fenced p.2 { one .fence .a 2 0 with arrival := 1 } = true) ∧
    (intakeReady (asked (one .fence .a 2 0)) .a = some (0, one .fence .a 2 0) ∧
      tagTaken (asked (one .fence .a 2 0)) 0 (one .fence .a 2 0) = false ∧
      ∀ p ∈ liveOf (asked (one .fence .a 2 0)) .a,
        arrivedBefore (asked (one .fence .a 2 0)) p.2 (one .fence .a 2 0) = false) := by
  decide +kernel

/-- What the lock clauses ask of a request of link A and a list of entries, whatever the entries say. -/
def locksAsked (kind : ReqKind) (locks : List LockEntry) : Prop :=
  intakeReady (locking (one kind .a 1 0) locks) .a = some (0, one kind .a 1 0) ∧
  passesTable (locking (one kind .a 1 0) locks) 0 (one kind .a 1 0) ∧
  looksUp (locking (one kind .a 1 0) locks) (one kind .a 1 0) = .ok 0

theorem test_hyp_IntakeStepTakesLockRequests_read :
    (locksAsked .lockRead [heldEntry .a 32, heldEntry .a 64] ∧
      2 ≤ (locksOf (locking (one .lockRead .a 1 0) [heldEntry .a 32, heldEntry .a 64]) .a).length) ∧
    (locksAsked .lockRead [heldEntry .a 0] ∧
      ∃ e, lockOn (locking (one .lockRead .a 1 0) [heldEntry .a 0]) 0 = some e ∧ e.holder = .a) ∧
    (locksAsked .lockRead [heldEntry .b 0, heldEntry .a 32] ∧
      (locksOf (locking (one .lockRead .a 1 0) [heldEntry .b 0, heldEntry .a 32]) .a).length < 2 ∧
      ∃ e, lockOn (locking (one .lockRead .a 1 0) [heldEntry .b 0, heldEntry .a 32]) 0 = some e ∧
        e.holder ≠ .a) ∧
    (locksAsked .lockRead [heldEntry .a 32] ∧
      (locksOf (locking (one .lockRead .a 1 0) [heldEntry .a 32]) .a).length < 2 ∧
      lockOn (locking (one .lockRead .a 1 0) [heldEntry .a 32]) 0 = none) :=
  ⟨⟨⟨by decide +kernel, passes (by decide +kernel), found (by decide +kernel)⟩, by decide +kernel⟩,
    ⟨⟨by decide +kernel, passes (by decide +kernel), found (by decide +kernel)⟩, _, rfl, rfl⟩,
    ⟨⟨by decide +kernel, passes (by decide +kernel), found (by decide +kernel)⟩,
      by decide +kernel, _, rfl, by decide⟩,
    ⟨by decide +kernel, passes (by decide +kernel), found (by decide +kernel)⟩, by decide +kernel⟩

theorem test_hyp_IntakeStepTakesLockRequests_writeAndDrop (kind : ReqKind)
    (hk : kind = .lockWrite ∨ kind = .lockDrop) :
    (locksAsked kind [heldEntry .a 0] ∧ ∃ e ∈ [heldEntry .a 0], e.block = 0 ∧ e.holder = .a ∧
      e.state = .held) ∧
    (locksAsked kind [{ heldEntry .a 0 with state := .writing }] ∧
      ∀ e ∈ [{ heldEntry .a 0 with state := .writing }], e.block = 0 → e.holder = .a →
        e.state ≠ .held) := by
  rcases hk with rfl | rfl <;>
    exact ⟨⟨⟨by decide +kernel, passes (by decide +kernel), found (by decide +kernel)⟩, by decide +kernel⟩,
      ⟨by decide +kernel, passes (by decide +kernel), found (by decide +kernel)⟩, by decide +kernel⟩

/-- Two WRITEs and a READ of one block, in that order. -/
def conflicting : State :=
  holding [onPath .write .a 1 0 0 .access, onPath .write .b 1 0 1 .queued, onPath .read .a 2 0 2 .queued]

theorem test_hyp_PredecessorIsLatestConflicting :
    choosePred conflicting 2 (onPath .read .a 2 0 2 .queued) = some 1 ∧
    choosePred conflicting 1 (onPath .write .b 1 0 1 .queued) = some 0 ∧
    choosePred conflicting 0 (onPath .write .a 1 0 0 .access) = none ∧
    (∃ v, slotAt conflicting 1 = some v ∧ onChannelPath v = true ∧
      conflict (onPath .write .a 1 0 0 .access) v = true ∧ v.transNo = some 1) :=
  ⟨by decide +kernel, by decide +kernel, by decide +kernel, _, rfl, by decide +kernel⟩

/-! ## Responses -/

/-- A READ of link A that is answered. -/
def answered : Txn := { onPath .read .a 1 0 0 .reply with status := some .ok, data := [0], statuses := [.ok] }

/-- The hub with that response at the head of link A's response queue. -/
def responding : State :=
  { run with table := { tableOf [answered] with responses := ⟨[0], []⟩ } }

/-- A FENCE of link A in FENCE-WAIT. -/
def waitingFence : Txn := { one .fence .a 2 0 with state := .fenceWait, arrival := 1 }

/-- At most one FENCE of a link waits. -/
theorem fenceLawOf {s : State} (h : ∀ q ∈ liveSlots s, ∀ r ∈ liveSlots s, q.2.state = .fenceWait →
    r.2.state = .fenceWait → q.2.link = r.2.link → q.1 = r.1) : fenceLaw s :=
  fun i j t u hi hj => h (i, t) (mem_liveSlots.mpr hi) (j, u) (mem_liveSlots.mpr hj)

/-- A FENCE behind a READ, and one that is first. -/
def fenceBehind : State := holding [onPath .read .a 1 0 0 .access, waitingFence]

/-- The hub whose FENCE of link A arrived before everything else of its link. -/
def fenceFirst : State := holding [onPath .read .b 1 0 0 .access, waitingFence]

theorem test_hyp_ResponsesAreHanded :
    (mayTake responding .a .response = true ∧ responding.table.responses.get .a = [0] ∧
      slotAt responding 0 = some answered ∧ answered.status = some .ok) ∧
    (slotAt fenceBehind 1 = some waitingFence ∧ waitingFence.link = .a ∧
      waitingFence.state = .fenceWait ∧ fenceLaw fenceBehind ∧
      ∃ p ∈ liveOf fenceBehind .a, arrivedBefore fenceBehind p.2 waitingFence = true) ∧
    (slotAt fenceFirst 1 = some waitingFence ∧ fenceLaw fenceFirst ∧
      ∀ p ∈ liveOf fenceFirst .a, arrivedBefore fenceFirst p.2 waitingFence = false) :=
  ⟨by decide +kernel,
    ⟨by decide +kernel, rfl, rfl, fenceLawOf (by decide +kernel), by decide +kernel⟩,
    by decide +kernel, fenceLawOf (by decide +kernel), by decide +kernel⟩

/-! ## What follows from an event -/

/-- The same hub with a draining commit of link A, its reply undecided behind a decided one. -/
def draining (s : State) : State := { s with
  xlate := { s.xlate with commit := .draining, commitTimer := .running 1024 }
  mgmt := { s.mgmt with
    longOp := some (.commit, .a)
    replies := ⟨[⟨.tableCommit, some .busy, .none, 0⟩, ⟨.tableCommit, none, .none, 0⟩], []⟩ } }

/-- The same hub with this episode. -/
def inEpisode (s : State) (k : EpisodeKind) (p : Progress) : State :=
  { s with refresh := { s.refresh with episode := .holds k p, debt := 6 } }

/-- A service of slot 0 with one block to read. -/
def readService : Service := ⟨0, 1, false, [0], 0, [], [], false⟩

/-- The hub whose bank 0, in this state, serves the transaction in slot 0. -/
def serving (t : Txn) (st : BankState) (v : Service) : State := { holding [t] with
  sched := { run.sched with
    banks := ⟨st, if st = .closed then none else some 0, some 0, .keep, 0, .stopped, false, false,
      some v, 0, 0⟩ :: List.replicate 7 freshBank
    openRows0 := if st = .closed then [] else [0] } }

/-- A READ of link A in ACCESS. -/
def inAccess : Txn := onPath .read .a 1 0 0 .access

/-- The hub reading a block. -/
def reads : State := serving inAccess .openRow readService

theorem test_hyp_ConsequencesSettle :
    (run.xlate.commit ≠ .draining ∧ run.chan.state ≠ .quiescing) ∧
    (settle (draining reads)).xlate.commit = .draining ∧
    (settle (inEpisode reads .forced .waiting)).refresh.episode = .holds .forced .waiting ∧
    (settle (inEpisode reads .forced .closing)).refresh.episode = .holds .forced .closing := by
  decide +kernel

theorem test_hyp_DrainEndsInSwitch :
    ((draining reads).xlate.commit = .draining ∧ anyOnPath (draining reads) = true) ∧
    ((draining run).xlate.commit = .draining ∧ anyOnPath (draining run) = false ∧
      (draining run).mgmt.longOp = some (.commit, .a) ∧
      (draining run).mgmt.replies.get .a =
        [⟨.tableCommit, some .busy, .none, 0⟩] ++ ⟨.tableCommit, none, .none, 0⟩ :: [] ∧
      ∀ d ∈ [(⟨.tableCommit, some .busy, .none, 0⟩ : MgmtEntry)],
        ¬ (d.kind = .tableCommit ∧ d.status = none)) := by decide +kernel

theorem test_hyp_ConsequencesSettle_clauses :
    (∀ k ∈ [EpisodeKind.forced, .opportunistic],
      (inEpisode run k .waiting).refresh.episode = .holds k .waiting ∧
      anyInFlight (inEpisode run k .waiting) = false ∧
      anyInFlight (inEpisode reads k .waiting) = true ∧
      (inEpisode run k .closing).refresh.episode = .holds k .closing ∧
      allClosed (inEpisode run k .closing) = true ∧
      allClosed (inEpisode reads k .closing) = false) ∧
    (let s := { reads with table := emptyTable, chan := { reads.chan with state := .quiescing } };
      s.chan.state = .quiescing ∧ anyOnPath s = false) ∧
    (let s := { reads with chan := { reads.chan with state := .quiescing } };
      s.chan.state = .quiescing ∧ anyOnPath s = true) := by decide +kernel

/-- The same hub in TENURE mode with this tenure. -/
def tenured (s : State) (t : Tenure) : State :=
  { s with tenure := t, settings := { s.settings with tenure := { s.settings.tenure with mode := .tenure } } }

/-- Link A holds tenure, which is due to this. -/
def heldByA (due : HandOver) : Tenure := ⟨some .a, some .opened, .stopped, .stopped, due, false⟩

/-- Two QUEUED READs, link B's first. -/
def twoQueued : State := holding [onPath .read .b 1 0 0 .queued, onPath .read .a 1 256 1 .queued]

/-- A QUEUED READ of link B beside a READ of link A in ACCESS. -/
def queuedBeside : State := holding [onPath .read .b 1 0 0 .queued, onPath .read .a 1 256 1 .access]

theorem test_hyp_TenurePassesAndGrants_pass :
    holderIdle (passTenure (tenured twoQueued (heldByA (.toLink .b))) .b) .b = false ∧
    holderIdle (passTenure (tenured run (heldByA (.toLink .b))) .b) .b = true := by decide +kernel

theorem test_hyp_TenurePassesAndGrants :
    (twoQueued.xlate.commit ≠ .draining ∧ twoQueued.refresh.episode = .none ∧
      twoQueued.refresh.debt = 0) ∧
    (let s := tenured twoQueued (heldByA (.toLink .b));
      s.tenure.holder = some .a ∧ s.tenure.due = .toLink .b ∧ hasWaitingWork s .b = true ∧
      handOverPoint s .a = true) ∧
    (let s := tenured queuedBeside (heldByA (.toLink .b));
      s.tenure.holder = some .a ∧ s.tenure.due = .toLink .b ∧ hasWaitingWork s .b = true ∧
      handOverPoint s .a = false) ∧
    (let s := tenured twoQueued noTenure;
      s.tenure.holder = none ∧ s.settings.tenure.mode = .tenure ∧ anyInFlight s = false ∧
      slotAt s 0 = some (onPath .read .b 1 0 0 .queued) ∧
      isWaitingWork (onPath .read .b 1 0 0 .queued) = true) ∧
    (∀ j u, slotAt (tenured twoQueued noTenure) j = some u → j ≠ 0 → isWaitingWork u = true →
      arrivedBefore (tenured twoQueued noTenure) (onPath .read .b 1 0 0 .queued) u = true) ∧
    ∀ i t, slotAt (tenured reads noTenure) i = some t → isWaitingWork t = false :=
  ⟨by decide +kernel, by decide +kernel, by decide +kernel, by decide +kernel,
    ofLive (by decide +kernel), ofLive (by decide +kernel)⟩

theorem test_hyp_EligibilityAndTenureGate :
    (run.settings.tenure.mode = .shared ∧
      (tenured run (heldByA .toNone)).settings.tenure.mode = .tenure ∧
      (tenured run (heldByA .toNone)).tenure.due ≠ .no) ∧
    (let t := { onPath .write .b 1 0 1 .queued with pred := some 0 };
      eligible (holding [onPath .write .a 1 0 0 .access, t]) t = false ∧
      eligible (holding [onPath .write .a 1 0 0 .notify, t]) t = true) ∧
    (let t := onPath .lockRead .a 1 0 0 .queued;
      let s := tenured (holding [t]) (heldByA (.toLink .b));
      gateOpen { s with locks := [heldEntry .a 32] } t = false ∧
      gateOpen { s with locks := [heldEntry .a 32] } { t with kind := .read } = true ∧
      gateOpen s { t with kind := .read } = false) := by
  decide +kernel

/-- The same hub with this refresh debt. -/
def indebted (s : State) (n : Nat) : State := { s with refresh := { s.refresh with debt := n } }

theorem test_hyp_TenurePassesAndGrants_due :
    (let s := indebted (tenured twoQueued (heldByA (.toLink .b))) 1;
      s.tenure.holder = some .a ∧ s.tenure.due ≠ .no ∧ handOverPoint s .a = true ∧
      s.refresh.episode = .none ∧ s.chan.state = .run ∧ 1 ≤ s.refresh.debt) ∧
    (let s := tenured twoQueued (heldByA .toNone);
      s.tenure.due = .toNone ∧ handOverPoint s .a = true ∧ s.refresh.debt = 0 ∧
      hasWaitingWork s .b = true) ∧
    (let s := tenured run (heldByA .toNone);
      s.tenure.due = .toNone ∧ handOverPoint s .a = true ∧ hasWaitingWork s .b = false) ∧
    (tenured run (heldByA .no)).tenure.due = .no := by decide +kernel

theorem test_hyp_TenurePassesAndGrants_grant :
    (grantReady (tenured run noTenure) = none ∧ episodeReady (tenured run noTenure) = false) ∧
    (grantReady (indebted run 1) = none ∧ episodeReady (indebted run 1) = true) ∧
    (grantReady (tenured twoQueued noTenure) = some .b ∧
      episodeReady (tenured twoQueued noTenure) = false) ∧
    (grantReady (indebted (tenured twoQueued noTenure) 1) = some .b ∧
      episodeReady (indebted (tenured twoQueued noTenure) 1) = true) := by decide +kernel

theorem test_hyp_EligibilityAndTenureGate_locks :
    holdsLock { run with locks := [heldEntry .a 0] } .a = true ∧
    (let w := { onPath .lockWrite .a 1 0 1 .queued with pred := some 0 };
      let e : LockEntry := ⟨.a, 0, .writing, some 1, .stopped⟩;
      holdsLock { holding [onPath .read .b 1 0 0 .access, w] with locks := [e] } .a = false ∧
      holdsLock { holding [onPath .read .a 1 0 0 .access, w] with locks := [e] } .a = true) := by
  decide +kernel

/-! ## Translation and location -/

theorem test_hyp_TranslationAndLocation_windows :
    (∀ w ∈ coldTables.windows, ¬ windowTakes w .a 0) ∧
    run.xlate.active.windows[0]? = some ⟨true, .both, 14, 0, 0⟩ ∧
    windowTakes ⟨true, .both, 14, 0, 0⟩ .a 0 ∧ windowTakes ⟨true, .both, 14, 0, 0⟩ .b 0x3FFFFFFF ∧
    ¬ windowTakes ⟨true, .both, 14, 0, 0⟩ .b 0x40000000 := by
  refine ⟨?_, rfl, ?_⟩ <;> (simp only [windowTakes]; decide +kernel)

theorem test_hyp_TranslationAndLocation_span :
    (one .read .a 1 0).addr = some 0 ∧ 1 ≤ (one .read .a 1 0).count.getD 0 ∧
    (capacity run.settings.geometry < 0x8000000 + 32 * 1) ∧
    (0x7FFFFE0 + 32 * 1 ≤ capacity run.settings.geometry) := by decide +kernel

/-- A region over the first 64 KiB. -/
def firstRegion : Region := ⟨true, 0, 0, ⟨.read, .none, false, false⟩⟩

theorem test_hyp_TranslationAndLocation_rights :
    rightsGoverning { openTables with regions := firstRegion :: List.replicate 31 coldRegion } 0xFFFF
      firstRegion.rights ∧
    rightsGoverning { openTables with regions := firstRegion :: List.replicate 31 coldRegion } 0x10000
      openRights :=
  ⟨.inl ⟨0, firstRegion, rfl, by simp only [regionHolds]; decide +kernel, by simp, rfl⟩,
    .inr ⟨by simp only [regionHolds]; decide +kernel, rfl⟩⟩

theorem test_hyp_TranslationAndLocation_location :
    let g := coldSettings.geometry
    (g.banks = 4 ∨ g.banks = 8) ∧ 0 < g.rows ∧ 0x7FFFFFF < capacity g ∧
    locate g 0x7FFFFE0 = locate g 0x7FFFFFF ∧ (0x7FFFF00 : Nat) / 256 = (0x7FFFF00 + 32 * 7) / 256 ∧
    g.interleave = .rowMajor ∧ { g with interleave := .spanRotate }.interleave = .spanRotate := by
  decide +kernel

/-! ## The Bank Scheduler and the DRAM channel -/

/-- The hub with one QUEUED transaction at bank 0 and this bank record there. -/
def queuedAt (t : Txn) (b : Bank) : State := { holding [t] with
  sched := ⟨b :: List.replicate 7 freshBank, if b.state = .openRow then [0] else [], [], 15, 0, 0⟩ }

/-- A bank with row 0 OPEN. -/
def openBank : Bank := { freshBank with state := .openRow, row := some 0, lastRow := some 0 }

/-- A READ of link A, QUEUED, that is or is not urgent. -/
def queuedRead (bypass : Nat) : Txn := { onPath .read .a 1 0 0 .queued with bypass := bypass }

/-- A READ of link A, QUEUED for another row of bank 0. -/
def otherRow : Txn := onPath .read .a 1 0x4000 0 .queued

theorem test_hyp_ArbiterGrants :
    (bankAt (queuedAt (queuedRead 0) openBank) 0 = some openBank ∧
      choice (queuedAt (queuedRead 4) openBank) 0 = some (0, queuedRead 4) ∧
      urgent (queuedAt (queuedRead 4) openBank) (queuedRead 4) = true ∧
      urgent (queuedAt (queuedRead 3) openBank) (queuedRead 3) = false ∧
      choice (queuedAt (queuedRead 3) openBank) 0 = some (0, queuedRead 3) ∧
      rowOf (queuedRead 3) = openBank.row ∧
      behaviourOf (queuedAt (queuedRead 3) openBank) openBank = .keep ∧
      choice (queuedAt otherRow openBank) 0 = some (0, otherRow) ∧ rowOf otherRow = some 1 ∧
      choice (queuedAt otherRow { openBank with closePending := true }) 0 = none) ∧
    positionLaw (queuedAt (queuedRead 0) openBank) ∧
    grantee (queuedAt (queuedRead 0) openBank) = some 0 ∧
    urgentChoice (queuedAt (queuedRead 0) openBank) 0 = false ∧
    grantee (queuedAt (queuedRead 4) openBank) = some 0 ∧
    urgentChoice (queuedAt (queuedRead 4) openBank) 0 = true ∧ grantee reads = none :=
  ⟨by decide +kernel, by unfold positionLaw; decide, by decide +kernel⟩

/-- The hub with one open row at most in each rank, bank 0 as given, and a READ of bank 1. -/
def crowded (b : Bank) (ts : List Txn) : State := { holding (onPath .read .a 1 2048 0 .queued :: ts) with
  sched := ⟨b :: List.replicate 7 freshBank, [0], [], 15, 0, 0⟩
  settings := { run.settings with rows := { run.settings.rows with openLimit := 1 } } }

theorem test_hyp_ArbiterGrants_room :
    (posOf (crowded openBank []) (onPath .read .a 1 2048 0 .queued) = some 1 ∧
      bankAt (crowded openBank []) 1 = some freshBank ∧ choice (crowded openBank []) 1 ≠ none ∧
      hasRoom (crowded openBank []) 0 = false ∧ requests (crowded openBank []) 1 = false) ∧
    (∀ p < 8, ∀ b, bankAt (crowded openBank []) p = some b → b.closePending = false) ∧
    (openRowList (crowded openBank []) 0 = [] ++ 0 :: [] ∧ victim (crowded openBank []) 0 = some 0) ∧
    victim (crowded openBank [queuedRead 0]) 0 = none ∧
    hasRoom (queuedAt (queuedRead 0) freshBank) 0 = true ∧
    (∃ p b, bankAt (crowded { openBank with closePending := true } []) p = some b ∧
      b.closePending = true) := by
  refine ⟨by decide +kernel, ?_, by decide +kernel, by decide +kernel, by decide +kernel, 0, _, rfl, rfl⟩
  intro p hp b hb
  have : ∀ p < 8, ((bankAt (crowded openBank []) p).all fun b => !b.closePending) = true := by
    decide +kernel
  simpa [hb] using this p hp

theorem test_hyp_ArbiterGrants_ready :
    (anyCommandReady reads = true ∧ earlierCommandReady reads 2 = true ∧
      earlierCommandReady reads 1 = false) ∧
    anyCommandReady (serving inAccess .closed readService) = true ∧
    anyCommandReady (serving { otherRow with state := .access } .openRow readService) = true ∧
    anyCommandReady (serving inAccess .activating readService) = false ∧
    anyCloseDue (queuedAt (queuedRead 0) { openBank with closePending := true }) = true ∧
    anyCloseDue (queuedAt (queuedRead 0) { openBank with closePending := true, activatedAt := 1 }) =
      false := by decide +kernel

/-- A WRITE of link A, QUEUED, with these masks. -/
def queuedWrite (masks : Option (List Mask)) : Txn :=
  { onPath .write .a 1 0 0 .queued with masks := masks, mergeNeeded := someMerge masks }

theorem test_hyp_IssueStartsService :
    (∀ t ∈ [queuedRead 0, queuedWrite none, queuedWrite (some [1]), queuedWrite (some [0])],
      grantee (queuedAt t openBank) = some 0 ∧ choice (queuedAt t openBank) 0 = some (0, t) ∧
      bankAt (queuedAt t openBank) 0 = some openBank) ∧
    (queuedWrite (some [1])).mergeNeeded = true ∧ isWrite (queuedWrite none) = true ∧
    (let v := planService 0 (queuedWrite (some [0])) 1;
      v.toRead = [] ∧ v.toWrite = [] ∧ openBank.row = rowOf (queuedWrite (some [0]))) := by
  decide +kernel

theorem test_hyp_IssueStartsService_streaks :
    run.settings.rows.policy = .adaptive ∧ run.settings.rows.missStreak = 3 ∧
    run.settings.rows.hitStreak = 3 ∧ min 7 (1 + 1) < 3 ∧ 3 ≤ min 7 (2 + 1) ∧
    openBank.behaviour = .keep ∧ openBank.row = some 0 ∧ openBank.row ≠ some 1 ∧
    freshBank.state ≠ .openRow ∧
    ({ openBank with behaviour := .close }).lastRow = some 0 ∧
    ({ openBank with behaviour := .close }).lastRow ≠ some 1 := by decide

/-- The same hub with a warm reset under way. -/
def warm (s : State) : State := { s with
  chan := { s.chan with warm := some [] }
  mgmt := { s.mgmt with longOp := some (.hubReset, .a), replies := ⟨[⟨.hubReset, none, .none, 3⟩], []⟩ } }

/-- What bank 0 of a hub serves. -/
def servedAt (s : State) : Option Service := (bankAt s 0).bind fun b => b.serving

/-- A service of slot 0 with one block to write, which has or has not begun to. -/
def writeService (rest : List (Nat × Block)) (wrote : Bool) : Service :=
  ⟨0, 1, false, [], 0, [], (0, 0) :: rest, wrote⟩

theorem test_hyp_ActivatesRun_sent :
    ∀ v ∈ [readService, { readService with reserved := true }],
      let s := serving inAccess .closed v
      servedAt s = some v ∧ (bankAt s 0).map (fun b => b.state) = some .closed ∧
      slotRow s v.slot = some 0 ∧ warmReset s = false ∧ earlierCommandReady s v.issued = false ∧
      s.chan.state = .run ∧ hasRoom s (rankOf s 0) = true := by decide +kernel

/-- A service that has nothing to do. -/
def spentService : Service := ⟨0, 1, false, [], 0, [], [], false⟩

/-- A WRITE of link A in ACCESS whose masks select no byte. -/
def emptyWrite : Txn := { queuedWrite (some [0]) with state := .access }

theorem test_hyp_ActivatesRun_complete :
    (let s := serving inAccess .activating readService;
      (bankAt s 0).map (fun b => b.state) = some .activating ∧ warmReset s = false ∧
      readService.toRead ≠ []) ∧
    (let s := serving emptyWrite .activating spentService;
      slotAt s 0 = some emptyWrite ∧ (bankAt s 0).map (fun b => b.row) = some (slotRow s 0) ∧
      spentService.toRead = [] ∧ spentService.due = 0 ∧ spentService.toWrite = []) ∧
    (let s := warm (serving inAccess .activating { readService with toRead := [] });
      warmReset s = true ∧ (servedAt s).map (fun v => v.wrote) = some false) := by decide +kernel

/-- A WRITE of link A in ACCESS. -/
def writing : Txn := onPath .write .a 1 0 0 .access

theorem test_hyp_ColumnCommandsAreSent :
    (slotAt reads 0 = some inAccess ∧ inAccess.loc = some ⟨0, 0, 0, 0⟩ ∧
      (bankAt reads 0).map (fun b => (b.state, b.row)) = some (.openRow, some 0) ∧
      servedAt reads = some readService ∧ readService.toRead = 0 :: [] ∧
      warmReset reads = false ∧ earlierCommandReady reads readService.issued = false) ∧
    (∀ p ∈ [(serving writing .openRow (writeService [(1, 0)] false), [(1, (0 : Block))], false),
        (serving writing .openRow (writeService [] false), [], false),
        (warm (serving writing .openRow (writeService [] true)), [], true)],
      slotAt p.1 0 = some writing ∧ writing.loc = some ⟨0, 0, 0, 0⟩ ∧
      servedAt p.1 = some (writeService p.2.1 p.2.2) ∧ p.1.chan.readsDue = [] ∧
      warmReset p.1 = p.2.2 ∧ earlierCommandReady p.1 1 = false) := by decide +kernel

/-- The hub with data due for the service of slot 0. -/
def dataDue (t : Txn) (v : Service) : State :=
  { serving t .openRow v with chan := { run.chan with readsDue := [⟨0, 0⟩] } }

/-- A service that waits for its last block. -/
def lastDue : Service := ⟨0, 1, false, [], 1, [], [], false⟩

/-- A WRITE of link A in MERGE. -/
def merging : Txn := { queuedWrite (some [1]) with state := .merge }

/-- The statuses a block is read with under these bits in error. -/
def statusUnder (s : State) (es : List ErrMask) : BlockStatus :=
  blockStatusOf (blockClasses (damage s.dram 0 es) 0)

theorem test_hyp_ReadDataArrive :
    (∀ p ∈ [(inAccess, lastDue), (merging, lastDue), (inAccess, { lastDue with due := 2 }),
        (inAccess, { lastDue with toRead := [1] })],
      let s := dataDue p.1 p.2
      s.chan.readsDue = ⟨0, 0⟩ :: [] ∧ servedAt s = some p.2 ∧ slotAt s 0 = some p.1 ∧
      p.1.loc = some ⟨0, 0, 0, 0⟩ ∧ warmReset s = false) ∧
    (servedAt (warm (dataDue inAccess lastDue)) = some lastDue ∧
      warmReset (warm (dataDue inAccess lastDue)) = true) ∧
    lastDue.due - 1 = 0 ∧ isRead inAccess = true ∧ isRead merging = false ∧
    statusUnder run [3, 0, 0, 0] = .poison ∧ statusUnder run [1, 0, 0, 0] = .corrected ∧
    statusUnder run [0, 0, 0, 0] = .ok := by decide +kernel

theorem test_hyp_ReadDataArrive_blocks :
    (Errors.wf run.dram.errors = true ∧ ([3, 1, 0, 0] : List ErrMask).length = 4) ∧
    .uncorrectable ∈ blockClasses (damage run.dram 0 [3, 1, 0, 0]) 0 ∧
    .uncorrectable ∉ blockClasses (damage run.dram 0 [1, 0, 0, 0]) 0 ∧
    errorOf (damage (damage run.dram 0 [1, 0, 0, 0]) 0 [1, 0, 0, 0]) 0 = 1 := by decide +kernel

/-- Sixteen alerts and one fewer. -/
def alertsOf (n : Nat) : State := { run with mgmt := { run.mgmt with
  alerts := List.replicate n ⟨.protocol, some .a, none, some .unknownPacket, none, 0, 0, 0⟩ } }

theorem test_hyp_CheckCodesAndAlerts :
    popCount (0 : ErrMask) = 0 ∧ popCount (0x800000000000000000#72 : ErrMask) = 1 ∧
    popCount (0x800000000000000001#72 : ErrMask) = 2 ∧
    (14 + 1 < run.settings.profile.corrThreshold) ∧
    (run.settings.profile.corrThreshold ≤ 15 + 1) ∧ (alertsOf 15).mgmt.alerts.length < 16 ∧
    16 ≤ (alertsOf 16).mgmt.alerts.length := by decide +kernel

theorem test_hyp_MergedAndStoredBlocks :
    blockUse (queuedWrite none) 0 = .full ∧ blockUse (queuedWrite (some [1])) 0 = .partialBlock ∧
    Errors.wf [(0, (1 : ErrMask)), (8, 3)] = true := by decide +kernel

/-- A LOCK-READ of link A in ACCESS and its PENDING entry. -/
def lockReading : State := { serving (onPath .lockRead .a 1 0 0 .access) .openRow lastDue with
  locks := [⟨.a, 0, .pending, some 0, .stopped⟩] }

/-- A LOCK-WRITE of link A in ACCESS and its WRITING entry. -/
def lockWriting : State :=
  { serving (onPath .lockWrite .a 1 0 0 .access) .openRow (writeService [] true) with
    locks := [⟨.a, 0, .writing, some 0, .stopped⟩] }

theorem test_hyp_ReadsComplete :
    (slotAt reads 0 = some inAccess ∧ ownsNone reads 0 .pending) ∧
    (slotAt lockReading 0 = some (onPath .lockRead .a 1 0 0 .access) ∧
      ownsEntry lockReading 0 .pending ⟨.a, 0, .pending, some 0, .stopped⟩) ∧
    (∃ g ∈ [(0, BlockStatus.poison, (0 : Block))], g.2.1 = .poison) ∧
    ¬ ∃ g ∈ [(0, BlockStatus.corrected, (0 : Block))], g.2.1 = .poison := by
  refine ⟨⟨by decide +kernel, ?_⟩, ⟨by decide +kernel, ?_⟩, by decide, by decide⟩ <;>
    (first | unfold ownsNone | unfold ownsEntry) <;> decide +kernel

/-- A write of link A that claims a RESERVED entry of link B's Notice Queue. -/
def claiming : State := { serving writing .openRow (writeService [] true) with
  notices := ⟨emptyTarget, ⟨[⟨0, .reserved, .stopped, [0], []⟩], [], 0⟩⟩ }

theorem test_hyp_WritesArePerformed :
    (slotAt claiming 0 = some writing ∧
      ∃ e ∈ (targetOf (performNotices (unserved claiming 0) 0 writing) .b).queue, 0 ∈ e.waiters) ∧
    (∀ e ∈ (targetOf (performNotices (unserved lockWriting 0) 0
      (onPath .lockWrite .a 1 0 0 .access)) .b).queue, 0 ∉ e.waiters) ∧
    ownsNone claiming 0 .writing ∧
    ownsEntry lockWriting 0 .writing ⟨.a, 0, .writing, some 0, .stopped⟩ := by
  refine ⟨by decide +kernel, by decide +kernel, ?_, ?_⟩
  · unfold ownsNone; decide +kernel
  · unfold ownsEntry; decide +kernel

/-- A bank with row 0 OPEN and a close pending. -/
def closingBank : Bank := { openBank with closePending := true }

theorem test_hyp_PrechargesRun_sent :
    (let s := queuedAt (queuedRead 0) closingBank;
      bankAt s 0 = some closingBank ∧ closingBank.serving = none ∧ anyCommandReady s = false ∧
      lowerCloseDue s 0 = false) ∧
    (let s := serving { otherRow with state := .access } .openRow readService;
      (bankAt s 0).map (fun b => (b.state, b.row)) = some (.openRow, some 0) ∧
      servedAt s = some readService ∧ slotRow s 0 = some 1 ∧ warmReset s = false ∧
      earlierCommandReady s 1 = false) := by decide +kernel

/-- The hub whose banks 0 and 1 wait for a close, with a bank 2 as given. -/
def closingTwo (b : Bank) : State := { holding [inAccess] with
  sched := ⟨closingBank :: closingBank :: b :: List.replicate 5 freshBank, [0, 1], [], 15, 0, 0⟩ }

theorem test_hyp_PrechargesRun_notSent :
    (bankAt (closingTwo freshBank) 1 = some closingBank ∧
      ∃ q < 1, bankAt (closingTwo freshBank) q = some closingBank) ∧
    anyCommandReady (closingTwo freshBank) = false ∧
    anyCommandReady (closingTwo { freshBank with serving := some readService }) = true := by
  refine ⟨⟨by decide +kernel, 0, by decide, ?_⟩, ?_⟩ <;> decide +kernel

theorem test_hyp_PrechargesRun_afterAccess :
    (bankAt run 0 = some freshBank ∧ freshBank.serving = none ∧ freshBank.state ≠ .openRow) ∧
    (∀ b ∈ [{ openBank with closeAfter := true }, openBank, { openBank with behaviour := .close }],
      bankAt (queuedAt (queuedRead 0) b) 0 = some b ∧ b.serving = none ∧ b.state = .openRow) ∧
    (let b := { openBank with behaviour := .close };
      behaviourOf (queuedAt (queuedRead 0) b) b = .close ∧
      choice (queuedAt (queuedRead 0) b) 0 = some (0, queuedRead 0) ∧
      rowOf (queuedRead 0) = b.row ∧ choice (queuedAt otherRow b) 0 = some (0, otherRow) ∧
      rowOf otherRow ≠ b.row) := by decide +kernel

theorem test_hyp_PrechargesRun_complete :
    (let s := serving inAccess .precharging readService;
      (bankAt s 0).map (fun b => b.state) = some .precharging ∧ servedAt s = some readService ∧
      warmReset s = false ∧ warmReset (warm s) = true ∧ readService.wrote = false) ∧
    (let s := { run with chan := { coldChannel with state := .starting, startPhase := .precharging } };
      s.chan.startPhase = .precharging ∧ warmReset s = false) ∧
    (bankAt (queuedAt (queuedRead 0) { openBank with idleTimer := .running 0 }) 0 =
      some { openBank with idleTimer := .running 0 }) := by decide +kernel

/-! ## Refresh -/

/-- The hub in the refresh rounds of a start. -/
def startRounds (done : Nat) (sent : List Nat) : State := { run with
  chan := { run.chan with state := .starting, startPhase := .refreshing done sent } }

/-- The hub with every bank REFRESHING in the last round of an episode. -/
def refreshing (k : EpisodeKind) (debt : Nat) : State := { run with
  sched := ⟨List.replicate 8 { freshBank with state := .refreshing }, [], [], 15, 0, 0⟩
  refresh := ⟨debt, .running 5, false, .holds k .refreshing, [0], some 0⟩ }

theorem test_hyp_RefreshRounds_sent :
    (∀ sent ∈ [([] : List Nat)], (startRounds 0 sent).chan.startPhase = .refreshing 0 sent ∧
      warmReset (startRounds 0 sent) = false ∧ 0 = sent.length ∧
      0 < (startRounds 0 sent).settings.geometry.ranks) ∧
    (let s := inEpisode run .forced .refreshing;
      startRefreshNext s 0 = false ∧ s.refresh.episode = .holds .forced .refreshing ∧
      warmReset s = false ∧ 0 = s.refresh.sent.length ∧ rankClosed s 0 = true ∧
      anyCommandReady s = false ∧ anyCloseDue s = false) := by decide +kernel

theorem test_hyp_RefreshRounds_complete :
    (∀ k ∈ [EpisodeKind.forced, .opportunistic], ∀ debt ∈ [1, 2],
      let s := refreshing k debt
      bankAt s 7 = some { freshBank with state := .refreshing } ∧ rankOf s 7 = 0 ∧
      s.refresh.episode = .holds k .refreshing ∧
      (∀ r < s.settings.geometry.ranks, r ∈ s.refresh.sent) ∧ anyEligible s = false) ∧
    ((1 : Nat) - 1 = 0 ∧ (2 : Nat) - 1 ≠ 0) ∧
    (let s := { refreshing .opportunistic 2 with table := tableOf [queuedRead 0] };
      anyEligible s = true) ∧
    (startRounds 0 [0]).refresh.episode = .none := by decide +kernel

/-- The hub with the refresh timer running in a refresh mode. -/
def timing (mode : RefreshMode) (seen : Bool) : State := { run with
  settings := { run.settings with refresh := { run.settings.refresh with mode := mode } }
  refresh := ⟨7, .running 0, seen, .none, [], none⟩ }

theorem test_hyp_DebtAndEpisodes_added :
    ((timing .internal false).refresh.timer = .running 0 ∧
      (timing .internal false).settings.refresh.mode = .internal) ∧
    ((timing .linked true).refresh.timer = .running 0 ∧ (timing .linked true).refresh.cueSeen = true ∧
      (timing .linked false).refresh.cueSeen = false ∧
      (timing .linked false).settings.refresh.mode = .linked) ∧
    accepts (timing .internal false) .a 0 ∧ accepts (timing .linked false) .a 0 ∧
    accepts (timing .linked false) .b 0 ∧ (timing .linked false).settings.refresh.cueLink = .a ∧
    (∀ c ∈ [ChannelState.init, .starting, .run, .quiescing, .quiesced, .resuming],
      (channelIn (timing .linked false) c).chan.state = c) ∧
    accepts (channelIn (timing .linked false) .quiesced) .a 0 :=
  ⟨by decide +kernel, by decide +kernel, ⟨rfl, rfl⟩, ⟨rfl, rfl⟩, ⟨rfl, rfl⟩, rfl, by decide +kernel,
    rfl, rfl⟩

/-- The hub with this debt. -/
def owing (n : Nat) : State := { run with refresh := { idleRefresh with debt := n } }

theorem test_hyp_DebtAndEpisodes_begin :
    ((owing 7).refresh.debt + (owing 7).settings.refresh.group ≤ 8) ∧
    (8 < (owing 8).refresh.debt + (owing 8).settings.refresh.group) ∧
    (run.chan.state = .run ∧ (owing 5).refresh.debt < (owing 5).settings.refresh.forceLevel ∧
      (owing 6).settings.refresh.forceLevel ≤ (owing 6).refresh.debt ∧
      (owing 6).refresh.episode = .none) ∧
    (inEpisode run .opportunistic .refreshing).settings.refresh.forceLevel ≤
      (inEpisode run .opportunistic .refreshing).refresh.debt ∧
    (inEpisode run .opportunistic .refreshing).refresh.episode = .holds .opportunistic .refreshing ∧
    (inEpisode run .forced .closing).refresh.episode = .holds .forced .closing ∧
    (channelIn run .init).chan.state ≠ .run := by decide +kernel

/-- The hub at the end of a quiesce of link A, with a lock held. -/
def quiet : State := { channelIn run .quiescing with
  locks := [heldEntry .b 0]
  mgmt := { run.mgmt with
    longOp := some (.quiesce, .a), replies := ⟨[⟨.channelQuiesce, none, .none, 0⟩], []⟩ } }

theorem test_hyp_SelfRefreshEntry :
    selfRefreshReady quiet = true ∧ quiet.mgmt.longOp = some (.quiesce, .a) ∧
    quiet.mgmt.replies.get .a = [] ++ ⟨.channelQuiesce, none, .none, 0⟩ :: [] ∧
    (settle quiet).chan.state = .quiesced := by decide +kernel

theorem test_hyp_SelfRefreshEntry_warm :
    (selfRefreshReady run = false ∧ run.chan.warm = none) ∧
    ((warm run).chan.warm = some [] ∧ (warm run).chan.state = .run ∧
      ∀ r ∈ List.range (warm run).settings.geometry.ranks, rankClosed (warm run) r = true) ∧
    ((warm reads).chan.warm = some [] ∧ (warm reads).chan.state = .run ∧
      rankClosed (warm reads) 0 = false) ∧
    (let s := channelIn (warm run) .resuming;
      s.chan.warm = some [] ∧ s.chan.state ≠ .run ∧ s.chan.state ≠ .quiescing) ∧
    (let s := settle (warm run);
      s.chan.warm = some [0] ∧ s.chan.state = .run ∧ s.chan.sleeping = [0] ∧
      ∀ r ∈ List.range s.settings.geometry.ranks, rankClosed s r = true) := by decide +kernel

/-- A hub in a warm reset whose refresh timer runs, with a cue seen. -/
def warmTimed : State := { warm run with refresh := ⟨0, .running 9, true, .none, [], none⟩ }

/-- The entry to self-refresh of a warm reset stops the refresh timer, before the reset point (07 R120). -/
theorem test_step_warmEntry_stopsRefresh :
    (settle warmTimed).refresh = ⟨0, .stopped, false, .none, [], none⟩ ∧
    (settle warmTimed).chan.state = .run ∧
    (after (exec .refreshTimerExpiry (settle warmTimed))).refresh = (settle warmTimed).refresh := by
  decide +kernel

/-! ## Notices, locks and timers -/

/-- A SENT entry of link B's Notice Queue, waited for and claimed by these slots. -/
def sentEntry (claimants waiters : List Nat) : NoticeEntry :=
  ⟨64, .sent 5 0x40#40, .running 0, claimants, waiters⟩

/-- A write of link A in NOTIFY, stale or not, orphan or not. -/
def notifying (stale orphan : Bool) : Txn :=
  { onPath .write .a 1 64 0 .notify with stale := stale, orphan := orphan }

/-- The hub with two notices for link B outstanding, the second awaited by slot 0. -/
def noticed (t : Txn) (claimants : List Nat) : State := { holding [t] with
  notices := ⟨emptyTarget, ⟨[⟨0, .reserved, .stopped, [1], []⟩, sentEntry claimants [0]], [64], 6⟩⟩ }

/-- A queue with one RESERVED entry of line 0 beside a SENT one satisfies the law of Notice Queues. -/
theorem noticeLaw_noticed (t : Txn) (claimants : List Nat) : noticeLaw (noticed t claimants) := by
  intro y
  cases y
  · exact ⟨Nat.zero_le _, List.Pairwise.nil, fun e he => nomatch he⟩
  · exact ⟨by simp [noticed, targetOf, PerLink.get, noticeRoom],
      by simp [noticed, targetOf, PerLink.get, sentEntry], by
      simp [noticed, targetOf, PerLink.get, sentEntry]⟩

theorem test_hyp_NoticesAreSentAndSettled :
    (∀ c ∈ [([] : List Nat), [3]], ∀ stale ∈ [true, false], ∀ orphan ∈ [true, false],
      let s := noticed (notifying stale orphan) c
      (targetOf s .b).queue = [⟨0, .reserved, .stopped, [1], []⟩] ++ sentEntry c [0] :: [] ∧
      (sentEntry c [0]).state = .sent 5 0x40#40 ∧ (sentEntry c [0]).timer = .running 0 ∧
      slotAt s 0 = some (notifying stale orphan) ∧
      ¬ ∃ d ∈ ([⟨0, .reserved, .stopped, [1], []⟩] : List NoticeEntry) ++ [], 0 ∈ d.waiters) ∧
    (noticeLaw (noticed (notifying false false) []) ∧ accepts (noticed (notifying false false) []) .b 0) ∧
    (accepts run .a 0 ∧ ∀ e ∈ (targetOf run .a).queue, ∀ a, e.state ≠ .sent 0 a) :=
  ⟨by decide +kernel, ⟨noticeLaw_noticed _ _, rfl, rfl⟩, ⟨rfl, rfl⟩, fun e he => nomatch he⟩

/-- The hub with a second notice that slot 0 waits for. -/
def noticedTwice : State := { holding [notifying false false] with
  notices := ⟨emptyTarget,
    ⟨[⟨0, .sent 4 0, .running 9, [], [0]⟩, sentEntry [] [0]], [64], 6⟩⟩ }

theorem test_hyp_NoticesAreSentAndSettled_others :
    noticeLaw noticedTwice ∧
    (∃ d ∈ ([⟨0, .sent 4 0, .running 9, [], [0]⟩] : List NoticeEntry) ++ [], 0 ∈ d.waiters) :=
  ⟨fun y => by
    cases y
    · exact ⟨by decide +kernel, List.Pairwise.nil, fun e he => nomatch he⟩
    · refine ⟨by decide +kernel, ?_, ?_⟩
      · simp only [noticedTwice, targetOf, PerLink.get, sentEntry, List.pairwise_cons, List.mem_singleton,
          forall_eq, List.not_mem_nil, false_implies, implies_true, List.Pairwise.nil, and_true]
        refine ⟨by decide, ?_⟩
        intro k a b h h'
        cases h
        exact absurd (NoticeState.sent.inj h').1 (by decide)
      · simp [noticedTwice, targetOf, PerLink.get, sentEntry],
   by decide⟩

/-- A WRITE of link A to a line that link B caches: its notified set has the line, with no entry yet. -/
def cached : State := { run with settings := { run.settings with
  notices := { run.settings.notices with caching := ⟨false, true⟩ } } }

theorem test_hyp_NoticesAreSentAndSettled_lines :
    notifiedSet cached writing = [0] ∧ newLines cached writing = [0] ∧
    cached.settings.notices.filter = true ∧
    reverseLookup cached.xlate.active .b 0 = some 0 := by decide +kernel

theorem test_hyp_NoticesAreSentAndSettled_performed :
    (targetOf claiming .b).queue = [] ++ ⟨0, .reserved, .stopped, [0], []⟩ :: [] ∧
    reverseLookup claiming.xlate.active .b 0 = some 0 ∧
    (targetOf (noticed (notifying false false) [0]) .b).queue =
      [⟨0, .reserved, .stopped, [1], []⟩] ++ sentEntry [0] [0] :: [] ∧
    ([0, 64, 128, 192, 256, 320, 384].filter fun l => l ≠ 448).length < 8 ∧
    8 ≤ ([0, 64, 128, 192, 256, 320, 384, 448].filter fun l => l ≠ 512).length ∧
    slotAt claiming 0 = some writing ∧ 0 ∈ [0] ∧ 0 ∉ [1] := by decide +kernel

theorem test_hyp_NoticesAreSentAndSettled_law : noticeLaw claiming := by
  intro y
  cases y
  · exact ⟨by decide +kernel, List.Pairwise.nil, fun e he => nomatch he⟩
  · exact ⟨by decide +kernel, List.pairwise_singleton _ _, by
      simp [claiming, targetOf, PerLink.get]⟩

/-- Two READs of link A that wait on link B's entry, and that entry behind another. -/
def lockWaiting : State := { holding [{ onPath .read .a 1 0 0 .queued with lockWait := some 0 },
    { onPath .lockRead .a 2 0 0 .queued with lockWait := some 0 }] with
  locks := [heldEntry .b 32, heldEntry .b 0] }

theorem test_hyp_LockEntriesAreRemoved :
    (lockWaiting.locks = [heldEntry .b 32] ++ heldEntry .b 0 :: [] ∧ lockLaw lockWaiting ∧
      (heldEntry .b 0).state = .held ∧ (heldEntry .b 0).timer = .running 256 ∧
      (waitList lockWaiting 0).length = 2) :=
  ⟨rfl, ⟨by decide +kernel, fun x => by cases x <;> decide +kernel⟩, rfl, rfl, by decide +kernel⟩

theorem test_hyp_LockEntriesAreRemoved_waiters :
    (let t := { onPath .read .a 1 0 0 .queued with lockWait := some 0 };
      slotAt lockWaiting 0 = some t ∧ t.kind ≠ .lockRead ∧ blockingEntry lockWaiting t = some 0 ∧
      blockingEntry { lockWaiting with locks := [] } t = none) ∧
    (let t := { onPath .lockRead .a 2 0 0 .queued with lockWait := some 0, arrival := 1 };
      slotAt lockWaiting 1 = some t ∧ t.kind = .lockRead ∧ t.phys = some 0 ∧ t.count = some 1 ∧
      lockOn lockWaiting 0 = some (heldEntry .b 0) ∧
      lockOn { lockWaiting with locks := [heldEntry .a 32, heldEntry .a 64] } 0 = none ∧
      locksOf { lockWaiting with locks := [heldEntry .a 32, heldEntry .a 64] } .a =
        heldEntry .a 32 :: heldEntry .a 64 :: [] ∧
      lockOn { lockWaiting with locks := [heldEntry .a 32] } 0 = none ∧
      (locksOf { lockWaiting with locks := [heldEntry .a 32] } .a).length < 2) := by decide +kernel

theorem test_hyp_TenureCommitAndLeaseTimers :
    (let s := tenured run ⟨some .a, some .guaranteed, .running 0, .running 0, .no, true⟩;
      s.tenure.holder = some .a ∧ s.tenure.quantum = .running 0 ∧ s.tenure.idle = .running 0 ∧
      hasWaitingWork s .b = false) ∧
    (let s := tenured twoQueued ⟨some .a, some .opened, .stopped, .running 0, .no, true⟩;
      s.tenure.idle = .running 0 ∧ hasWaitingWork s .b = true ∧ s.tenure.due = .no) ∧
    ((draining reads).xlate.commitTimer = .running 1024 ∧ (draining reads).xlate.commit = .draining ∧
      (draining reads).mgmt.longOp = some (.commit, .a) ∧
      (draining reads).mgmt.replies.get .a =
        [⟨.tableCommit, some .busy, .none, 0⟩] ++ ⟨.tableCommit, none, .none, 0⟩ :: []) ∧
    (let s := { run with mgmt := { run.mgmt with lease := .running 0 } };
      s.mgmt.lease = .running 0 ∧ s.mgmt.claim = some .a) := by decide +kernel

theorem test_hyp_TenureIsJudged :
    (holderIdle (tenured run (heldByA .no)) .a = true ∧
      (tenured run (heldByA .no)).tenure.idleNow = false) ∧
    (let s := tenured reads { heldByA .no with idleNow := true };
      holderIdle s .a = false ∧ s.tenure.idleNow = true) ∧
    holderIdle (tenured reads (heldByA .no)) .a = (tenured reads (heldByA .no)).tenure.idleNow ∧
    (tenured run noTenure).tenure.holder = none ∧
    ((tenured twoQueued (heldByA (.toLink .b))).tenure.due = .toLink .b ∧
      hasWaitingWork (tenured twoQueued (heldByA (.toLink .b))) .b = true) ∧
    ((tenured run (heldByA (.toLink .b))).tenure.due = .toLink .b ∧
      hasWaitingWork (tenured run (heldByA (.toLink .b))) .b = false) ∧
    (let s := tenured (holding [onPath .read .a 1 256 0 .queued]) (heldByA (.toLink .b));
      hasWaitingWork s .b = false ∧ holderIdle s .a = true ∧
      holderIdle { s with tenure := { s.tenure with due := .no } } .a = false) ∧
    (let s := tenured twoQueued (heldByA .no);
      s.tenure.due = .no ∧ hasWaitingWork s .b = true ∧ s.tenure.phase = some .opened) ∧
    (let s := tenured twoQueued ⟨some .a, some .guaranteed, .running 5, .lapsed, .no, true⟩;
      hasWaitingWork s .b = true ∧ s.tenure.phase ≠ some .opened ∧ s.tenure.idle = .lapsed) ∧
    (let s := tenured twoQueued ⟨some .a, some .guaranteed, .running 5, .running 5, .no, true⟩;
      s.tenure.phase ≠ some .opened ∧ s.tenure.idle ≠ .lapsed) := by decide +kernel

/-! ## Management -/

/-- The hub with this many decided replies of link A waiting. -/
def replying (n : Nat) : State := { run with mgmt := { run.mgmt with
  replies := ⟨List.replicate n ⟨.claim, some .ok, .none, 0⟩, []⟩ } }

theorem test_hyp_ManagementPacketsNotTaken :
    mgmtOf (.claim .a 0) = some (.a, 0, .claim) ∧ accepts (replying 2) .a 0 ∧
    (warmReset (replying 2) = false ∧ 2 ≤ ((replying 2).mgmt.replies.get .a).length) ∧
    accepts (warm run) .a 0 ∧ warmReset (warm run) = true ∧
    ((warm run).mgmt.replies.get .a).length + (warm run).mgmt.discarded.get .a < 2 ∧
    (let s := warm run;
      2 ≤ (s.mgmt.replies.get .a).length +
        ({ s with mgmt := { s.mgmt with discarded := ⟨1, 0⟩ } }).mgmt.discarded.get .a) :=
  ⟨rfl, ⟨rfl, rfl⟩, by decide +kernel, ⟨rfl, rfl⟩, by decide +kernel⟩

/-- A management packet with sequence byte 0 is taken on an UP link whose list is not full. -/
theorem takes {s : State} {x : Link} (h : inService s x = true ∧ expectedSeq s x 0 = true ∧
    warmReset s = false ∧ (s.mgmt.replies.get x).length < 2) : mgmtTakes s x 0 :=
  ⟨⟨h.1, h.2.1⟩, h.2.2⟩

theorem test_hyp_ReadsAnswerTheirValue :
    mgmtTakes (replying 1) .a 0 ∧ mgmtTakes run .b 0 ∧ fieldOf 0x0C 0 = none ∧
    fieldOf 0x07 1 = none ∧ fieldOf 0x07 0 = some .lockLimit ∧
    (1 < (2 : Byte).toNat ∧ 16 ≤ (16 : Byte).toNat ∧ 32 ≤ (32 : Byte).toNat) ∧
    openTables.windows[(15 : Byte).toNat]? = some coldWindow ∧
    openTables.regions[(31 : Byte).toNat]? = some coldRegion :=
  ⟨takes (by decide +kernel), takes (by decide +kernel), by decide +kernel⟩

/-- The same hub with the claim FREE or at a link. -/
def claimed (s : State) (c : Option Link) : State := { s with mgmt := { s.mgmt with claim := c } }

theorem test_hyp_WritesAreChecked :
    (mgmtOf (.mgmtWrite .a 0 0x07 0 64) = some (.a, 0, .mgmtWrite) ∧
      writeNames (.mgmtWrite .a 0 0x07 0 64) = some (some .lockLimit, 64) ∧
      writeNames (.mgmtWrite .a 0 0x07 1 64) = some (none, 64) ∧
      writeNames (.mgmtWrite .a 0 0x0B 0 0) = some (some (.status .channelState), 0) ∧
      writeNames (.writeOpenLimit .a 0 9) = some (some .openLimit, 9)) ∧
    (mgmtTakes run .a 0 ∧ run.mgmt.claim = some .a) ∧
    (mgmtTakes (claimed run none) .a 0 ∧ (claimed run none).mgmt.claim ≠ some .a) ∧
    (stoppedOnly .banks = true ∧ stoppedOnly .lockLimit = false ∧ run.chan.state ≠ .init ∧
      run.chan.state ≠ .quiesced) ∧
    valueOk (accepted run .a) .lockLimit 256 = false ∧
    valueOk (accepted run .a) .lockLimit 255 = true :=
  ⟨by decide +kernel, ⟨takes (by decide +kernel), rfl⟩,
    ⟨takes (by decide +kernel), by decide +kernel⟩, by decide +kernel⟩

theorem test_hyp_WritesOfSettings :
    valueOk run .openLimit 8 = true ∧ readOnly .openLimit = false ∧ (Field.rowIdle ≠ .openLimit) ∧
    readField run .tenureMode = 0 ∧ readField run .refreshMode = 0 ∧
    (timing .internal false).refresh.timer = .running 0 := by decide +kernel

theorem test_hyp_TableWritesAndReverts :
    (mgmtTakes run .a 0 ∧ run.mgmt.claim = some .a ∧ run.xlate.commit ≠ .draining) ∧
    (mgmtTakes (draining reads) .b 0 ∧ (draining reads).mgmt.claim ≠ some .b) ∧
    (let s := { draining reads with mgmt := { run.mgmt with longOp := some (.commit, .a) } };
      mgmtTakes s .a 0 ∧ s.mgmt.claim = some .a ∧ s.xlate.commit = .draining) ∧
    (tableIndex 0 16 = none ∧ tableIndex 1 31 ≠ none ∧ windowOfEntry 0 = none ∧
      (windowOfEntry (entryOfWindow ⟨true, .both, 14, 0, 0⟩)).isSome = true ∧
      regionOfEntry (entryOfRegion firstRegion) = some firstRegion ∧
      rightsOfEntry (BitVec.ofNat 96 (3 * 2 ^ 48)) = none ∧
      (rightsOfEntry (entryOfDefault openRights)).isSome = true) :=
  ⟨⟨takes (by decide +kernel), rfl, by decide +kernel⟩,
    ⟨takes (by decide +kernel), by decide +kernel⟩,
    ⟨takes (by decide +kernel), rfl, rfl⟩, by decide +kernel⟩

theorem test_hyp_TableWritesAndReverts_entries :
    (let w : Window := ⟨true, .both, 14, 0x4000000000#40, 0⟩;
      w.valid = true ∧ w.sizeCode ≤ 14 ∧ w.linkBase.toNat % (65536 * 2 ^ w.sizeCode) = 0 ∧
      w.physBase.toNat % (65536 * 2 ^ w.sizeCode) = 0 ∧ w.physBase.toNat < 2 ^ 30) ∧
    (let r : Region := ⟨true, 16383, 16383, openRights⟩;
      r.valid = true ∧ r.base.toNat ≤ r.limit.toNat ∧ r.limit.toNat ≤ 16383) ∧
    (windowOfEntry (entryOfWindow coldWindow) = some coldWindow ∧ coldWindow.valid = false) ∧
    regionOfEntry (entryOfRegion coldRegion) = some coldRegion := by decide +kernel

theorem test_hyp_TableCommitOutcomes :
    (mgmtTakes (claimed run none) .a 0 ∧ (claimed run none).mgmt.claim ≠ some .a) ∧
    (∀ c ∈ [ChannelState.init, .starting, .run, .quiescing, .quiesced, .resuming],
      inService (channelIn run c) .a = true ∧ (channelIn run c).chan.state = c) ∧
    (mgmtTakes run .a 0 ∧ run.mgmt.claim = some .a ∧ run.xlate.commit = .steady ∧
      anyOnPath run = false) ∧
    (mgmtTakes reads .a 0 ∧ reads.xlate.commit = .steady ∧ reads.chan.state = .run ∧
      anyOnPath reads = true ∧ reads.mgmt.longOp = none) ∧
    (let s := { reads with mgmt := { run.mgmt with longOp := some (.quiesce, .b) } };
      mgmtTakes s .a 0 ∧ s.mgmt.longOp ≠ none) :=
  ⟨⟨takes (by decide +kernel), by decide +kernel⟩, by decide +kernel,
    ⟨takes (by decide +kernel), by decide +kernel⟩, ⟨takes (by decide +kernel), by decide +kernel⟩,
    takes (by decide +kernel), by decide +kernel⟩

theorem test_hyp_ClaimAndRelease :
    (mgmtTakes run .b 0 ∧ run.mgmt.claim = some (otherLink .b)) ∧ mgmtTakes (claimed run none) .a 0 ∧
    (mgmtTakes run .a 0 ∧ run.mgmt.claim = some .a) :=
  ⟨⟨takes (by decide +kernel), rfl⟩, takes (by decide +kernel), takes (by decide +kernel), rfl⟩

/-! ## The channel's long operations -/

/-- The same hub under a profile that cannot run. -/
def shortOpen (s : State) : State := { s with settings := { s.settings with
  profile := { s.settings.profile with minOpen := 8 } } }

/-- The hub asleep, with these ranks. -/
def asleep (ranks : List Nat) : State := { channelIn run .quiesced with
  chan := { run.chan with state := .quiesced, sleeping := ranks } }

theorem test_hyp_LongOperations :
    (∀ c ∈ [ChannelState.init, .run, .quiesced],
      (channelIn run c).chan.state = c ∧ (channelIn run c).mgmt.claim = some .a ∧
      (channelIn run c).mgmt.longOp = none ∧ inService (channelIn run c) .a = true ∧
      expectedSeq (channelIn run c) .a 0 = true ∧ warmReset (channelIn run c) = false) ∧
    (mgmtTakes quiet .a 0 ∧ quiet.mgmt.longOp ≠ none) ∧
    (let p := run.settings.profile; p.actTime + p.readLatency ≤ p.minOpen) ∧
    (let p := (shortOpen run).settings.profile; p.minOpen < p.actTime + p.readLatency) ∧
    ((∀ r ∈ List.range (asleep [0]).settings.geometry.ranks, r ∈ (asleep [0]).chan.sleeping) ∧
      ∃ r ∈ List.range (asleep []).settings.geometry.ranks, r ∉ (asleep []).chan.sleeping) ∧
    (quiet.mgmt.longOp = some (.quiesce, .a) ∧
      quiet.mgmt.replies.get .a = [] ++ ⟨.channelQuiesce, none, .none, 0⟩ :: []) ∧
    (∀ d ∈ ([] : List MgmtEntry), ¬ (d.kind = kindOfLong .quiesce ∧ d.status = none)) :=
  ⟨by decide +kernel, ⟨takes (by decide +kernel), by decide +kernel⟩, by decide +kernel⟩

theorem test_hyp_SequencesRun :
    warmReset run = false ∧
    ({ coldChannel with startTimer := .running 0 }).startTimer = .running 0 ∧
    ((startRounds 6 [0]).chan.startPhase = .refreshing 6 [0] ∧
      [0].length = (startRounds 6 [0]).settings.geometry.ranks ∧
      6 + 1 < (startRounds 6 [0]).settings.profile.startRefreshes ∧
      (startRounds 7 [0]).settings.profile.startRefreshes ≤ 7 + 1 ∧
      warmReset (startRounds 7 [0]) = false) ∧
    ({ coldChannel with startPhase := .settling }).startPhase = .settling ∧
    ({ coldChannel with resumeTimer := .running 0 }).resumeTimer = .running 0 ∧
    ({ coldChannel with resumePhase := .settling }).resumePhase = .settling := by decide +kernel

theorem test_hyp_HubResetIsTaken :
    (mgmtTakes (draining reads) .b 0 ∧ (draining reads).mgmt.claim ≠ some .b) ∧
    (let s := claimed (draining reads) (some .b);
      mgmtTakes s .b 0 ∧ s.mgmt.claim = some .b ∧ s.xlate.commit = .draining) :=
  ⟨⟨takes (by decide +kernel), by decide +kernel⟩, takes (by decide +kernel), rfl, rfl⟩

theorem test_hyp_ResetPointIsTaken :
    (warmWorkDone warmInit = true ∧ warmInit.chan.state = .init ∧ inService warmInit .a = true ∧
      warmInit.mgmt.longOp = some (.hubReset, .a) ∧
      ∃ e ∈ warmInit.mgmt.replies.get .a, e.kind = .hubReset ∧ e.status = none) ∧
    (∀ c ∈ [ChannelState.run, .quiescing, .quiesced, .resuming],
      warmWorkDone { warmInit with chan := { coldChannel with state := c, warm := some [0] } } = true) := by
  decide +kernel

/-! ## The packet link -/

/-- The hub whose link A is as given. -/
def linkedBy (l : LinkCtl) : State := { run with links := ⟨l, upLink⟩ }

/-- A link in RETRY. -/
def retrying (n : Nat) : LinkCtl :=
  { upLink with state := .retry, retryCount := n, retryTimer := .running 0 }

theorem test_hyp_SequencedPacketsAreJudged :
    sequencedOf (.read .a 0 1 1 0 0) = some (.a, 0) ∧ sequencedOf (.claim .a 0) = some (.a, 0) ∧
    sequencedOf (.refreshCue .a 1) = some (.a, 1) ∧
    (linkOf State.reset .a).state = .down ∧ (linkOf training .a).state = .training ∧
    (linkOf (linkedBy (retrying 1)) .a).state = .retry ∧
    (1 : Byte).toNat ≠ (linkOf (linkedBy (retrying 1)) .a).expected.toNat ∧
    (linkOf run .a).state = .up ∧ (64 : Byte).toNat ≠ (linkOf run .a).expected.toNat ∧
    (accepts (linkedBy (retrying 1)) .a 0 ∧ (linkOf (linkedBy (retrying 1)) .a).unacked ≠ 7) ∧
    (accepts (linkedBy { upLink with unacked := 7, expected := 63 }) .a 63 ∧
      (linkOf (linkedBy { upLink with unacked := 7 }) .a).unacked = 7) :=
  ⟨rfl, rfl, rfl, rfl, rfl, rfl, by decide +kernel, rfl, by decide +kernel,
    ⟨⟨rfl, rfl⟩, by decide +kernel⟩, ⟨rfl, rfl⟩, rfl⟩

/-- A link in TRAINING that has, or has not, sent its TRAIN and seen the partner's. -/
def trainingBy (sent seen : Bool) : LinkCtl :=
  { coldLink with state := .training, trainSent := sent, partnerSeen := seen, trainTimer := .running 0 }

theorem test_hyp_TrainingProceeds :
    ((linkOf State.reset .a).state = .down ∧ (linkOf State.reset .a).downTimer = .running 8) ∧
    ((linkOf (linkedBy (trainingBy true false)) .a).state = .training ∧
      (linkOf (linkedBy (trainingBy true false)) .a).trainTimer = .running 0) ∧
    ((linkOf (linkedBy (trainingBy true true)) .a).trainSent = true ∧
      (linkOf (linkedBy (trainingBy true true)) .a).partnerSeen = true ∧
      (linkOf (linkedBy (trainingBy false false)) .a).trainSent = false) ∧
    (inService run .a = true ∧ inService (linkedBy (retrying 1)) .a = true ∧ (2 : Byte) ≠ 1) ∧
    (∀ i t, slotAt (holding [one .read .b 1 0]) i = some t → t.link ≠ .a) :=
  ⟨by decide +kernel, by decide +kernel, by decide +kernel, by decide +kernel,
    ofLive (by decide +kernel)⟩

/-- A link with two packets to be acknowledged. -/
def sending : LinkCtl :=
  { upLink with
    nextSend := 0
    replay := [(62, .credit 1 0), (63, .credit 2 0)]
    replayTimer := .running 0
    ackTimer := .running 0 }

theorem test_hyp_AcknowledgementsAct :
    (inService State.reset .a = false ∧ inService (linkedBy sending) .a = true) ∧
    (sending.replay = [] ++ (62, .credit 1 0) :: [(63, .credit 2 0)] ∧
      sending.replay = [(62, .credit 1 0)] ++ (63, .credit 2 0) :: []) ∧
    ((62 : Seq).toNat = (62 : Byte).toNat ∧ ∀ q ∈ [((62 : Seq), HubPacket.credit 1 0)],
      q.1.toNat ≠ (63 : Byte).toNat) ∧
    (∀ q ∈ sending.replay, q.1.toNat ≠ (0 : Byte).toNat ∧ q.1.toNat ≠ (64 : Byte).toNat) ∧
    ((0 : Byte).toNat = sending.nextSend.toNat ∧ (64 : Byte).toNat ≠ sending.nextSend.toNat) := by
  decide +kernel

theorem test_hyp_LinkTimersExpire :
    (linkOf (linkedBy sending) .a).ackTimer = .running 0 ∧
    ((linkOf (linkedBy (retrying 7)) .a).retryTimer = .running 0 ∧ (retrying 7).retryCount < 8 ∧
      8 ≤ (retrying 8).retryCount ∧ (retrying 8).state = .retry) ∧
    (inService (linkedBy sending) .a = true ∧ sending.replayTimer = .running 0 ∧
      ({ sending with replayCount := 3 }).replayCount < 4 ∧
      4 ≤ ({ sending with replayCount := 4 }).replayCount) := by decide +kernel

theorem test_hyp_LinkResetIsTaken :
    (inService run .a = true ∧ inService State.reset .a = false) ∧
    (noticeLaw claiming ∧ noticeLaw (noticed (notifying false true) []) ∧
      slotAt (noticed (notifying false true) []) 0 = some (notifying false true) ∧
      (∃ e ∈ (targetOf (noticed (notifying false true) []) .b).queue, 0 ∈ e.waiters) ∧
      slotAt claiming 0 = some writing) ∧
    (run.mgmt.claim ≠ some .b ∧ run.mgmt.claim = some .a) ∧
    ((tenured run noTenure).tenure.holder ≠ some .a ∧
      (tenured run (heldByA .no)).tenure.holder = some .a) :=
  ⟨by decide +kernel, ⟨test_hyp_NoticesAreSentAndSettled_law, noticeLaw_noticed _ _, by decide +kernel⟩,
    by decide +kernel⟩

theorem test_hyp_LinkResetIsTaken_slots :
    (∀ st ∈ [SlotState.intake, .queued, .fenceWait, .reply, .access, .merge, .notify],
      slotAt (holding [onPath .write .a 1 0 0 st]) 0 = some (onPath .write .a 1 0 0 st) ∧
      (onPath .write .a 1 0 0 st).link = .a ∧ (onPath .write .a 1 0 0 st).state = st) ∧
    (let t := { onPath .write .b 1 0 1 .queued with pred := some 0, arrival := 1 };
      let s := holding [onPath .write .a 1 0 0 .access, t];
      slotAt s 1 = some t ∧ t.link ≠ .a ∧ slotAt s 0 = some (onPath .write .a 1 0 0 .access) ∧
      freedAtReset (onPath .write .a 1 0 0 .access) = false ∧ slotAt s 2 = none) := by decide +kernel

theorem test_hyp_LinkResetIsTaken_predecessors :
    let t := { onPath .write .b 1 0 2 .queued with pred := some 1, arrival := 2 }
    let s := holding [onPath .write .b 1 0 0 .access, onPath .write .a 1 0 1 .queued, t]
    slotAt s 2 = some t ∧ t.link ≠ .a ∧
    (slotAt s 1).map (fun u => (u.link, u.state)) = some (.a, .queued) ∧
    (slotAt (tableLinkReset s .a) 2).map (fun u => u.pred) = some (some 0) := by decide +kernel

/-- The hub with something to send on link A from every source, the credit longest ready. -/
def offering : State := { responding with
  links := ⟨{ upLink with
    owedRequests := 1, owedSince := 1, notices := [⟨3, 0x40#40, 2⟩] }, upLink⟩
  mgmt := { run.mgmt with
    replies := ⟨[⟨.claim, some .ok, .none, 2⟩], []⟩
    alerts := [⟨.protocol, some .a, none, some .unknownPacket, none, 0, 0, 3⟩] } }

/-- The hub that is to restart link A, 31 packets unacknowledged, with or without the reply first. -/
def restarting (replyFirst : Bool) : State := { run with
  links := ⟨{ upLink with
    restartDue := true
    resetReplyDue := replyFirst
    replay := List.replicate 31 (0, .credit 1 0) }, upLink⟩
  mgmt := { run.mgmt with replies := ⟨[⟨.hubReset, some .ok, .none, 2⟩], []⟩ } }

theorem test_hyp_SourcesAreTaken :
    (mayTake offering .a .credit = false ∧ readySince offering .a .credit = some 1 ∧
      readySince offering .a .response = some 0 ∧ mayTake offering .a .response = true) ∧
    (let s := { offering with table := emptyTable };
      mayTake s .a .credit = true ∧ (linkOf s .a).notices = ⟨3, 0x40#40, 2⟩ :: []) ∧
    (let s := { replying 1 with settings := run.settings };
      mayTake s .a .reply = true ∧ s.mgmt.replies.get .a = ⟨.claim, some .ok, .none, 0⟩ :: []) ∧
    (let s := linkedBy { upLink with notices := [⟨3, 0x40#40, 2⟩] };
      mayTake s .a .notice = true ∧ (linkOf s .a).notices = ⟨3, 0x40#40, 2⟩ :: []) ∧
    (mayTake (alertsOf 1) .a .alert = true ∧ (alertsOf 1).mgmt.alerts =
      ⟨.protocol, some .a, none, some .unknownPacket, none, 0, 0, 0⟩ :: []) ∧
    (mayTake (restarting true) .a .reply = true ∧ mayTake (restarting false) .a .reply = false ∧
      (linkOf (restarting false) .a).state = .up ∧ (linkOf (restarting false) .a).replay.length < 32 ∧
      (linkOf (restarting false) .a).restartDue = true ∧
      (linkOf (restarting false) .a).resetReplyDue = false) := by decide +kernel

/-! ## What every step keeps -/

/-- The hub that has begun to run a READ of link A in TENURE mode. -/
def lawful : State := tenured reads (heldByA .no)

theorem test_hyp_StepKeeps_counts :
    slotsLaw lawful ∧ debtLaw lawful ∧ alertLaw lawful ∧ replyLaw lawful ∧ linkLaw lawful ∧
    tablesLaw lawful ∧ lockLaw lawful ∧ recentLaw lawful ∧ dramLaw lawful ∧ creditLaw lawful ∧
    liveLaw lawful ∧ positionLaw lawful :=
  ⟨by unfold slotsLaw; decide +kernel, by unfold debtLaw; decide +kernel,
    by unfold alertLaw; decide +kernel, fun x => by cases x <;> decide +kernel,
    fun x => by cases x <;> decide +kernel,
    ⟨⟨by decide +kernel, by decide +kernel⟩, by decide +kernel, by decide +kernel⟩,
    ⟨by decide +kernel, fun x => by cases x <;> decide +kernel⟩,
    fun y => by cases y <;> decide +kernel, by unfold dramLaw; decide +kernel,
    by unfold creditLaw; decide +kernel, fun x => by cases x <;> decide +kernel,
    by unfold positionLaw; decide +kernel⟩

theorem test_hyp_StepKeeps_slots :
    fenceLaw lawful ∧ flightLaw lawful ∧ epochLaw lawful ∧ tenureLaw lawful ∧ sharedLaw lawful ∧
    noticeLaw claiming ∧ settingsLaw lawful := by
  refine ⟨fenceLawOf (by decide +kernel), ofLive (by decide +kernel), ofLive (by decide +kernel), ?_,
    fun h => absurd h (by decide), test_hyp_NoticesAreSentAndSettled_law, ?_⟩
  · intro x i t hx
    have hx' : x = .a := (Option.some.inj hx).symm
    subst hx'
    exact ofLive (p := fun _ t => inFlight t = true → t.link = .a) (by decide +kernel) i t
  · intro f hf
    cases f <;> first
      | decide +kernel
      | (rename_i x; cases x <;> decide +kernel)
      | (exact absurd hf (by simp [readOnly]))

theorem test_hyp_StepKeeps_openRows : settingsLaw lawful ∧ bankLaw lawful ∧ openRowsLaw lawful := by
  refine ⟨test_hyp_StepKeeps_slots.2.2.2.2.2.2, ⟨fun _ => by decide +kernel, fun h => absurd h (by decide),
    by decide, by decide, by decide⟩, ?_⟩
  intro rank hr
  refine ⟨by revert rank; decide +kernel, fun p => ?_, by revert rank; decide +kernel⟩
  have hp : p < 8 ∨ bankAt lawful p = none := by
    by_cases h : p < 8
    · exact .inl h
    · exact .inr (List.getElem?_eq_none (by show 8 ≤ p; omega))
  have hz : ∀ rank < 2, ∀ p < 8, p ∈ openRowList lawful rank ↔ rankOf lawful p = rank ∧
      ((bankAt lawful p).any fun b => b.state = .openRow || b.state = .activating) = true := by
    decide +kernel
  rcases hp with hp | hp
  · rw [hz rank hr p hp]; simp [Option.any_eq_true]
  · have : p ∉ openRowList lawful rank := by
      have h0 : ∀ rank < 2, ∀ q ∈ openRowList lawful rank, q < 8 := by decide +kernel
      intro hm
      have := h0 rank hr p hm
      have hs : (bankAt lawful p).isSome = true := by
        have : ∀ q < 8, (bankAt lawful q).isSome = true := by decide +kernel
        exact this p (by assumption)
      rw [hp] at hs; cases hs
    simp [this, hp]

theorem test_hyp_FramesAreReadBack :
    (Instr.writeOpenLimit .b 3 8).wellFormed = true ∧
    frameOfCommand (.writeOpenLimit .b 3 8) = some (.b, framed
      [0x21, 0x03, 0x00, 0x06, 0x04, 0x01, 0x00, 0x00, 0x00, 0x08]) := by decide +kernel

theorem test_hyp_FramesAreReadBack_header :
    (0 : BitVec 16) ≠ crc16 [0x06] ∧ ([0x06] : List Byte).length < 2 ∧
    ([0x06, 0x3F, 0x00, 0x01, 0x7E] : List Byte) = 0x06 :: 0x3F :: (bytesBE 2 1 ++ [0x7E]) ∧
    ([0x06, 0x3F, 0x00, 0x02, 0x7E] : List Byte) = 0x06 :: 0x3F :: (bytesBE 2 2 ++ [0x7E]) := by
  decide +kernel

/-! ## States that meet the hypotheses of the added clauses -/

theorem test_hyp_IntakeStepRefusals_readiness :
    intakeReady run .a = none ∧ intakeReady (draining (asked (reading 1 0))) .a = none ∧
    intakeReady fenceBehind .a = none ∧
    (∃ u, slotAt sameTag 0 = some u ∧ u.link = .a ∧ u.tag = 1 ∧ u.state ≠ .intake) ∧
    (let two := holding [one .read .a 1 0, one .read .a 1 32]
     (∃ u, slotAt two 1 = some u ∧ u.tag = 1) ∧
      ∀ q ∈ liveSlots two, q.1 ≠ 0 → q.2.tag = 1 → q.2.state = .intake) :=
  ⟨by decide +kernel, by decide +kernel, by decide +kernel, ⟨_, rfl, by decide⟩, ⟨_, rfl, rfl⟩,
    by decide +kernel⟩

theorem test_hyp_PredecessorIsLatestConflicting_words :
    conflict (onPath .read .a 1 0 0 .queued) (onPath .write .b 1 0 1 .queued) = true ∧
    conflict (onPath .read .a 1 0 0 .queued) (onPath .read .b 1 0 1 .queued) = false ∧
    conflict (onPath .write .a 1 0 0 .queued) (onPath .write .b 1 32 1 .queued) = false ∧
    earlierTrans { run with table := { run.table with transCounter := 1 } } 0xFFFFFFFF 0 = true := by
  decide +kernel

theorem test_hyp_ArbiterGrants_words :
    (one .read .a 1 0).loc = none ∧ (queuedRead 0).loc = some ⟨0, 0, 0, 0⟩ ∧
    urgent run (queuedRead 0) = false ∧ urgent run (queuedRead run.settings.rows.bypassLimit) = true ∧
    grantee run = none := by decide +kernel

theorem test_hyp_ActivatesRun_not :
    (∀ b, bankAt reads 0 = some b → b.state ≠ .closed ∧ b.state ≠ .activating) ∧
    (bankAt reads 0).isSome ∧
    (let s := warm (serving inAccess .closed readService)
     warmReset s = true ∧ (servedAt s).map (·.wrote) = some false) := by decide +kernel

theorem test_hyp_ColumnCommandsAreSent_not :
    (servedAt (serving inAccess .closed readService)).map (·.toRead) = some [0] ∧
    (∀ b, bankAt (serving inAccess .closed readService) 0 = some b → b.state ≠ .openRow) ∧
    (servedAt reads).map (·.toWrite) = some [] ∧ reads.chan.readsDue = [] := by decide +kernel

theorem test_hyp_MergedAndStoredBlocks_masks :
    maskAt (queuedWrite none) 0 = none ∧
    (queuedWrite (some [0])).masks = some [0] ∧ blockUse (queuedWrite (some [0])) 0 = .untouched ∧
    blockUse (queuedWrite (some [1])) 0 = .partialBlock ∧
    blockUse (queuedWrite (some [0xFFFFFFFF])) 0 = .full := by decide +kernel

theorem test_hyp_ReadsComplete_lines : linesTouched { reading 3 0 with phys := some 32 } = [0, 64] := by
  decide +kernel

theorem test_hyp_PrechargesRun_not :
    (∀ b, bankAt run 0 = some b → b.state ≠ .openRow ∧ b.state ≠ .precharging ∧
      b.idleTimer = .stopped) ∧ (bankAt run 0).isSome ∧ run.chan.startPhase ≠ .precharging := by
  decide +kernel

theorem test_hyp_RefreshRounds_not :
    run.chan.startPhase = .none ∧ run.refresh.episode = .none ∧
    (∀ p < 8, ∀ b, bankAt run p = some b → b.state ≠ .refreshing) ∧
    rankClosed run 0 = true ∧ rankClosed reads 0 = false ∧ allClosed reads = false := by
  decide +kernel

theorem test_hyp_DebtAndEpisodes_timer :
    run.refresh.timer = .stopped ∧ (timing .internal false).settings.refresh.mode = .internal ∧
    (timing .linked false).settings.refresh.mode = .linked := by decide +kernel

theorem test_hyp_NoticesAreSentAndSettled_lookup :
    reverseLookup openTables .b 64 = some 64 ∧ reverseLookup State.reset.xlate.active .a 64 = none ∧
    (targetOf run .a).queue = [] := by decide +kernel

theorem test_hyp_LockEntriesAreRemoved_blocking :
    (let s := { run with locks := [heldEntry .b 64, heldEntry .b 32, heldEntry .a 0] }
     blockingEntry s { reading 3 0 with phys := some 0 } = some 32 ∧
     blockingEntry s (onPath .read .a 1 0 0 .queued) = none ∧
     (lockOn s 64).map (·.holder) = some .b ∧ lockOn s 96 = none) ∧ run.locks = [] := by decide +kernel

theorem test_hyp_TenureCommitAndLeaseTimers_not :
    run.tenure.holder = none ∧ run.xlate.commitTimer = .stopped ∧ run.mgmt.lease = .stopped := by
  decide +kernel

theorem test_hyp_ReadsAnswerTheirValue_status :
    run.mgmt.longOp = none ∧ (draining run).mgmt.longOp = some (.commit, .a) ∧
    readStatus (draining run) .longOperation = 1 ∧ readStatus run .channelState = 2 ∧
    fieldOf 0x09 10 = some .corrThreshold ∧ fieldOf 0x09 11 = none ∧ fieldOf 0 0 = none ∧
    fieldOf 0x0C 0 = none := by decide +kernel

theorem test_hyp_TableWritesAndReverts_bytes :
    windowOfEntry 0x00010E0000000001FFFFFFFF#96 = some coldWindow ∧
    windowOfEntry 0x000000000000000000000000#96 = none ∧
    windowOfEntry 0x000400000000000000000000#96 = none ∧
    windowOfEntry 0x00010F000000000000000000#96 = none ∧
    windowOfEntry 0x020100000000000000000000#96 = none ∧
    windowOfEntry 0x010300000001000000020000#96 = some ⟨true, .both, 0, 0x10000, 0x20000⟩ ∧
    windowOfEntry 0x010300000001000040000000#96 = none ∧
    regionOfEntry 0x00FFFF000002020101ABCDEF#96 = some coldRegion ∧
    regionOfEntry 0x00FFFF000003020101ABCDEF#96 = none ∧
    regionOfEntry 0x0100013FFF02010100ABCDEF#96 = some ⟨true, 1, 16383, ⟨.readWrite, .read, true, false⟩⟩ ∧
    regionOfEntry 0x010001400002010100000000#96 = none ∧
    regionOfEntry 0x020001000102010100000000#96 = none ∧
    rightsOfEntry 0xFFFFFFFFFF00000001ABCDEF#96 = some ⟨.none, .none, false, true⟩ ∧
    rightsOfEntry 0x000000000000000200000000#96 = none := by decide +kernel

theorem test_hyp_NoticesAreSentAndSettled_free (t : Txn) :
    slotAt (noticed t [0]) 47 = none := rfl

theorem test_hyp_TranslationAndLocation_capacity : capacity run.settings.geometry = 0x8000000 := by decide

theorem test_hyp_LongOperations_lastCell :
    rankOfCell (blockCell ⟨1, 7, 32767, 63⟩ 0 + 31) = 1 ∧ rankOfCell (blockCell ⟨0, 7, 32767, 0⟩ 63 + 31) = 0 := by
  decide +kernel

theorem test_hyp_SequencedPacketsAreJudged_expected : (0 : Byte).toNat = (linkOf run .a).expected.toNat := rfl

theorem test_hyp_FramesAreReadBack_lengths :
    commandOfBody .a 0x01 5 [1, 2] = .receiveUnknownPacket .a (some 5) ∧
    commandOfBody .a 0x02 5 [1, 1, 1, 0, 0, 0, 0, 0] = .receiveUnknownPacket .a (some 5) ∧
    commandOfBody .a 0x41 5 [] = .receiveUnknownPacket .a (some 5) ∧
    commandOfBody .a 0x73 5 [0] = .receiveUnknownPacket .a none := by decide +kernel

theorem test_hyp_LongOperations_contents :
    rankOfCell 0 < 1 ∧ 1 ≤ rankOfCell (blockCell ⟨1, 0, 0, 0⟩ 0) ∧
    rankOfCell (8 * (blockCell ⟨1, 0, 0, 0⟩ 0 / 8)) = 1 := by decide +kernel

/-- A resume that a warm reset meets in its resume wait. -/
def warmResuming : State := { asleep [0] with
  chan := { (asleep [0]).chan with
    state := .resuming, resumeTimer := .running 0, sleeping := [], warm := some [] } }

/-- The same, met in its settings wait. -/
def warmSettling : State := { warmResuming with
  chan := { warmResuming.chan with resumeTimer := .stopped, resumePhase := .settling } }

theorem test_hyp_SequencesRun_warm :
    (warmResuming.chan.warm ≠ none ∧ warmResuming.chan.resumeTimer = .running 0) ∧
    (warmSettling.chan.warm ≠ none ∧ warmSettling.chan.resumePhase = .settling) ∧
    (let s := { warmInit with chan := { warmInit.chan with state := .starting, startTimer := .running 0 } }
     s.chan.warm ≠ none ∧ s.chan.startTimer = .running 0) ∧
    run.chan.startTimer = .stopped ∧ run.chan.resumeTimer = .stopped ∧
    run.chan.resumePhase ≠ .settling ∧ run.chan.startPhase ≠ .settling := by decide +kernel

theorem test_hyp_ResetPointIsTaken_work :
    warmWorkDone run = false ∧ warmWorkDone warmResuming = false ∧
    warmWorkDone (after (exec .resumeTimerExpiry warmResuming)) = true := by decide +kernel

theorem test_hyp_TrainingProceeds_not :
    (linkOf run .a).state ≠ .down ∧ (linkOf run .a).state ≠ .training ∧
    (linkOf training .a).trainTimer = .stopped ∧ (linkOf training .a).trainSent = false := by decide +kernel

theorem test_hyp_LinkTimersExpire_not :
    (linkOf run .a).ackTimer = .stopped ∧ (linkOf run .a).state ≠ .retry ∧
    inService training .a = false ∧ inService run .a = true := by decide +kernel

theorem test_hyp_SourcesAreTaken_not :
    ([Source.response, .reply, .notice, .credit, .alert].all fun src => !mayTake run .a src) = true ∧
    (linkOf run .a).restartDue = false := by decide +kernel

theorem test_hyp_ConsequencesSettle_words :
    anyOnPath reads = true ∧ anyInFlight reads = true ∧ anyOnPath run = false ∧
    isWaitingWork (queuedRead 0) = true := by decide +kernel

/-! ## One step of a command -/

theorem test_step_read_takesSlot :
    after (step { run with pending := [.read .a 0 7 1 0 0x20#40] }) = { accepted run .a with table :=
      { tableOf [one .read .a 7 0x20#40] with transCounter := 0 } } := by decide +kernel

theorem test_step_intake_queues :
    (slotAt (after (exec (.intakeStep .a) (asked (one .read .a 7 0x4020#40)))) 0).map
      (fun t => (t.state, t.phys, t.loc, t.transNo)) =
    some (.queued, some 0x4020, some ⟨0, 0, 1, 1⟩, some 1#32) := by decide +kernel

theorem test_step_issue_then_activate :
    (after (exec (.activateSent 0) (after (exec .issue (queuedAt (queuedRead 0) freshBank))))).channelOut =
    [.activate 0 0] := by decide +kernel

theorem test_step_poisonedRead_answered :
    (slotAt (after (exec (.readColumnDataArrival 3 0 0 0) (dataDue inAccess lastDue))) 0).map
      (fun t => (t.state, t.status)) = some (.reply, some .poison) := by decide +kernel

theorem test_step_write_stored :
    (after (exec (.writeColumnSent 0) (serving { writing with data := [0xAB] } .openRow
      { writeService [] false with toWrite := [(0, 0xAB)] }))).dram.cells.head? =
    some (0, 0xAB) := by decide +kernel

theorem test_step_performedWrite_sendsNotice :
    (linkOf (after (exec (.writeColumnSent 0) { claiming with
      sched := (serving writing .openRow (writeService [] false)).sched })) .b).notices =
    [⟨0, 0, 1⟩] := by decide +kernel

theorem test_step_unknownAck_alert :
    (after (exec (.noticeAck .a 0 9) run)).mgmt.alerts.map (fun a => (a.kind, a.cause, a.value)) =
    [(.protocol, some .unknownAck, some 9)] := by decide +kernel

theorem test_step_refreshTimer_forces :
    (after (exec .refreshTimerExpiry (timing .internal false))).refresh.episode =
    .holds .forced .refreshing := by decide +kernel

theorem test_step_quantum_opens :
    (after (exec .quantumTimerExpiry
      (tenured run ⟨some .a, some .guaranteed, .running 0, .stopped, .no, true⟩))).tenure.phase =
    some .opened := by decide +kernel

theorem test_step_mgmtRead_lockLimit :
    (after (exec (.mgmtRead .b 0 0x07 0) run)).mgmt.replies.get .b =
    [⟨.mgmtRead, some .ok, .word 64, 1⟩] := by decide +kernel

theorem test_step_commit_switches :
    (after (exec (.tableCommit .a 0) run)).xlate.epoch = 1 := by decide +kernel

theorem test_step_channelStart_begins :
    (after (exec (.channelStart .a 0) (channelIn run .init))).chan.startTimer = .running 800 := by
  decide +kernel

theorem test_step_quiesce_sleeps :
    (after (exec (.channelQuiesce .a 0) run)).chan.state = .quiesced ∧
    (after (exec (.channelQuiesce .a 0) run)).channelOut = [.srEnter 0] := by decide +kernel

theorem test_step_resetPoint_replies :
    (after (exec .resetPoint warmInit)).mgmt.replies.get .a = [⟨.hubReset, some .ok, .none, 1⟩] ∧
    (linkOf (after (exec .resetPoint warmInit)) .b).restartDue = true := by decide +kernel

theorem test_step_warmResume_sleepsAgain :
    (after (exec .resumeTimerExpiry warmResuming)).channelOut = [.srEnter 0] ∧
    (after (exec .resumeTimerExpiry { warmResuming with refresh := warmTimed.refresh })).refresh =
      ⟨0, .stopped, false, .none, [], none⟩ ∧
    (after (exec .resumeSequenceEnd warmSettling)).channelOut = [.srEnter 0] ∧
    (after (exec .resumeSequenceEnd warmSettling)).chan.sleeping = [0] := by decide +kernel

theorem test_step_badPacket_retries :
    (after (exec (.receiveBadPacket .a .crc) run)).wire.get .a = [.retryReq 0 0] := by decide +kernel

theorem test_step_linkAck_empties :
    (linkOf (after (exec (.linkAck .a 63 0) (linkedBy sending))) .a).replay = [] := by decide +kernel

theorem test_step_sendResponse_credits :
    (after (exec (.sendResponse .a) responding)).wire.get .a =
      [.sequenced 0 (.readData 1 .ok [(.ok, 0)])] ∧
    (linkOf (after (exec (.sendResponse .a) responding)) .a).owedRequests = 1 := by decide +kernel

end Sys2Proof.Tests
end

section
/-! SUPPORT. The conditions of the commands whose effect alone does not show them, and what a management
packet's effect can do: the two inversion lemmas from which the laws that every step keeps are proved. -/

namespace Sys2Proof.Machine

/-! ## The condition of a conditional event -/

/-- The condition under which a command's event happens, for the commands whose effect does not test it
again; for every other command nothing. -/
def guardHolds : Instr → State → Prop
  | .activationComplete pos, s => bankIs s pos .activating = true
  | .prechargeSent pos, s => (closeReady s pos || conflictReady s pos) = true
  | .prechargeComplete target, s => prechargeRuns s target = true
  | .refreshCommandSent rank, s => (startRefreshNext s rank || episodeRefreshNext s rank) = true
  | .sendFirstTrain x, s =>
      (linkIs s x .training && !(linkOf s x).trainSent && (liveOf s x).isEmpty) = true
  | .sendResponse x, s => mayTake s x .response = true
  | .sendMgmtReply x, s => mayTake s x .reply = true
  | .sendNotice x, s => mayTake s x .notice = true
  | .sendAlert, s => mayTake s s.settings.mgmt.alertLink .alert = true
  | .sendCredit x, s => mayTake s x .credit = true
  | .restartingCredit x, s =>
      (canSend s x && (linkOf s x).restartDue && !(linkOf s x).resetReplyDue) = true
  | _, _ => True

/-- A conditional event leaves the state, or its condition holds and it happens. -/
theorem happens_guarded (b : Bool) (s : State) (f : State → State) :
    happens b s f = .next s ∨ (b = true ∧ happens b s f = .next (f (beginEvent s))) := by
  cases b <;> simp [happens]

/-- Noting the times of a bank does not look at the event. -/
theorem noteClocks_beginEvent (s : State) (pos : Nat) :
    noteClocks (beginEvent s) pos = beginEvent (noteClocks s pos) := by
  show (match bankAt s pos with | none => _ | some b => _) = beginEvent (match bankAt s pos with
    | none => _ | some b => _)
  cases bankAt s pos <;> rfl

/-- Whether a PRECHARGE may be sent does not look at the event. -/
theorem prechargeReady_beginEvent (s : State) (pos : Nat) :
    (closeReady (beginEvent s) pos || conflictReady (beginEvent s) pos) =
      (closeReady s pos || conflictReady s pos) := by
  unfold closeReady conflictReady
  rw [noteClocks_beginEvent]; rfl

/-- A command with a condition of its own leaves the state, or the condition holds and the event happens. -/
theorem exec_guarded (c : Instr) (s : State) :
    (∀ u, guardHolds c u) ∨ exec c s = .next s ∨
      (guardHolds c (beginEvent s) ∧ exec c s = .next (effectOf c (beginEvent s))) := by
  cases c
  case prechargeSent pos =>
    rcases happens_guarded (closeReady s pos || conflictReady s pos) s (sendPrecharge pos) with
      e | ⟨hg, e⟩
    · exact .inr (.inl e)
    · exact .inr (.inr ⟨(prechargeReady_beginEvent s pos).trans hg, e⟩)
  case activationComplete | prechargeComplete | refreshCommandSent | sendFirstTrain |
      sendResponse | sendMgmtReply | sendNotice | sendAlert | sendCredit | restartingCredit =>
    exact .inr (happens_guarded _ s _)
  all_goals exact .inl fun _ => trivial

/-- `exec_keeps` for a law whose keeping by an effect rests on the condition of the event. -/
theorem exec_keeps_guarded {I : State → Prop} {c : Instr} {s t : State} (h : exec c s = .next t)
    (hs : I s) (hb : ∀ u, I u → I (beginEvent u)) (ha : ∀ u x, I u → I (accepted u x))
    (hr : ∀ u x, I u → I (enterRetry u x)) (he : ∀ u, I u → guardHolds c u → I (effectOf c u)) :
    I t := by
  rcases exec_guarded c s with hg | e | ⟨hg, e⟩
  · exact exec_keeps h hs hb ha hr fun u hu => he u hu (hg u)
  · rw [e] at h; cases h; exact hs
  · rw [e] at h; cases h; exact he _ (hb _ hs) hg

/-- `step_keeps` for such a law. -/
theorem step_keeps_guarded {I : State → Prop} {s t : State} (h : step s = .next t) (hs : I s)
    (ht : ∀ u, I u → I (tick u)) (hq : ∀ u q, I u → I { u with pending := q })
    (hb : ∀ u, I u → I (beginEvent u)) (ha : ∀ u x, I u → I (accepted u x))
    (hr : ∀ u x, I u → I (enterRetry u x))
    (he : ∀ c u, I u → guardHolds c u → I (effectOf c u)) : I t := by
  unfold step at h
  split at h
  · cases h; exact ht _ hs
  · exact exec_keeps_guarded h (hq _ _ hs) hb ha hr (he _)

/-! ## Requests and management packets -/

/-- What a request row does to the table is the arrival of its record. -/
theorem effectOf_requestOf {c : Instr} {r : Txn} {seq : Byte} (h : requestOf c = some (r, seq)) :
    effectOf c = arriveRequest r := by
  cases c <;> simp [requestOf] at h <;> obtain ⟨rfl, rfl⟩ := h <;> rfl

/-- A request arrives in INTAKE and waits for no lock entry. -/
theorem requestOf_fields {c : Instr} {r : Txn} {seq : Byte} (h : requestOf c = some (r, seq)) :
    r.state = .intake ∧ r.lockWait = none := by
  cases c <;> simp [requestOf] at h <;> obtain ⟨rfl, rfl⟩ := h <;> exact ⟨rfl, rfl⟩

/-- What the effect of a management packet from link `x` can do to the state. -/
inductive MgmtChange (x : Link) (s : State) : State → Prop
  | stays : MgmtChange x s s
  | writes (f : Field) (v : Nat) (hf : readOnly f = false)
      (hs : stoppedOnly f = true → channelStopped s = true) (hv : valueOk s f v = true) :
      MgmtChange x s (writeField s f v)
  | shadows (n : TableName) (i : Nat) (e : BitVec 96) (t : TableSet)
      (h : writeEntry s.xlate.shadow n i e = some t) :
      MgmtChange x s { s with xlate := { s.xlate with shadow := t } }
  | reverts : MgmtChange x s (revertShadow s)
  | switches : MgmtChange x s (commitSwitch s)
  | drains : MgmtChange x s (beginDrain s x)
  | claims : MgmtChange x s (loadLease { s with mgmt := { s.mgmt with claim := some x } })
  | frees : MgmtChange x s (freeClaim s)
  | starts (h : s.chan.state = .init) : MgmtChange x s (beginStart s x)
  | quiesces (h : s.chan.state = .run) : MgmtChange x s (beginLong { s with chan := { s.chan with
      state := .quiescing, lastRun := some s.settings.geometry } } .quiesce x)
  | resumes (h : s.chan.state = .quiesced) : MgmtChange x s (beginResume s x)
  | resets (u : State) (hu : u = s ∨ u = abandonCommit s) : MgmtChange x s
      (beginWarmWork (beginLong { u with mgmt := { u.mgmt with discarded := .both 0 } } .hubReset x))

/-- A kind that needs the claim does what its effect does, or nothing. -/
theorem withClaim_changes {x : Link} {s : State} {effect : State → State × Decision}
    (h : MgmtChange x s (effect s).1) : MgmtChange x s (withClaim s x effect).1 := by
  unfold withClaim; split
  · exact h
  · exact .stays

theorem writeChecked_changes (x : Link) (f : Field) (v : BitVec 32) (s : State) :
    MgmtChange x s (writeChecked f v s).1 := by
  unfold writeChecked
  split
  · exact .stays
  · rename_i hr
    split
    · exact .stays
    · rename_i hs
      split
      · rename_i hv
        exact .writes f _ (by simpa using hr) (by simpa using hs) hv
      · exact .stays

theorem mgmtWriteEffect_changes (x : Link) (r f : Byte) (v : BitVec 32) (s : State) :
    MgmtChange x s (mgmtWriteEffect x r f v s).1 := by
  refine withClaim_changes ?_
  split
  · exact .stays
  · exact writeChecked_changes x _ v s

theorem mgmtReadEffect_changes (x : Link) (r f : Byte) (s : State) :
    MgmtChange x s (mgmtReadEffect r f s).1 := by
  unfold mgmtReadEffect; split <;> exact .stays

theorem tableReadEffect_changes (x : Link) (a b d : Byte) (s : State) :
    MgmtChange x s (tableReadEffect a b d s).1 := by
  unfold tableReadEffect; split <;> exact .stays

theorem tableWriteEffect_changes (x : Link) (a b : Byte) (e : BitVec 96) (s : State) :
    MgmtChange x s (tableWriteEffect x a b e s).1 := by
  refine withClaim_changes ?_
  split
  · exact .stays
  · split
    · exact .stays
    · split
      · exact .stays
      · rename_i h; exact .shadows _ _ _ _ h

theorem tableRevertEffect_changes (x : Link) (s : State) :
    MgmtChange x s (tableRevertEffect x s).1 := by
  refine withClaim_changes ?_
  split
  · exact .stays
  · exact .reverts

theorem tableCommitEffect_changes (x : Link) (s : State) :
    MgmtChange x s (tableCommitEffect x s).1 := by
  refine withClaim_changes ?_
  split
  · exact .stays
  · split
    · exact .stays
    · split
      · exact .switches
      · split
        · exact .stays
        · exact .drains

theorem claimEffect_changes (x : Link) (s : State) : MgmtChange x s (claimEffect x s).1 := by
  unfold claimEffect; split
  · exact .stays
  · exact .claims

theorem releaseEffect_changes (x : Link) (s : State) : MgmtChange x s (releaseEffect x s).1 := by
  unfold releaseEffect; split
  · exact .frees
  · exact .stays

theorem channelStartEffect_changes (x : Link) (s : State) :
    MgmtChange x s (channelStartEffect x s).1 := by
  refine withClaim_changes ?_
  split
  · exact .stays
  · rename_i h
    split
    · exact .stays
    · split
      · exact .stays
      · exact .starts (not_not.mp h)

theorem channelQuiesceEffect_changes (x : Link) (s : State) :
    MgmtChange x s (channelQuiesceEffect x s).1 := by
  refine withClaim_changes ?_
  split
  · exact .stays
  · rename_i h
    split
    · exact .stays
    · exact .quiesces (not_not.mp h)

theorem channelResumeEffect_changes (x : Link) (s : State) :
    MgmtChange x s (channelResumeEffect x s).1 := by
  refine withClaim_changes ?_
  split
  · exact .stays
  · rename_i h
    split
    · exact .stays
    · split
      · exact .stays
      · exact .resumes (not_not.mp h)

theorem hubResetEffect_changes (x : Link) (s : State) :
    MgmtChange x s (hubResetEffect x s).1 := by
  refine withClaim_changes ?_
  refine .resets (if s.xlate.commit = .draining then abandonCommit s else s) ?_
  split
  · exact .inr rfl
  · exact .inl rfl

/-- A management command brings its packet, whose effect is one of the changes. -/
theorem effectOf_mgmtOf {c : Instr} {x : Link} {seq : Byte} {k : MgmtKind}
    (h : mgmtOf c = some (x, seq, k)) :
    ∃ eff, effectOf c = arriveMgmt x k eff ∧ ∀ u, MgmtChange x u (eff u).1 := by
  cases c <;> simp [mgmtOf] at h <;> obtain ⟨rfl, rfl, rfl⟩ := h
  case mgmtRead => exact ⟨_, rfl, mgmtReadEffect_changes _ _ _⟩
  case mgmtWrite => exact ⟨_, rfl, mgmtWriteEffect_changes _ _ _ _⟩
  case tableRead => exact ⟨_, rfl, tableReadEffect_changes _ _ _ _⟩
  case tableWrite => exact ⟨_, rfl, tableWriteEffect_changes _ _ _ _⟩
  case tableRevert => exact ⟨_, rfl, tableRevertEffect_changes _⟩
  case tableCommit => exact ⟨_, rfl, tableCommitEffect_changes _⟩
  case claim => exact ⟨_, rfl, claimEffect_changes _⟩
  case release => exact ⟨_, rfl, releaseEffect_changes _⟩
  case channelStart => exact ⟨_, rfl, channelStartEffect_changes _⟩
  case channelQuiesce => exact ⟨_, rfl, channelQuiesceEffect_changes _⟩
  case channelResume => exact ⟨_, rfl, channelResumeEffect_changes _⟩
  case hubReset => exact ⟨_, rfl, hubResetEffect_changes _⟩
  all_goals exact ⟨_, rfl, fun u => withClaim_changes (writeChecked_changes _ _ _ u)⟩

/-- A law that the parts of a management packet's way keep, and every change of its effect, is kept by the
command. -/
theorem mgmt_keeps {I : State → Prop} {c : Instr} {x : Link} {seq : Byte} {k : MgmtKind}
    (h : mgmtOf c = some (x, seq, k)) {s : State} (hs : I s)
    (hd : ∀ u, I u → I (discardPacket u x)) (hp : ∀ u, I u → I (raiseProtocol u x .mgmtOverrun))
    (hc : ∀ u, I u → I (settle u)) (hl : ∀ u, I u → I (loadLease u))
    (hj : ∀ u k d, (u.mgmt.replies.get x).length < 2 → I u → I (joinReplies u x k d))
    (hr : ∀ u, MgmtChange x s u → (u.mgmt.replies.get x).length = (s.mgmt.replies.get x).length)
    (he : ∀ u, MgmtChange x s u → I u) : I (effectOf c s) := by
  obtain ⟨eff, e, hch⟩ := effectOf_mgmtOf h
  rw [e]
  refine arriveMgmt_keeps hs hd hp hc (fun u hu => ?_)
    (fun hlt d hu => hj _ _ _ (by rw [hr _ (hch s)]; exact hlt) hu) (he _ (hch s))
  unfold renewLease; split
  · exact hl u hu
  · exact hu

end Sys2Proof.Machine
end


section
/-! SUPPORT. Slots from one state to the next: a relation that every operation on the Transaction Table
keeps, record by record, and from which the table's own laws are read. -/

namespace Sys2Proof.Machine

/-! ## Records followed from state to state -/

/-- The table keeps its 48 slots, and every live slot of `u` was live in `s`, with a record to which the one in
`u` is related. -/
def slotsFollow (R : Txn → Txn → Prop) (s u : State) : Prop :=
  (slotsLaw s → slotsLaw u) ∧ ∀ i t', slotAt u i = some t' → ∃ t, slotAt s i = some t ∧ R t t'

/-- A record that breaks the law of the transactions on the channel: in ACCESS or MERGE with a lock wait. -/
def flawed (t : Txn) : Prop := inFlight t = true ∧ t.lockWait ≠ none

/-- The link stays, and no flaw appears. -/
def steady (t t' : Txn) : Prop := t'.link = t.link ∧ (flawed t' → flawed t)

/-- Nor does the transaction become a waiting FENCE. -/
def calm (t t' : Txn) : Prop := steady t t' ∧ (t'.state = .fenceWait → t.state = .fenceWait)

theorem calm_refl (t : Txn) : calm t t := ⟨⟨rfl, id⟩, id⟩

theorem steady_trans {t u v : Txn} (h : steady t u) (h' : steady u v) : steady t v :=
  ⟨h'.1.trans h.1, fun f => h.2 (h'.2 f)⟩

theorem calm_trans {t u v : Txn} (h : calm t u) (h' : calm u v) : calm t v :=
  ⟨steady_trans h.1 h'.1, fun f => h.2 (h'.2 f)⟩

/-- A record outside the channel that is no waiting FENCE follows any record of its link. -/
theorem calm_of_state {t t' : Txn} (hl : t'.link = t.link) (hs : inFlight t' = false)
    (hf : t'.state ≠ .fenceWait) : calm t t' :=
  ⟨⟨hl, fun h => by simp [flawed, hs] at h⟩, fun h => absurd h hf⟩

/-- A record that keeps its link, its state and its lock wait is followed calmly. -/
theorem calm_of_eq {t t' : Txn} (hl : t'.link = t.link) (hs : t'.state = t.state)
    (hw : t'.lockWait = t.lockWait) : calm t t' :=
  ⟨⟨hl, by simp [flawed, inFlight, hs, hw]⟩, by simp [hs]⟩

theorem slotsFollow.mono {R R' : Txn → Txn → Prop} {s u : State} (h : slotsFollow R s u)
    (hR : ∀ t t', R t t' → R' t t') : slotsFollow R' s u := ⟨h.1, fun i t' ht =>
  let ⟨t, h1, h2⟩ := h.2 i t' ht; ⟨t, h1, hR _ _ h2⟩⟩

theorem slotsFollow.trans {R : Txn → Txn → Prop} (hR : ∀ t u v, R t u → R u v → R t v)
    {s u v : State} (h : slotsFollow R s u) (h' : slotsFollow R u v) : slotsFollow R s v :=
  ⟨fun hl => h'.1 (h.1 hl), fun i t' ht =>
    let ⟨_, h1, h2⟩ := h'.2 i t' ht
    let ⟨w, h3, h4⟩ := h.2 i _ h1
    ⟨w, h3, hR _ _ _ h4 h2⟩⟩

/-- The slots of `u` calmly follow those of `s`. -/
abbrev calms (s u : State) : Prop := slotsFollow calm s u

theorem calms.then {s u v : State} (h : calms s u) (h' : calms u v) : calms s v :=
  slotsFollow.trans (R := calm) (fun _ _ _ => calm_trans) h h'

theorem calms_of_slots {s u : State} (h : u.table.slots = s.table.slots) : calms s u := by
  refine ⟨fun hl => by rw [slotsLaw, h]; exact hl, fun i t ht => ⟨t, ?_, calm_refl t⟩⟩
  rw [slotAt, h] at ht; exact ht

theorem calms_of_table {s u : State} (h : u.table = s.table) : calms s u :=
  calms_of_slots (by rw [h])

theorem calms_refl (s : State) : calms s s := calms_of_table rfl

/-- The slots of a state are read from its table: what follows depends on it alone. -/
theorem calms.congr {s s' u u' : State} (h : calms s u) (hs : s'.table = s.table)
    (hu : u'.table = u.table) : calms s' u' :=
  (calms_of_table hs.symm).then (h.then (calms_of_table hu))

/-- A fold whose steps are calm is calm. -/
theorem calms_foldl {β : Type} (f : State → β → State) (h : ∀ s b, calms s (f s b)) :
    ∀ (l : List β) (s : State), calms s (l.foldl f s)
  | [], s => calms_refl s
  | b :: l, s => (h s b).then (calms_foldl f h l (f s b))

/-! ## The operations on slots -/

/-- One slot set: freed, or given a record that calmly follows the one it held. -/
theorem slotsFollow_setSlot {R : Txn → Txn → Prop} (hR : ∀ t, R t t) (s : State) (i : Nat)
    (o : Option Txn) (h : ∀ t', o = some t' → ∃ t, slotAt s i = some t ∧ R t t') :
    slotsFollow R s (setSlot s i o) := by
  refine ⟨fun hl => by simpa [slotsLaw, setSlot, withSlots] using hl, fun j t' ht => ?_⟩
  rw [slotAt_setSlot] at ht
  split at ht
  · rename_i hj; rw [hj.1]; exact h t' ht
  · exact ⟨t', ht, hR t'⟩

theorem calms_setSlot (s : State) (i : Nat) (o : Option Txn)
    (h : ∀ t', o = some t' → ∃ t, slotAt s i = some t ∧ calm t t') : calms s (setSlot s i o) :=
  slotsFollow_setSlot calm_refl s i o h

theorem calms_freeTxn (s : State) (i : Nat) : calms s (freeTxn s i) :=
  calms_setSlot s i none (by simp)

theorem calms_modSlot (s : State) (i : Nat) (f : Txn → Txn)
    (h : ∀ t, slotAt s i = some t → calm t (f t)) : calms s (modSlot s i f) := by
  refine calms_setSlot s i _ fun t' ht => ?_
  obtain ⟨t, hi, rfl⟩ := Option.map_eq_some_iff.mp ht
  exact ⟨t, hi, h t hi⟩

theorem calms_enterReply (s : State) (i : Nat) (st : MemStatus) : calms s (enterReply s i st) := by
  unfold enterReply
  cases h : slotAt s i with
  | none => exact calms_refl s
  | some t =>
    exact (calms_setSlot s i (some { t with state := .reply, status := some st, replySince := s.event })
      (by rintro _ ⟨⟩; exact ⟨t, h, calm_of_state rfl rfl (by simp)⟩)).then (calms_of_slots rfl)

theorem calms_finish (s : State) (i : Nat) (st : MemStatus) : calms s (finish s i st) := by
  unfold finish
  split
  · exact calms_refl s
  · split
    · exact calms_freeTxn s i
    · exact calms_enterReply s i st

theorem calms_settleFence (s : State) (x : Link) : calms s (settleFence s x) := by
  unfold settleFence; split
  · exact calms_refl s
  · exact calms_enterReply _ _ _

theorem calms_reexamine (s : State) (gone : List Nat) : calms s (reexamine s gone) := by
  refine ⟨fun hl => by simpa [slotsLaw, reexamine, withSlots] using hl, fun i t' ht => ?_⟩
  rw [slotAt_reexamine] at ht
  obtain ⟨t, hi, rfl⟩ := Option.map_eq_some_iff.mp ht
  refine ⟨t, hi, ?_⟩
  cases t.pred with
  | none => exact calm_refl t
  | some p => dsimp only; split <;> exact calm_of_eq rfl rfl rfl

theorem calms_leaveNotify (s : State) (i : Nat) : calms s (leaveNotify s i) := by
  unfold leaveNotify; split
  · exact calms_refl s
  · exact calms_finish _ _ _

theorem calms_dropWait (y : Link) (late : Bool) (s : State) (i : Nat) :
    calms s (dropWait y late s i) := by
  have h : calms s (if late then modSlot s i fun t => { t with stale := true } else s) := by
    split
    · exact calms_modSlot s i _ fun t _ => calm_of_eq rfl rfl rfl
    · exact calms_refl s
  have hl : ∀ u, calms u (if waitsLeft u y i then u else leaveNotify u i) := by
    intro u; split
    · exact calms_refl u
    · exact calms_leaveNotify u i
  exact h.then (hl _)

theorem calms_dropWaiters (s : State) (y : Link) (line : Nat) (late : Bool) :
    calms s (dropWaiters s y line late) := by
  unfold dropWaiters
  exact (calms_of_table (by simp)).then (calms_foldl _ (calms_dropWait y late) _ _)

theorem calms_discardTarget (s : State) (y : Link) : calms s (discardTarget s y) := by
  have h : ∀ u l, calms u (discardEntry y u l) := fun u l =>
    (calms_dropWaiters u y l false).then (calms_of_table (modTarget_frame ..).2.1)
  exact (calms_foldl (discardEntry y) h _ s).then (calms_of_table (modTarget_frame ..).2.1)

/-! ## Lock entries removed -/

/-- A waiter examined again keeps its link and its state; only its own lock wait can appear. -/
def waits (w : List Nat) (s u : State) : Prop := (slotsLaw s → slotsLaw u) ∧
  ∀ i t', slotAt u i = some t' →
    ∃ t, slotAt s i = some t ∧ t'.link = t.link ∧ t'.state = t.state ∧
      (t'.lockWait ≠ none → t.lockWait ≠ none ∨ i ∈ w)

theorem waits_setSlot {w : List Nat} {s : State} {i : Nat} (hi : i ∈ w) {t t' : Txn}
    (h : slotAt s i = some t) (hl : t'.link = t.link) (hs : t'.state = t.state) :
    waits w s (setSlot s i (some t')) := by
  refine ⟨fun hl => by simpa [slotsLaw, setSlot, withSlots] using hl, fun j u hu => ?_⟩
  rw [slotAt_setSlot] at hu
  split at hu
  · rename_i hj; cases hu; rw [hj.1]; exact ⟨t, h, hl, hs, fun _ => .inr hi⟩
  · exact ⟨u, hu, rfl, rfl, .inl⟩

theorem waits_of_slots {w : List Nat} {s u : State} (h : u.table.slots = s.table.slots) :
    waits w s u := by
  refine ⟨fun hl => by rw [slotsLaw, h]; exact hl, fun i t ht => ⟨t, ?_, rfl, rfl, .inl⟩⟩
  rw [slotAt, h] at ht; exact ht

theorem waits.trans {w : List Nat} {s u v : State} (h : waits w s u) (h' : waits w u v) :
    waits w s v := by
  refine ⟨fun hl => h'.1 (h.1 hl), fun i t' ht => ?_⟩
  obtain ⟨t, h1, h2, h3, h4⟩ := h'.2 i t' ht
  obtain ⟨r, g1, g2, g3, g4⟩ := h.2 i t h1
  exact ⟨r, g1, h2.trans g2, h3.trans g3, fun hw => (h4 hw).elim g4 .inr⟩

theorem waits_waitOn {w : List Nat} {i : Nat} (hi : i ∈ w) (s : State) (b : Nat) :
    waits w s (waitOn s i b) := by
  unfold waitOn
  cases h : slotAt s i with
  | none =>
    refine ⟨fun hl => by simpa [slotsLaw, modSlot, setSlot, withSlots] using hl, fun j t ht => ?_⟩
    rw [slotAt_modSlot, h] at ht
    split at ht
    · cases ht
    · exact ⟨t, ht, rfl, rfl, .inl⟩
  | some t => rw [modSlot_eq _ h]; exact waits_setSlot hi h rfl rfl

theorem waits_orderingPoint {w : List Nat} {i : Nat} (hi : i ∈ w) (s : State) :
    waits w s (orderingPoint s i) := by
  cases h : slotAt s i with
  | none => exact waits_of_slots (by simp [orderingPoint, h])
  | some t =>
    rw [orderingPoint_eq h]
    exact (waits_setSlot (t' := { t with
      transNo := some s.table.transCounter
      pred := choosePred s i { t with transNo := none }
      lockWait := none }) hi h rfl rfl).trans (waits_of_slots rfl)

theorem waits_reexamineWaiter {w : List Nat} {i : Nat} (hi : i ∈ w) (s : State) :
    waits w s (reexamineWaiter s i) := by
  unfold reexamineWaiter
  split
  · exact waits_of_slots rfl
  · split
    · split
      · exact waits_waitOn hi s _
      · exact waits_waitOn hi s _
      · refine waits.trans (waits_of_slots ?_) (waits_orderingPoint hi _)
        rfl
    · split
      · exact waits_waitOn hi s _
      · exact waits_orderingPoint hi s

theorem waits_foldl {w : List Nat} : ∀ (l : List Nat), (∀ i ∈ l, i ∈ w) → ∀ s : State,
    waits w s (l.foldl reexamineWaiter s)
  | [], _, _ => waits_of_slots rfl
  | a :: l, h, s => (waits_reexamineWaiter (h a (by simp)) s).trans
      (waits_foldl l (fun i hi => h i (by simp [hi])) _)

/-- The slots that wait on an entry have a lock wait. -/
theorem mem_waitList {s : State} {b : Nat} {p : Nat × Txn} :
    p ∈ waitList s b ↔ slotAt s p.1 = some p.2 ∧ p.2.lockWait = some b := by
  simp [waitList, mem_byArrival, mem_liveSlots]

/-- Whatever entries are removed, the slots follow calmly: a waiter had a lock wait before. -/
theorem calms_removeLocks (s : State) (which : LockEntry → Bool) : calms s (removeLocks s which) := by
  unfold removeLocks
  dsimp only
  obtain ⟨hl, h⟩ := waits_foldl
    ((s.locks.filter which).flatMap fun e => (waitList s e.block).map fun p => p.1) (fun _ h => h)
    { s with locks := s.locks.filter fun e => !which e }
  refine ⟨hl, fun i t' ht => ?_⟩
  obtain ⟨t, h1, h2, h3, h4⟩ := h i t' ht
  have h1' : slotAt s i = some t := h1
  refine ⟨t, h1', ⟨h2, fun hf => ⟨by simpa [inFlight, h3] using hf.1, ?_⟩⟩, by simp [h3]⟩
  rcases h4 hf.2 with h | h
  · exact h
  · obtain ⟨e, -, hp⟩ := List.mem_flatMap.mp h
    obtain ⟨p, hp', rfl⟩ := List.mem_map.mp hp
    obtain ⟨hp1, hp2⟩ := mem_waitList.mp hp'
    rw [h1'] at hp1; cases hp1
    simp [hp2]

theorem calms_removeLock (s : State) (b : Nat) : calms s (removeLock s b) := calms_removeLocks s _

/-! ## The completion of DRAM work -/

theorem calms_releaseBank (s : State) (pos : Nat) : calms s (releaseBank s pos) :=
  calms_of_table (by simp)

theorem calms_closeService (s : State) (pos i : Nat) : calms s (closeService s pos i) := by
  unfold closeService
  exact (calms_reexamine s [i]).then (calms_of_table (by simp))

theorem calms_settleLockRead (s : State) (i : Nat) (st : MemStatus) :
    calms s (settleLockRead s i st) := by
  unfold settleLockRead
  split
  · exact calms_refl s
  · split
    · exact calms_removeLock s _
    · exact calms_of_table (by simp)

theorem calms_settleLockWrite (s : State) (i : Nat) : calms s (settleLockWrite s i) := by
  unfold settleLockWrite; split
  · exact calms_refl s
  · exact calms_removeLock s _

theorem calms_completeRead (s : State) (pos i : Nat) (t : Txn)
    (got : List (Nat × BlockStatus × Block)) : calms s (completeRead s pos i t got) := by
  unfold completeRead; dsimp only
  refine calms.then ?_ (calms_closeService _ pos i)
  refine calms.then ?_ (calms_settleLockRead _ i _)
  refine calms.then ?_ (calms_finish _ i _)
  refine calms.then ?_ (calms_of_table (forgetRecent_frame _ _ _).2.1)
  exact (calms_of_table (by simp)).then (calms_modSlot _ i _ fun t _ => calm_of_eq rfl rfl rfl)

theorem calms_leaveChannel (s : State) (y : Link) (i : Nat) : calms s (leaveChannel s y i) := by
  unfold leaveChannel; split
  · exact calms_modSlot s i _ fun t _ => calm_of_state rfl rfl (by simp)
  · exact calms_finish s i _

theorem calms_completeWrite (s : State) (pos i : Nat) (t : Txn) :
    calms s (completeWrite s pos i t) := by
  unfold completeWrite; dsimp only
  refine calms.then ?_ (calms_closeService _ pos i)
  refine calms.then ?_ (calms_settleLockWrite _ i)
  exact (calms_of_table (by simp)).then (calms_leaveChannel _ _ i)

theorem calms_failMerge (s : State) (pos i : Nat) (t : Txn) : calms s (failMerge s pos i t) := by
  unfold failMerge; dsimp only
  refine calms.then ?_ (calms_closeService _ pos i)
  refine calms.then ?_ (calms_settleLockWrite _ i)
  refine calms.then ?_ (calms_finish _ i _)
  exact (calms_of_table (by simp)).then (calms_modSlot _ i _ fun t _ => calm_of_eq rfl rfl rfl)

theorem calms_reportWrite (s : State) (pos i : Nat) : calms s (reportWrite s pos i) := by
  unfold reportWrite; split
  · exact calms_releaseBank s pos
  · split
    · exact calms_releaseBank s pos
    · exact calms_completeWrite s pos i _

theorem calms_completeEmpty (s : State) (pos : Nat) : calms s (completeEmpty s pos) := by
  unfold completeEmpty; split
  · exact calms_refl s
  · split
    · exact calms_refl s
    · split
      · exact calms_reportWrite s pos _
      · exact calms_refl s

theorem calms_afterLastRead (s : State) (pos : Nat) (v : Service) (t : Txn) :
    calms s (afterLastRead s pos v t) := by
  unfold afterLastRead; split
  · exact calms_releaseBank s pos
  · split
    · exact calms_completeRead s pos _ t _
    · split
      · exact calms_failMerge s pos _ t
      · exact calms_of_table (by simp)

/-! ## The steps of the DRAM channel and the Notice Unit -/

theorem calms_settle (s : State) : calms s (settle s) := calms_of_table (by simp)

/-- Records whose link, state and lock wait stay follow calmly. -/
theorem calms_of_waits {s u : State} (h : waits [] s u) : calms s u := by
  refine ⟨h.1, fun i t' ht => ?_⟩
  obtain ⟨t, h1, h2, h3, h4⟩ := h.2 i t' ht
  refine ⟨t, h1, ⟨h2, fun hf => ⟨by simpa [inFlight, h3] using hf.1, ?_⟩⟩, by simp [h3]⟩
  simpa using h4 hf.2

/-- A bypass count raised leaves link, state and lock wait. -/
theorem waits_raiseBypass (limit : Nat) (s : State) (i : Nat) : waits [] s (raiseBypass limit s i) := by
  refine ⟨fun hl => by simpa [slotsLaw, raiseBypass, modSlot, setSlot, withSlots] using hl,
    fun j t' ht => ?_⟩
  unfold raiseBypass at ht
  rw [slotAt_modSlot] at ht
  split at ht
  · rename_i hj
    obtain ⟨t, hi, rfl⟩ := Option.map_eq_some_iff.mp ht
    exact ⟨t, hj ▸ hi, rfl, rfl, .inl⟩
  · exact ⟨t', ht, rfl, rfl, .inl⟩

theorem waits_bypassed (limit : Nat) : ∀ (l : List Nat) (s : State),
    waits [] s (l.foldl (raiseBypass limit) s)
  | [], _ => waits_of_slots rfl
  | a :: l, s => (waits_raiseBypass limit s a).trans (waits_bypassed limit l _)

/-- A transaction that is issued waits for no lock entry (03 R54). -/
theorem calms_issueAt {s : State} {pos i : Nat} {t : Txn} (h : slotAt s i = some t)
    (hw : t.lockWait = none) : calms s (issueAt s pos i t) := by
  have key : ∀ u : State, waits [] s u → calms s (modSlot u i fun t => { t with
      state := onChannelState t }) := by
    intro u hu
    refine (calms_of_waits hu).then (calms_modSlot u i _ fun t' ht' => ?_)
    obtain ⟨r, h1, h2, h3, h4⟩ := hu.2 i t' ht'
    rw [h] at h1; cases h1
    have hn : t'.lockWait = none := by
      by_contra hc
      simpa [hw] using h4 hc
    refine ⟨⟨rfl, fun hf => absurd hn hf.2⟩, fun hf => ?_⟩
    have : onChannelState t' = .fenceWait := hf
    unfold onChannelState at this
    split at this <;> cases this
  unfold issueAt; dsimp only
  refine calms.then ?_ (calms_completeEmpty _ pos)
  refine calms.then (key _ ?_) (calms_of_slots rfl)
  refine waits.trans ?_ (waits_of_slots (congrArg TxnTable.slots
    ((touchOpenRows_frame ..).2.1.trans (modBank_frame ..).2.1)))
  exact waits.trans (waits_of_slots (by split <;> simp)) (waits_bypassed _ _ _)

/-- An eligible transaction waits for no lock entry. -/
theorem lockWait_of_eligible {s : State} {t : Txn} (h : eligible s t = true) : t.lockWait = none := by
  simp only [eligible, Bool.and_eq_true] at h
  simpa using h.1.1.1.2

theorem calms_issueGranted (s : State) : calms s (issueGranted s) := by
  unfold issueGranted; split
  · exact calms_refl s
  · split
    · exact calms_refl s
    · rename_i pos _ _ p hp
      obtain ⟨h1, h2⟩ := choice_spec (i := p.1) (t := p.2) hp
      exact (calms_issueAt h1 (lockWait_of_eligible h2)).then (calms_settle _)

theorem calms_completeActivation (s : State) (pos : Nat) : calms s (completeActivation pos s) := by
  unfold completeActivation
  refine calms.then ?_ (calms_settle _)
  split
  · exact calms_of_table (by simp)
  · exact (calms_of_table (by simp)).then (calms_completeEmpty _ pos)

theorem calms_sendWriteColumn (s : State) (pos : Nat) : calms s (sendWriteColumn pos s) := by
  unfold sendWriteColumn; split
  · exact calms_refl s
  · refine calms.then ?_ (calms_settle _)
    split
    · refine calms.then (calms_of_slots ?_) (calms_reportWrite _ pos _)
      rfl
    · exact calms_of_slots rfl

theorem calms_arriveData (s : State) (es : List ErrMask) : calms s (arriveData es s) := by
  unfold arriveData; split
  · exact calms_refl s
  · dsimp only
    refine calms.then ?_ (calms_settle _)
    split
    · exact (calms_of_table (by simp)).then (calms_afterLastRead _ _ _ _)
    · exact calms_of_table (by simp)

theorem calms_takeNoticeAck (s : State) (x : Link) (n : Byte) : calms s (takeNoticeAck x n s) := by
  unfold takeNoticeAck; split
  · exact calms_of_table (by simp)
  · rename_i line _
    exact ((calms_dropWaiters s x line false).then (calms_of_table (by simp))).then (calms_settle _)

theorem calms_expireNotice (s : State) (y : Link) (n : Byte) : calms s (expireNotice y n s) := by
  unfold expireNotice; split
  · exact calms_refl s
  · rename_i line _
    exact ((calms_dropWaiters s y line true).then (calms_of_table (by simp))).then (calms_settle _)

theorem calms_expireLock (s : State) (b : Nat) : calms s (expireLock b s) := by
  unfold expireLock; split
  · exact calms_refl s
  · exact ((calms_of_table (by simp)).then (calms_removeLock _ b)).then (calms_settle _)

theorem calms_handResponse (s : State) (x : Link) : calms s (handResponse x s) := by
  unfold handResponse; split
  · exact calms_refl s
  · split
    · exact calms_refl s
    · refine calms.then ?_ (calms_settleFence _ x)
      exact ((calms_of_table (by simp)).then (calms_freeTxn _ _)).then (calms_of_slots rfl)

/-! ## Link resets -/

theorem slotAt_resetSlots (s u : State) (x : Link) (h : u.table.slots = s.table.slots.map (resetSlot x))
    (i : Nat) : slotAt u i = resetSlot x (slotAt s i) := by
  simp only [slotAt, h, List.getD_eq_getElem?_getD, List.getElem?_map]
  cases s.table.slots[i]? <;> rfl

/-- A link reset frees slots and marks orphans, and nothing else before predecessors are chosen again. -/
theorem calm_of_resetSlot {x : Link} {o : Option Txn} {t' : Txn} (h : resetSlot x o = some t') :
    ∃ t, o = some t ∧ calm t t' := by
  cases o with
  | none => cases h
  | some t =>
    refine ⟨t, rfl, ?_⟩
    simp only [resetSlot] at h
    split at h
    · split at h
      · cases h
      · cases h; exact calm_of_eq rfl rfl rfl
    · cases h; exact calm_refl _

theorem calms_tableLinkReset (s : State) (x : Link) : calms s (tableLinkReset s x) := by
  unfold tableLinkReset
  refine calms.then ⟨fun hl => by simpa [slotsLaw] using hl, fun i t' ht => ?_⟩ (calms_reexamine _ _)
  rw [slotAt_resetSlots s _ x rfl] at ht
  exact calm_of_resetSlot (x := x) ht

theorem calms_linkResetEvent (s : State) (x : Link) (cause : Cause) :
    calms s (linkResetEvent s x cause) := by
  unfold linkResetEvent; dsimp only
  refine calms.then ?_ (calms_settle _)
  refine calms.then ?_ (calms_of_table (tenureLinkReset_frame _ _).2.1)
  refine calms.then ?_ (calms_of_table (mgmtLinkReset_frame _ _).2.1)
  refine calms.then ?_ (calms_discardTarget _ x)
  refine calms.then ?_ (calms_removeLocks _ _)
  exact (calms_of_table (by simp)).then (calms_tableLinkReset _ x)

theorem calms_hubLinkReset (s : State) (x : Link) (cause : Cause) :
    calms s (hubLinkReset s x cause) :=
  (calms_of_table (putOnWire_frame ..).2.1).then (calms_linkResetEvent _ x cause)

end Sys2Proof.Machine
end


section
/-! SUPPORT. The intake step on the slots, the number of live slots, and the Transaction Table's own laws. -/

namespace Sys2Proof.Machine

/-! ## The intake step -/

theorem calms_orderingPoint (s : State) (i : Nat) : calms s (orderingPoint s i) := by
  cases h : slotAt s i with
  | none => exact calms_of_slots (by simp [orderingPoint, h])
  | some t =>
    rw [orderingPoint_eq h]
    refine (calms_setSlot s i (some { t with
      transNo := some s.table.transCounter
      pred := choosePred s i { t with transNo := none }
      lockWait := none }) ?_).then (calms_of_slots rfl)
    rintro _ ⟨⟩
    exact ⟨t, h, ⟨rfl, fun hf => absurd rfl hf.2⟩, id⟩

theorem calms_queueFree (s : State) (i : Nat) : calms s (queueFree s i) :=
  (calms_modSlot s i (fun t => { t with state := .queued })
    fun _ _ => calm_of_state rfl rfl (by simp)).then (calms_orderingPoint _ i)

theorem calms_queueBlocked {s : State} {i b : Nat} {t u : Txn} (h : slotAt s i = some u)
    (hl : t.link = u.link) : calms s (queueBlocked (setSlot s i (some t)) i b) := by
  rw [queueBlocked_eq h]
  exact calms_setSlot s i _ (by rintro _ ⟨⟩; exact ⟨u, h, calm_of_state hl rfl (by simp)⟩)

/-- A record of the Translation Unit's keeps link and state, so the slots follow from before it. -/
theorem calms_setRecord {s : State} {i : Nat} {t u : Txn} (h : slotAt s i = some u)
    (hl : t.link = u.link) (hs : t.state = u.state) (hw : t.lockWait = u.lockWait) :
    calms s (setSlot s i (some t)) :=
  calms_setSlot s i _ (by rintro _ ⟨⟩; exact ⟨u, h, calm_of_eq hl hs hw⟩)

theorem calms_placeRequest {s : State} {i p : Nat} {t u : Txn} (h : slotAt s i = some u)
    (hl : t.link = u.link) (hs : t.state = u.state) (hw : t.lockWait = u.lockWait) :
    calms s (placeRequest (setSlot s i (some t)) i t p) := by
  have hset := calms_setRecord h hl hs hw
  unfold placeRequest
  split
  · unfold placeLockRead; split
    · exact hset.then (calms_enterReply _ i _)
    · split
      · split
        · exact hset.then (calms_enterReply _ i _)
        · exact calms_queueBlocked h hl
      · exact (hset.then (calms_of_table (takeLock_frame ..).2.1)).then (calms_queueFree _ i)
  · unfold placeLockWrite; split
    · exact (hset.then (calms_of_table (modLock_frame ..).2.1)).then (calms_queueFree _ i)
    · exact hset.then (calms_enterReply _ i _)
  · unfold placeLockDrop; split
    · exact (hset.then (calms_removeLock _ p)).then (calms_enterReply _ i _)
    · exact hset.then (calms_enterReply _ i _)
  · unfold placeAccess; split
    · exact calms_queueBlocked h hl
    · exact hset.then (calms_queueFree _ i)

theorem calms_consult {s : State} {i : Nat} {t : Txn} (h : slotAt s i = some t) :
    calms s (consult s i t) := by
  unfold consult; dsimp only; split
  · exact (calms_setRecord (t := { t with epoch := some s.xlate.epoch }) h rfl rfl rfl).then
      (calms_enterReply _ i _)
  · exact calms_placeRequest h rfl rfl rfl

/-- The intake step of a slot: calm, but for a FENCE that enters FENCE-WAIT. -/
theorem intakeStep_calm_or_fence {s : State} {i : Nat} {t : Txn} (h : slotAt s i = some t) :
    calms s (intakeStep s i t) ∨ intakeStep s i t = placeFence s i t := by
  unfold intakeStep
  split
  · exact .inl (calms_enterReply s i _)
  · split
    · exact .inl (calms_enterReply s i _)
    · split
      · exact .inr rfl
      · split
        · exact .inl (calms_enterReply s i _)
        · split
          · exact .inl (calms_enterReply s i _)
          · exact .inl (calms_consult h)

/-! ## The number of live slots (01 R3, R4) -/

/-- The live slots stand in order of their numbers. -/
theorem liveSlots_sorted (s : State) : (liveSlots s).Pairwise fun p q => p.1 < q.1 := by
  unfold liveSlots liveIn
  rw [List.pairwise_filterMap]
  have h : s.table.slots.zipIdx.Pairwise fun p q => p.2 < q.2 := by
    rw [← List.pairwise_map (f := Prod.snd), List.zipIdx_map_snd]
    exact List.pairwise_lt_range'
  refine h.imp ?_
  rintro ⟨o, i⟩ ⟨o', j⟩ hij p hp q hq
  obtain ⟨_, -, rfl⟩ := Option.map_eq_some_iff.mp hp
  obtain ⟨_, -, rfl⟩ := Option.map_eq_some_iff.mp hq
  exact hij

theorem nodup_liveOf (s : State) (x : Link) : ((liveOf s x).map Prod.fst).Nodup :=
  (List.pairwise_map.mpr (((liveSlots_sorted s).filter _).imp Nat.ne_of_lt))

/-- Where every live slot of a link was one of its live slots before, they are no more. -/
theorem length_liveOf_le {s u : State} (h : slotsFollow (fun t t' => t'.link = t.link) s u) (x : Link) :
    (liveOf u x).length ≤ (liveOf s x).length := by
  have hsub : (liveOf u x).map Prod.fst ⊆ (liveOf s x).map Prod.fst := by
    intro i hi
    obtain ⟨p, hp, rfl⟩ := List.mem_map.mp hi
    obtain ⟨hp, hl⟩ := mem_liveOf.mp hp
    obtain ⟨t, ht, hlt⟩ := h.2 _ _ hp
    exact List.mem_map.mpr ⟨(p.1, t), mem_liveOf.mpr ⟨ht, hlt.symm.trans hl⟩, rfl⟩
  simpa using (List.subperm_of_subset (nodup_liveOf u x) hsub).length_le

/-! ## The laws read from the slots -/

theorem liveLaw_of {s u : State} (h : slotsFollow steady s u)
    (hl : ∀ x, (linkOf u x).currentLimit = (linkOf s x).currentLimit) (hs : liveLaw s) : liveLaw u :=
  fun x => (length_liveOf_le (h.mono fun _ _ hr => hr.1) x).trans ((hs x).trans_eq (hl x).symm)

theorem flightLaw_of {s u : State} (h : slotsFollow steady s u) (hs : flightLaw s) : flightLaw u := by
  intro i t' ht hf
  by_contra hc
  obtain ⟨t, hi, -, hfl⟩ := h.2 i t' ht
  obtain ⟨h1, h2⟩ := hfl ⟨hf, hc⟩
  exact h2 (hs i t hi h1)

theorem fenceLaw_of {s u : State} (h : calms s u) (hs : fenceLaw s) : fenceLaw u := by
  intro i j t' v' hi hj ht hv hl
  obtain ⟨t, gi, ⟨ht1, -⟩, ht2⟩ := h.2 i t' hi
  obtain ⟨v, gj, ⟨hv1, -⟩, hv2⟩ := h.2 j v' hj
  exact hs i j t v gi gj (ht2 ht) (hv2 hv) (by rw [← ht1, ← hv1, hl])

theorem calms.steady {s u : State} (h : calms s u) : slotsFollow Machine.steady s u :=
  h.mono fun _ _ hr => hr.1

/-- A FENCE enters FENCE-WAIT: nothing appears but a waiting FENCE. -/
theorem placeFence_steady {s : State} {i : Nat} {t : Txn} (h : slotAt s i = some t) :
    slotsFollow steady s (placeFence s i t) :=
  slotsFollow.trans (R := steady) (fun _ _ _ => steady_trans)
    (slotsFollow_setSlot (fun t => (calm_refl t).1) s i (some { t with state := .fenceWait })
    (by rintro _ ⟨⟩; exact ⟨t, h, rfl, fun hf => by simp [flawed, inFlight] at hf⟩))
    (calms_settleFence _ t.link).steady

/-- With no FENCE of its link waiting a FENCE that enters FENCE-WAIT is the only one. -/
theorem fenceLaw_placeFence {s : State} {i : Nat} {t : Txn} (hw : fenceWaiting s t.link = false)
    (hs : fenceLaw s) : fenceLaw (placeFence s i t) := by
  have hno : ∀ j u, slotAt s j = some u → u.link = t.link → u.state ≠ .fenceWait := by
    intro j u hj hl hst
    have : fenceWaiting s t.link = true := by
      unfold fenceWaiting
      exact List.any_eq_true.mpr ⟨(j, u), mem_liveOf.mpr ⟨hj, hl⟩, by simpa using hst⟩
    rw [hw] at this; cases this
  refine fenceLaw_of (calms_settleFence _ _) ?_
  intro j k u v hj hk hu hv hl
  rw [slotAt_setSlot] at hj hk
  split at hj <;> split at hk
  · omega
  · cases hj; exact absurd hv (hno k v hk hl.symm)
  · cases hk; exact absurd hu (hno j u hj hl)
  · exact hs j k u v hj hk hu hv hl

theorem fenceLaw_takeIntake {s : State} (x : Link) (hs : fenceLaw s) : fenceLaw (takeIntake x s) := by
  unfold takeIntake; split
  · exact hs
  · rename_i p hp
    obtain ⟨h1, h2, -, h4, -⟩ := intakeReady_spec (i := p.1) (t := p.2) hp
    refine fenceLaw_of (calms_settle _) ?_
    rcases intakeStep_calm_or_fence h1 with h | h
    · exact fenceLaw_of h hs
    · rw [h]; exact fenceLaw_placeFence (by rw [h2]; exact h4) hs

theorem steady_takeIntake (s : State) (x : Link) : slotsFollow steady s (takeIntake x s) := by
  unfold takeIntake; split
  · exact (calms_refl s).steady
  · rename_i p hp
    obtain ⟨h1, -⟩ := intakeReady_spec (i := p.1) (t := p.2) hp
    refine slotsFollow.trans (R := Machine.steady) (fun _ _ _ => steady_trans) ?_ (calms_settle _).steady
    rcases intakeStep_calm_or_fence h1 with h | h
    · exact h.steady
    · rw [h]; exact placeFence_steady h1

/-! ## Every command on the slots -/

theorem table_empty (s : State) (h : s.table = emptyTable) (i : Nat) : slotAt s i = none := by
  simp only [slotAt, h, emptyTable, List.getD_eq_getElem?_getD, List.getElem?_replicate]
  split <;> rfl

theorem calms_of_empty {s u : State} (h : u.table = emptyTable) : calms s u := by
  refine ⟨fun _ => by rw [slotsLaw, h]; rfl, fun i t ht => ?_⟩
  rw [table_empty u h] at ht; cases ht

/-- A management packet's effect leaves the table and the Link Controllers. -/
theorem MgmtChange.table {x : Link} {s u : State} (h : MgmtChange x s u) :
    u.table = s.table ∧ u.links = s.links := by
  cases h
  case resets v hv =>
    rcases hv with rfl | rfl <;> simp
  all_goals simp

/-- A management packet leaves the slots. -/
theorem arriveMgmt_table {x : Link} {k : MgmtKind} {eff : State → State × Decision} {s : State}
    (h : MgmtChange x s (eff s).1) : (arriveMgmt x k eff s).table = s.table := by
  unfold arriveMgmt; (repeat' split) <;> simp [h.table]

/-- Every command but a request, an intake step and the cold reset follows the slots calmly. -/
theorem calms_effectOf (c : Instr) (s : State) (hr : requestOf c = none)
    (hi : ∀ x, c ≠ .intakeStep x) : calms s (effectOf c s) := by
  cases hm : mgmtOf c with
  | some m =>
    obtain ⟨eff, e, hch⟩ := effectOf_mgmtOf (x := m.1) (seq := m.2.1) (k := m.2.2) hm
    rw [e]; exact calms_of_table (arriveMgmt_table (hch s))
  | none =>
    cases c
    case intakeStep x => exact absurd rfl (hi x)
    case coldReset => exact calms_of_empty rfl
    case resetPoint => exact calms_of_empty rfl
    case issue => exact calms_issueGranted s
    case activationComplete pos => exact calms_completeActivation s pos
    case readColumnDataArrival => exact calms_arriveData s _
    case writeColumnSent pos => exact calms_sendWriteColumn s pos
    case noticeAck x _ n => exact calms_takeNoticeAck s x n
    case noticeTimerExpiry y n => exact calms_expireNotice s y n
    case lockHoldExpiry b => exact calms_expireLock s b
    case sendResponse x => exact calms_handResponse s x
    case train x _ _ seen =>
      simp only [effectOf]; split
      · exact calms_of_table (by simp)
      · unfold takeLateTrain; split
        · exact calms_of_table (by simp)
        · exact calms_linkResetEvent s x _
    case linkReset x => exact calms_linkResetEvent s x _
    case retryTimerExpiry x =>
      simp only [effectOf, expireRetry]; split
      · exact calms_of_table (by simp)
      · exact calms_hubLinkReset s x _
    case replayTimerExpiry x =>
      simp only [effectOf, expireReplay]; split
      · exact calms_of_table (by simp)
      · exact calms_hubLinkReset s x _
    case read | write | lockRead | lockWrite | lockDrop | fence => cases hr
    case mgmtRead | mgmtWrite | writeTenureMode | writeRefreshMode | writeForceLevel | writeCueLink |
        writeFilterEnable | writeCreditLimit | writeAlertLink | writeLease | writeCorrThreshold |
        writeOpenLimit | tableRead | tableWrite | tableRevert | tableCommit | claim | release |
        channelStart | channelQuiesce | channelResume | hubReset => cases hm
    all_goals exact calms_of_table (by simp [effectOf])

end Sys2Proof.Machine
end


section
/-! SUPPORT. Link Controllers from one state to the next: which operations let a count of 10 R167 rise, and
that only the first TRAIN changes a current limit. -/

namespace Sys2Proof.Machine

/-! ## Link Controllers followed from state to state -/

/-- The Link Controller of each link in `u` is related to the one in `s`. -/
def linksFollow (R : LinkCtl → LinkCtl → Prop) (s u : State) : Prop := ∀ x, R (linkOf s x) (linkOf u x)

/-- The current limit stands. -/
def sameLimit (l l' : LinkCtl) : Prop := l'.currentLimit = l.currentLimit

/-- Nor does any count of the Link Controller rise. -/
def modest (l l' : LinkCtl) : Prop :=
  l'.currentLimit = l.currentLimit ∧ l'.replay.length ≤ l.replay.length ∧ l'.unacked ≤ l.unacked ∧
    l'.retryCount ≤ l.retryCount ∧ l'.replayCount ≤ l.replayCount

theorem modest_refl (l : LinkCtl) : modest l l := ⟨rfl, le_rfl, le_rfl, le_rfl, le_rfl⟩

theorem modest_trans {l m n : LinkCtl} (h : modest l m) (h' : modest m n) : modest l n :=
  ⟨h'.1.trans h.1, h'.2.1.trans h.2.1, h'.2.2.1.trans h.2.2.1, h'.2.2.2.1.trans h.2.2.2.1,
    h'.2.2.2.2.trans h.2.2.2.2⟩

/-- The Link Controllers of `u` are those of `s`, with no count higher. -/
abbrev modestly (s u : State) : Prop := linksFollow modest s u

theorem modestly_of_links {s u : State} (h : u.links = s.links) : modestly s u := fun x => by
  rw [linkOf_congr h]; exact modest_refl _

theorem modestly_refl (s : State) : modestly s s := modestly_of_links rfl

theorem modestly.then {s u v : State} (h : modestly s u) (h' : modestly u v) : modestly s v :=
  fun x => modest_trans (h x) (h' x)

/-- The current limits of `u` are those of `s`. -/
abbrev limitsStand (s u : State) : Prop := linksFollow sameLimit s u

theorem modestly.limitsStand {s u : State} (h : modestly s u) : Machine.limitsStand s u :=
  fun x => (h x).1

theorem modestly_foldl {β : Type} (f : State → β → State) (h : ∀ s b, modestly s (f s b)) :
    ∀ (l : List β) (s : State), modestly s (l.foldl f s)
  | [], s => modestly_refl s
  | b :: l, s => (h s b).then (modestly_foldl f h l (f s b))

/-- One Link Controller changed. -/
theorem linksFollow_modLink {R : LinkCtl → LinkCtl → Prop} (hR : ∀ l, R l l) (s : State) (x : Link)
    (f : LinkCtl → LinkCtl) (h : R (linkOf s x) (f (linkOf s x))) : linksFollow R s (modLink s x f) := by
  intro y
  by_cases hy : y = x
  · subst hy; rw [linkOf_modLink]; exact h
  · rw [linkOf_modLink_ne _ _ _ _ hy]; exact hR _

theorem modestly_modLink (s : State) (x : Link) (f : LinkCtl → LinkCtl)
    (h : ∀ l, modest l (f l)) : modestly s (modLink s x f) :=
  linksFollow_modLink modest_refl s x f (h _)

/-! ## Notices and management packets -/

theorem modestly_sendEntry (s : State) (y : Link) (line : Nat) : modestly s (sendEntry s y line) :=
  (modestly_of_links (by
    rw [(modTarget_frame ..).1, (modEntry_frame ..).1])).then (modestly_modLink _ y _ fun l => modest_refl l)

theorem modestly_performEntry (y : Link) (i : Nat) (s : State) (line : Nat) :
    modestly s (performEntry y i s line) := by
  unfold performEntry; dsimp only; split
  · exact (modestly_of_links (by simp)).then (modestly_sendEntry _ y line)
  · exact modestly_of_links (by simp)

theorem modestly_performNotices (s : State) (i : Nat) (t : Txn) :
    modestly s (performNotices s i t) :=
  (modestly_foldl _ (modestly_performEntry _ i) _ s).then
    (modestly_of_links (modTarget_frame ..).1)

theorem modestly_reportWrite (s : State) (pos i : Nat) : modestly s (reportWrite s pos i) := by
  unfold reportWrite; split
  · exact modestly_of_links (by simp)
  · split
    · exact modestly_of_links (by simp)
    · rename_i t _
      have h : modestly s (performNotices (stopServing s pos) i t) :=
        (modestly_of_links (stopServing_frame s pos).1).then (modestly_performNotices _ i t)
      exact h.then (modestly_of_links (by simp [completeWrite]))

theorem modestly_completeEmpty (s : State) (pos : Nat) : modestly s (completeEmpty s pos) := by
  unfold completeEmpty; split
  · exact modestly_refl s
  · split
    · exact modestly_refl s
    · split
      · exact modestly_reportWrite s pos _
      · exact modestly_refl s

theorem modestly_discardPacket (s : State) (x : Link) : modestly s (discardPacket s x) := by
  unfold discardPacket; split
  · exact modestly_of_links (by simp)
  · exact (modestly_of_links rfl).then (modestly_modLink _ x _ fun l => modest_refl l)

theorem modestly_arriveMgmt {x : Link} {k : MgmtKind} {eff : State → State × Decision} {s : State}
    (h : MgmtChange x s (eff s).1) : modestly s (arriveMgmt x k eff s) := by
  unfold arriveMgmt
  split
  · exact modestly_discardPacket s x
  · split
    · exact modestly_of_links (by simp)
    · exact modestly_of_links (by simp [h.table])

/-! ## The Link Controller's own steps -/

theorem modest_clearUnacked (l : LinkCtl) : modest l (clearUnacked l) :=
  ⟨rfl, le_rfl, Nat.zero_le _, le_rfl, le_rfl⟩

theorem modest_leaveRetry (l : LinkCtl) : modest l (leaveRetry l) :=
  ⟨rfl, le_rfl, le_rfl, Nat.zero_le _, le_rfl⟩

theorem modestly_sendAck (s : State) (x : Link) : modestly s (sendAck s x) :=
  (modestly_of_links rfl).then (modestly_modLink _ x _ modest_clearUnacked)

theorem modestly_sendRetryReq (s : State) (x : Link) : modestly s (sendRetryReq s x) :=
  (modestly_of_links rfl).then (modestly_modLink _ x _ modest_clearUnacked)

theorem modestly_linkResetEvent (s : State) (x : Link) (cause : Cause) :
    modestly s (linkResetEvent s x cause) := by
  unfold linkResetEvent; dsimp only
  refine modestly.then ?_ (modestly_of_links (settle_frame _).1)
  refine modestly.then ?_ (modestly_of_links ((tenureLinkReset_frame ..).1.trans
    ((mgmtLinkReset_frame ..).1.trans ((discardTarget_frame ..).1.trans
      ((removeLocks_frame ..).1.trans (tableLinkReset_frame ..).1)))))
  refine modestly.then (modestly_of_links (raiseAlert_frame ..).1) (modestly_modLink _ x
    (resetLinkCtl (cause = .restart)) fun l => ?_)
  exact ⟨rfl, Nat.zero_le _, Nat.zero_le _, Nat.zero_le _, Nat.zero_le _⟩

theorem modestly_hubLinkReset (s : State) (x : Link) (cause : Cause) :
    modestly s (hubLinkReset s x cause) :=
  (modestly_of_links (putOnWire_frame ..).1).then (modestly_linkResetEvent _ x cause)

theorem modestly_sendTrain (s : State) (x : Link) : modestly s (sendTrain s x) :=
  (modestly_of_links rfl).then (modestly_modLink _ x _ fun l => modest_refl l)

theorem modestly_takeTrain (s : State) (x : Link) (seen : Bool) : modestly s (takeTrain x seen s) := by
  have hn : modestly s (modLink s x noteSeen) := modestly_modLink s x noteSeen fun l => modest_refl l
  have hu : ∀ u, modestly u (modLink u x enterUp) := fun u =>
    modestly_modLink u x enterUp fun l => modest_refl l
  unfold takeTrain
  split
  · exact hn
  · split
    · dsimp only; split
      · exact (hn.then (modestly_sendTrain _ x)).then (hu _)
      · exact hn.then (modestly_sendTrain _ x)
    · split
      · exact hu s
      · exact modestly_of_links rfl

theorem modestly_takeLateTrain (s : State) (x : Link) (seen : Bool) :
    modestly s (takeLateTrain x seen s) := by
  unfold takeLateTrain; split
  · exact modestly_of_links rfl
  · exact modestly_linkResetEvent s x _

/-- The replay buffer keeps no more than it held. -/
theorem modest_withReplay {kept : List (Seq × HubPacket)} (resend : Bool) {l : LinkCtl}
    (h : kept.length ≤ l.replay.length) : modest l (withReplay kept resend l) := by
  refine ⟨rfl, h, le_rfl, le_rfl, ?_⟩
  unfold withReplay; dsimp only; split
  · exact Nat.zero_le _
  · exact le_rfl

theorem length_fromPacket_le (replay : List (Seq × HubPacket)) (n : Byte) :
    (fromPacket replay n).length ≤ replay.length := (List.dropWhile_sublist _).length_le

theorem modestly_judgeMark (s : State) (x : Link) (mark : Byte) : modestly s (judgeMark s x mark) := by
  unfold judgeMark; split
  · exact modestly_modLink s x _ modest_leaveRetry
  · exact modestly_refl s

theorem modestly_actOnAck (s : State) (x : Link) (acked : Byte) : modestly s (actOnAck s x acked) := by
  unfold actOnAck; split
  · refine modestly_modLink s x _ fun l => modest_withReplay false ?_
    exact (List.drop_sublist _ _).length_le.trans (length_fromPacket_le _ _)
  · exact modestly_refl s

theorem modestly_actOnRetryReq (s : State) (x : Link) (wanted : Byte) :
    modestly s (actOnRetryReq s x wanted) := by
  unfold actOnRetryReq; split
  · refine (modestly_of_links rfl).then (linksFollow_modLink modest_refl _ x _ ?_)
    exact modest_withReplay true (length_fromPacket_le _ _)
  · split
    · exact (modestly_modLink s x _ fun l => modest_withReplay false (Nat.zero_le _)).then
        (modestly_sendAck _ x)
    · exact modestly_refl s

/-- The Link Controllers at the reset point. -/
theorem modestly_takeResetPoint (s : State) : modestly s (takeResetPoint s) := by
  have h : ∀ x, modest (linkOf s x) (warmLink s x) := by
    intro x; unfold warmLink; dsimp only; split <;> exact modest_refl _
  intro x; cases x
  · exact h .a
  · exact h .b

/-! ## Every command on the Link Controllers -/

/-- The commands that let a count rise, or that set a current limit. -/
def raisesCount : Instr → Bool
  | .coldReset => true
  | .sendResponse _ => true
  | .sendMgmtReply _ => true
  | .sendNotice _ => true
  | .sendAlert => true
  | .sendCredit _ => true
  | .restartingCredit _ => true
  | .sendFirstTrain _ => true
  | .receiveBadPacket _ _ => true
  | .retryTimerExpiry _ => true
  | .replayTimerExpiry _ => true
  | _ => false

theorem modestly_effectOf (c : Instr) (s : State) (hc : raisesCount c = false) :
    modestly s (effectOf c s) := by
  cases hm : mgmtOf c with
  | some m =>
    obtain ⟨eff, e, hch⟩ := effectOf_mgmtOf (x := m.1) (seq := m.2.1) (k := m.2.2) hm
    rw [e]; exact modestly_arriveMgmt (hch s)
  | none =>
    cases c
    case coldReset | sendResponse | sendMgmtReply | sendNotice | sendAlert | sendCredit |
      restartingCredit | sendFirstTrain | receiveBadPacket | retryTimerExpiry |
      replayTimerExpiry => cases hc
    case issue =>
      simp only [effectOf, issueGranted]; split
      · exact modestly_refl s
      · split
        · exact modestly_refl s
        · refine modestly.then ?_ (modestly_of_links (settle_frame _).1)
          refine modestly.then (modestly_of_links ?_) (modestly_completeEmpty _ _)
          simp only [modSlot_frame, touchOpenRows_frame, modBank_frame]
          rw [foldl_keeps State.links _ fun u i => (raiseBypass_frame u _ i).1]
          split <;> simp
    case activationComplete pos =>
      simp only [effectOf, completeActivation]
      refine modestly.then ?_ (modestly_of_links (settle_frame _).1)
      split
      · exact modestly_of_links (by simp)
      · exact (modestly_of_links (by simp)).then (modestly_completeEmpty _ pos)
    case writeColumnSent pos =>
      simp only [effectOf, sendWriteColumn]; split
      · exact modestly_refl s
      · refine modestly.then ?_ (modestly_of_links (settle_frame _).1)
        split
        · exact (modestly_of_links rfl).then (modestly_reportWrite _ pos _)
        · exact modestly_of_links rfl
    case resetPoint => exact modestly_takeResetPoint s
    case downTimerExpiry x => exact modestly_modLink s x _ fun l => modest_refl l
    case trainTimerExpiry x => exact modestly_sendTrain s x
    case train x _ _ seen =>
      simp only [effectOf]; split
      · exact modestly_takeTrain s x _
      · exact modestly_takeLateTrain s x _
    case linkAck x acked mark =>
      exact (modestly_judgeMark s x mark).then (modestly_actOnAck _ x acked)
    case retryReq x wanted mark =>
      exact (modestly_judgeMark s x mark).then (modestly_actOnRetryReq _ x wanted)
    case linkReset x => exact modestly_linkResetEvent s x _
    case ackTimerExpiry x => exact modestly_sendAck s x
    case mgmtRead | mgmtWrite | writeTenureMode | writeRefreshMode | writeForceLevel | writeCueLink |
        writeFilterEnable | writeCreditLimit | writeAlertLink | writeLease | writeCorrThreshold |
        writeOpenLimit | tableRead | tableWrite | tableRevert | tableCommit | claim | release |
        channelStart | channelQuiesce | channelResume | hubReset => cases hm
    all_goals exact modestly_of_links (by simp [effectOf])

end Sys2Proof.Machine
end


section
/-! PROOFS. The Transaction Table's own laws, which every step keeps (01 R3, R4, R5; 03 R54; 05 R91). -/

namespace Sys2Proof.Machine

/-! ## Current limits -/

theorem limitsStand.then {s u v : State} (h : limitsStand s u) (h' : limitsStand u v) :
    limitsStand s v := fun x => (h' x).trans (h x)

theorem limitsStand_of_links {s u : State} (h : u.links = s.links) : limitsStand s u :=
  (modestly_of_links h).limitsStand

theorem limitsStand_modLink (s : State) (x : Link) (f : LinkCtl → LinkCtl)
    (h : ∀ l, sameLimit l (f l)) : limitsStand s (modLink s x f) :=
  linksFollow_modLink (R := sameLimit) (fun _ => rfl) s x f (h _)

theorem limitsStand_sendSequenced (s : State) (x : Link) (p : HubPacket) :
    limitsStand s (sendSequenced s x p) :=
  (limitsStand_of_links rfl).then (limitsStand_modLink (putOnWire s x _) x _ fun _ => rfl)

theorem limitsStand_enterRetry (s : State) (x : Link) : limitsStand s (enterRetry s x) :=
  (modestly_sendRetryReq s x).limitsStand.then (limitsStand_modLink _ x _ fun _ => rfl)

theorem limitsStand_handCredit (s : State) (x : Link) : limitsStand s (handCredit x s) :=
  (limitsStand_sendSequenced s x _).then (limitsStand_modLink _ x _ fun _ => rfl)

/-- Only the cold reset and the first TRAIN of a training set a current limit. -/
theorem limitsStand_effectOf (c : Instr) (s : State) (hc : c ≠ .coldReset)
    (ht : ∀ x, c ≠ .sendFirstTrain x) : limitsStand s (effectOf c s) := by
  by_cases hr : raisesCount c = false
  · exact (modestly_effectOf c s hr).limitsStand
  · cases c <;> simp [raisesCount] at hr
    case coldReset => exact absurd rfl hc
    case sendFirstTrain x => exact absurd rfl (ht x)
    case sendResponse x =>
      simp only [effectOf, handResponse]; split
      · exact limitsStand_of_links rfl
      · split
        · exact limitsStand_of_links rfl
        · rename_i i rest _ _ t _
          refine limitsStand.then ?_ (limitsStand_of_links (settleFence_frame _ x).1)
          refine limitsStand.then ?_ (limitsStand_modLink _ x _ fun _ => rfl)
          exact (limitsStand_sendSequenced s x (responseOf t)).then (limitsStand_of_links rfl)
    case sendMgmtReply x =>
      simp only [effectOf, handReply]; split
      · exact limitsStand_of_links rfl
      · rename_i e rest _
        refine limitsStand.then ?_ (limitsStand_modLink _ x _ fun _ => rfl)
        exact (limitsStand_sendSequenced s x (replyOf e)).then (limitsStand_of_links rfl)
    case sendNotice x =>
      simp only [effectOf, handNotice]; split
      · exact limitsStand_of_links rfl
      · exact (limitsStand_sendSequenced s x _).then (limitsStand_modLink _ x _ fun _ => rfl)
    case sendAlert =>
      simp only [effectOf, handAlert]; split
      · exact limitsStand_of_links rfl
      · rename_i a rest _
        exact (limitsStand_sendSequenced s _ (.alert a)).then (limitsStand_of_links rfl)
    case sendCredit x => exact limitsStand_handCredit s x
    case restartingCredit x =>
      exact (limitsStand_handCredit s x).then (limitsStand_modLink _ x _ fun _ => rfl)
    case receiveBadPacket x why => exact limitsStand_enterRetry s x
    case retryTimerExpiry x =>
      simp only [effectOf, expireRetry]; split
      · exact (modestly_sendRetryReq s x).limitsStand.then (limitsStand_modLink _ x _ fun _ => rfl)
      · exact (modestly_hubLinkReset s x _).limitsStand
    case replayTimerExpiry x =>
      simp only [effectOf, expireReplay]; split
      · exact (limitsStand_of_links (putOnWire_frame ..).1).then
          (limitsStand_modLink _ x _ fun _ => rfl)
      · exact (modestly_hubLinkReset s x _).limitsStand

/-! ## A law of the table kept by every step -/

/-- What a law of the Transaction Table is kept by: a state whose slots are the same and whose limits stand. -/
theorem tableLaw_step {I : State → Prop} {s t : State} (h : step s = .next t) (hs : I s)
    (hI : ∀ u v, v.table = u.table → limitsStand u v → I u → I v)
    (he : ∀ c u, I u → guardHolds c u → I (effectOf c u)) : I t := by
  refine step_keeps_guarded h hs (fun u => hI u _ rfl ?_) (fun u q => hI u _ rfl fun _ => rfl)
    (fun u => hI u _ rfl fun _ => rfl) (fun u x => hI u _ (by simp) (currentLimit_accepted u x))
    (fun u x => hI u _ (by simp) (limitsStand_enterRetry u x)) he
  intro x; cases x <;> rfl

/-- Where the table is the same and the limits stand, each law of the table stands. -/
theorem liveLaw_same {u v : State} (ht : v.table = u.table) (hl : limitsStand u v) (h : liveLaw u) :
    liveLaw v := liveLaw_of (calms_of_table ht).steady hl h

/-- A request that arrives joins the live slots of its link while they are below the limit (01 R3). -/
theorem slotAt_arriveRequest {s : State} {r : Txn} {i : Nat} {t : Txn}
    (h : slotAt (arriveRequest r s) i = some t) :
    slotAt s i = some t ∨ (slotAt s i = none ∧ (liveOf s r.link).length < (linkOf s r.link).currentLimit ∧
      freeSlot s.table.slots = some i ∧ t = { r with arrival := s.table.arrivalCounter }) := by
  unfold arriveRequest at h
  split at h
  · left; rwa [slotAt_congr (raiseProtocol_frame ..).2.1] at h
  · rename_i hlt
    split at h
    · left; rwa [slotAt_congr (raiseProtocol_frame ..).2.1] at h
    · rename_i j hj
      have h' : slotAt (setSlot s j (some { r with arrival := s.table.arrivalCounter })) i = some t := h
      rw [slotAt_setSlot] at h'
      split at h'
      · rename_i hij
        cases h'
        obtain ⟨rfl, -⟩ := hij
        exact .inr ⟨(freeSlot_eq_some.mp hj).2.1, Nat.lt_of_not_le hlt, hj, rfl⟩
      · exact .inl h'

theorem liveLaw_arriveRequest {s : State} (r : Txn) (hs : liveLaw s) : liveLaw (arriveRequest r s) := by
  intro x
  rw [linkOf_congr (arriveRequest_frame s r).1]
  by_cases hall : ∀ p ∈ liveOf (arriveRequest r s) x, slotAt s p.1 = some p.2
  · have hsub : (liveOf (arriveRequest r s) x).map Prod.fst ⊆ (liveOf s x).map Prod.fst := by
      intro i hi
      obtain ⟨p, hp, rfl⟩ := List.mem_map.mp hi
      exact List.mem_map.mpr ⟨p, mem_liveOf.mpr ⟨hall p hp, (mem_liveOf.mp hp).2⟩, rfl⟩
    exact le_trans (by simpa using (List.subperm_of_subset (nodup_liveOf _ x) hsub).length_le) (hs x)
  · push Not at hall
    obtain ⟨p, hp, hne⟩ := hall
    obtain ⟨hp1, hp2⟩ := mem_liveOf.mp hp
    rcases slotAt_arriveRequest hp1 with h | ⟨-, hlt, hfree, heq⟩
    · exact absurd h hne
    · have hx : r.link = x := by rw [← hp2, heq]
      rw [hx] at hlt
      have hsub : (liveOf (arriveRequest r s) x).map Prod.fst ⊆ p.1 :: (liveOf s x).map Prod.fst := by
        intro i hi
        obtain ⟨q, hq, rfl⟩ := List.mem_map.mp hi
        obtain ⟨hq1, hq2⟩ := mem_liveOf.mp hq
        rcases slotAt_arriveRequest hq1 with h | ⟨-, -, hfree', -⟩
        · exact List.mem_cons_of_mem _ (List.mem_map.mpr ⟨q, mem_liveOf.mpr ⟨h, hq2⟩, rfl⟩)
        · rw [hfree] at hfree'
          rw [Option.some.inj hfree']; exact List.mem_cons_self
      have := (List.subperm_of_subset (nodup_liveOf _ x) hsub).length_le
      simp at this; omega

theorem liveLaw_effectOf (c : Instr) (s : State) (hs : liveLaw s) (hg : guardHolds c s) :
    liveLaw (effectOf c s) := by
  by_cases hc : c = .coldReset
  · subst hc
    intro x
    rw [show liveOf (effectOf .coldReset s) x = [] from rfl]; exact Nat.zero_le _
  by_cases hf : ∃ x, c = .sendFirstTrain x
  · obtain ⟨x, rfl⟩ := hf
    have hempty : liveOf s x = [] := by
      have := hg
      simp only [guardHolds, Bool.and_eq_true, List.isEmpty_iff] at this
      exact this.2
    intro y
    have ht : (effectOf (.sendFirstTrain x) s).table = s.table := by simp [effectOf]
    rw [liveOf_congr ht]
    by_cases hy : y = x
    · subst hy; rw [hempty]; exact Nat.zero_le _
    · refine (hs y).trans_eq (Eq.symm ?_)
      show (linkOf (sendFirst x s) y).currentLimit = _
      simp [sendFirst, sendTrain, linkOf_modLink_ne _ _ _ _ hy]
  have hl := limitsStand_effectOf c s hc (fun x e => hf ⟨x, e⟩)
  cases hr : requestOf c with
  | some q =>
    rw [effectOf_requestOf (r := q.1) (seq := q.2) hr]
    exact liveLaw_arriveRequest q.1 hs
  | none =>
    by_cases hi : ∃ x, c = .intakeStep x
    · obtain ⟨x, rfl⟩ := hi
      exact liveLaw_of (steady_takeIntake s x) hl hs
    · exact liveLaw_of (calms_effectOf c s hr fun x e => hi ⟨x, e⟩).steady hl hs

theorem flightLaw_arriveRequest {s : State} {r : Txn} (h : r.lockWait = none) (hs : flightLaw s) :
    flightLaw (arriveRequest r s) := by
  intro i t ht hf
  rcases slotAt_arriveRequest ht with h' | ⟨-, -, -, rfl⟩
  · exact hs i t h' hf
  · exact h

theorem flightLaw_effectOf (c : Instr) (s : State) (hs : flightLaw s) : flightLaw (effectOf c s) := by
  cases hr : requestOf c with
  | some q =>
    rw [effectOf_requestOf (r := q.1) (seq := q.2) hr]
    exact flightLaw_arriveRequest (requestOf_fields (r := q.1) (seq := q.2) hr).2 hs
  | none =>
    by_cases hi : ∃ x, c = .intakeStep x
    · obtain ⟨x, rfl⟩ := hi
      exact flightLaw_of (steady_takeIntake s x) hs
    · exact flightLaw_of (calms_effectOf c s hr fun x e => hi ⟨x, e⟩).steady hs

theorem fenceLaw_arriveRequest {s : State} {r : Txn} (h : r.state = .intake) (hs : fenceLaw s) :
    fenceLaw (arriveRequest r s) := by
  have hold : ∀ i t, slotAt (arriveRequest r s) i = some t → t.state = .fenceWait →
      slotAt s i = some t := by
    intro i t ht hst
    rcases slotAt_arriveRequest ht with h' | ⟨-, -, -, rfl⟩
    · exact h'
    · rw [h] at hst; cases hst
  intro i j t u hi hj ht hu hl
  exact hs i j t u (hold i t hi ht) (hold j u hj hu) ht hu hl

theorem fenceLaw_effectOf (c : Instr) (s : State) (hs : fenceLaw s) : fenceLaw (effectOf c s) := by
  cases hr : requestOf c with
  | some q =>
    rw [effectOf_requestOf (r := q.1) (seq := q.2) hr]
    exact fenceLaw_arriveRequest (requestOf_fields (r := q.1) (seq := q.2) hr).1 hs
  | none =>
    by_cases hi : ∃ x, c = .intakeStep x
    · obtain ⟨x, rfl⟩ := hi
      exact fenceLaw_takeIntake x hs
    · exact fenceLaw_of (calms_effectOf c s hr fun x e => hi ⟨x, e⟩) hs

/-- Settles O56: each law is kept by each command's effect, read from how slots and limits follow one another
from state to state. -/
theorem stepKeepsTheTable : Obligations.StepKeepsTheTable := by
  intro s t h
  refine ⟨fun hs => ?_, fun hs => ?_, fun hs => ?_⟩
  · exact tableLaw_step h hs (fun _ _ => liveLaw_same) liveLaw_effectOf
  · exact tableLaw_step h hs (fun _ _ ht _ => fenceLaw_of (calms_of_table ht))
      fun c u hu _ => fenceLaw_effectOf c u hu
  · exact tableLaw_step h hs (fun _ _ ht _ => flightLaw_of (calms_of_table ht).steady)
      fun c u hu _ => flightLaw_effectOf c u hu

end Sys2Proof.Machine
end


section
/-! SUPPORT. What a command does of its own, before the consequences of its event: so that a law which the
consequences keep is judged on the command's own change alone. -/

namespace Sys2Proof.Machine

/-- Several banks changed: everything but the bank records stays. -/
theorem foldl_modBank_eq (f : Bank → Bank) : ∀ (l : List Nat) (s : State),
    l.foldl (fun st p => modBank st p f) s = { s with sched := { s.sched with
      banks := (l.foldl (fun st p => modBank st p f) s).sched.banks } }
  | [], _ => rfl
  | a :: l, s => foldl_modBank_eq f l (modBank s a f)

/-! ## Own effects -/

/-- The intake step of the oldest slot, without its consequences. -/
def ownIntake (x : Link) (s : State) : State :=
  match intakeReady s x with
  | none => s
  | some p => intakeStep s p.1 p.2

/-- The issue that the arbiter grants. -/
def ownIssue (s : State) : State :=
  match grantee s with
  | none => s
  | some pos =>
    match choice s pos with
    | none => s
    | some p => issueAt s pos p.1 p.2

/-- The ACTIVATE of a bank with this row. -/
def activated (pos row : Nat) (s : State) : State :=
  sendDram (joinOpenRows (modBank s pos fun b => { b with
    state := .activating
    row := some row
    serving := b.serving.map fun v => { v with reserved := false }
    activatedAt := s.event }) pos) [.activate pos row]

def ownActivate (pos : Nat) (s : State) : State :=
  match activateReady s pos with
  | none => s
  | some row => activated pos row s

/-- The bank is OPEN. -/
def opened (pos : Nat) (s : State) : State := modBank s pos fun b => { b with state := .openRow }

def ownActivation (pos : Nat) (s : State) : State :=
  if warmReset (opened pos s) && servesUnbegun (opened pos s) pos then releaseBank (opened pos s) pos
  else completeEmpty (opened pos s) pos

/-- The WRITE-COLUMN of a block and what it stores. -/
def stored (pos : Nat) (s : State) (v : Service) (k : Nat) (data : Block) : State :=
  let s' := modBank s pos fun b => { b with
    serving := some { v with toWrite := v.toWrite.drop 1, wrote := true }, writtenAt := s.event }
  let s' := { s' with dram := writeBlock s'.dram (cellOfBlock s v.slot k) data }
  sendDram s' [.writeColumn pos (columnOf s v.slot k) data]

def ownWriteColumn (pos : Nat) (s : State) : State :=
  match writeColumnReady s pos with
  | none => s
  | some (v, k, data) =>
    if (v.toWrite.drop 1).isEmpty then reportWrite (stored pos s v k data) pos v.slot
    else stored pos s v k data

/-- The service after the data of a block. -/
def serviceWith (v : Service) (r : ReadDue) (classes : List WordClass) (block : Block) : Service :=
  { v with due := v.due - 1, got := v.got ++ [(r.index, blockStatusOf classes, block)] }

/-- The data of a block taken and checked, and the service they belong to. -/
def dataTaken (es : List ErrMask) (s : State) (r : ReadDue) (v : Service) (t : Txn) : State × Service :=
  let base := cellOfBlock s v.slot r.index
  let s := { s with dram := damage s.dram base es }
  let classes := blockClasses s.dram base
  let v' := serviceWith v r classes (blockPassedOn s.dram base)
  let s := takeWords t.link (t.phys.getD 0 + 32 * r.index) (readCause t) s false classes
  let s := { s with chan := { s.chan with readsDue := s.chan.readsDue.drop 1 } }
  (modBank s r.pos fun b => { b with serving := some v' }, v')

def ownData (es : List ErrMask) (s : State) : State :=
  match dataDue s with
  | none => s
  | some (r, v, t) =>
    let d := dataTaken es s r v t
    if d.2.due = 0 && d.2.toRead.isEmpty then afterLastRead d.1 r.pos d.2 t else d.1

/-- The PRECHARGE of a bank. -/
def precharged (pos : Nat) (s : State) : State :=
  sendDram (leaveOpenRows (modBank (noteClocks s pos) pos fun b => { b with
    state := .precharging
    row := none
    closePending := false
    idleTimer := .stopped
    serving := b.serving.map fun v => { v with reserved := true } }) pos) [.precharge pos]

/-- The bank is CLOSED. -/
def closed (pos : Nat) (s : State) : State := modBank s pos fun b => { b with state := .closed }

def ownPrechargeComplete : PrechargeTarget → State → State
  | .bank pos, s =>
    if warmReset (closed pos s) && servesUnbegun (closed pos s) pos then releaseBank (closed pos s) pos
    else closed pos s
  | .start, s => completeStartPrecharge s

def ownRowIdle (pos : Nat) (s : State) : State :=
  requestClose (modBank (noteClocks s pos) pos fun b => { b with idleTimer := .stopped }) pos

/-- The banks of a rank that were REFRESHING are CLOSED. -/
def rankRefreshed (rank : Nat) (s : State) : State :=
  (positionsOf s rank).foldl (fun st p => modBank st p fun b =>
    if b.state = .refreshing then { b with state := .closed, lastRow := none } else b) s

@[simp] theorem rankRefreshed_frame (rank : Nat) (s : State) :
    (rankRefreshed rank s).links = s.links ∧ (rankRefreshed rank s).table = s.table ∧
    (rankRefreshed rank s).xlate = s.xlate ∧ (rankRefreshed rank s).tenure = s.tenure ∧
    (rankRefreshed rank s).locks = s.locks ∧ (rankRefreshed rank s).notices = s.notices ∧
    (rankRefreshed rank s).refresh = s.refresh ∧ (rankRefreshed rank s).chan = s.chan ∧
    (rankRefreshed rank s).dram = s.dram ∧ (rankRefreshed rank s).mgmt = s.mgmt ∧
    (rankRefreshed rank s).settings = s.settings ∧ (rankRefreshed rank s).event = s.event := by
  unfold rankRefreshed; rw [foldl_modBank_eq]; simp

def ownCueMonitor (s : State) : State :=
  if (loadRefreshTimer s).refresh.cueSeen then
    withRefresh (loadRefreshTimer s) { (loadRefreshTimer s).refresh with cueSeen := false }
  else addDebt (raiseAlert (loadRefreshTimer s) .cueMissing
    (some (loadRefreshTimer s).settings.refresh.cueLink) none none none)

def ownCue (x : Link) (s : State) : State :=
  match s.settings.refresh.mode with
  | .internal => s
  | .linked =>
    if x ≠ s.settings.refresh.cueLink then raiseProtocol s x .wrongCue
    else if cuesCount s then addDebt (withRefresh s { s.refresh with cueSeen := true })
    else s

def ownNoticeAck (x : Link) (number : Byte) (s : State) : State :=
  match lineOfNumber (targetOf s x) number with
  | none => raiseProtocol s x .unknownAck (some number.toNat)
  | some line => removeOrRearm (dropWaiters s x line false) x line

def ownNoticeExpiry (y : Link) (number : Byte) (s : State) : State :=
  match runningNotice (targetOf s y) number with
  | none => s
  | some line =>
    removeOrRearm (raiseAlert (forgetRecent (dropWaiters s y line true) y [line]) .noticeTimeout
      (some y) (some line) none (some number.toNat)) y line

def ownLockExpiry (block : Nat) (s : State) : State :=
  match runningLock s block with
  | none => s
  | some e => removeLock (raiseAlert s .lockBroken (some e.holder) (some block) (some .expiry) none) block

def ownIdle (s : State) : State :=
  match s.tenure.holder with
  | none => s
  | some x =>
    if hasWaitingWork s (otherLink x) then
      if s.tenure.due = .no then setDue s (.toLink (otherLink x))
      else withTenure s { s.tenure with idle := .stopped }
    else withTenure s { s.tenure with idle := .lapsed }

def ownStartEnd (s : State) : State :=
  let s := formBanks { s with chan := { s.chan with state := .run, startPhase := .none } }
  let s := loadRefreshTimer (withRefresh s { s.refresh with debt := 0, cueSeen := false })
  endLong s .start .ok .none

def ownResumeEnd (s : State) : State :=
  if warmReset s then sleepAgain s
  else endLong (forceTest (reformBanks
    { s with chan := { s.chan with state := .run, resumePhase := .none } })) .resume .ok .none

/-- The blocks at a link reset, one after another (10 R180). -/
def resetBlocks (s : State) (x : Link) (cause : Cause) : State :=
  let s := raiseAlert s .linkDown (some x) none (some cause) none
  let s := modLink s x (resetLinkCtl (cause = .restart))
  let s := tableLinkReset s x
  let s := removeLocks s fun e => e.holder = x
  tenureLinkReset (mgmtLinkReset (discardTarget s x) x) x

def ownTrain (x : Link) (seen : Bool) (s : State) : State :=
  if linkIs s x .training then takeTrain x seen s
  else if seen then sendLevel s x fun l => .train l.grant 2 true
  else resetBlocks s x .restart

def ownRetry (x : Link) (s : State) : State :=
  if (linkOf s x).retryCount < 8 then
    modLink (sendRetryReq s x) x fun l => { l with
      retryCount := l.retryCount + 1, retryTimer := loaded (usUnits 4) }
  else resetBlocks (putOnWire s x [.linkReset]) x .retry

def ownReplay (x : Link) (s : State) : State :=
  if (linkOf s x).replayCount < 4 then
    modLink (putOnWire s x (resent (linkOf s x).replay)) x fun l => { l with
      replayCount := l.replayCount + 1, replayTimer := loaded (usUnits 16) }
  else resetBlocks (putOnWire s x [.linkReset]) x .replay

/-! ## The fields each own effect leaves -/

@[simp] theorem ownIntake_frame (x : Link) (s : State) :
    (ownIntake x s).links = s.links ∧ (ownIntake x s).xlate = s.xlate ∧
    (ownIntake x s).sched = s.sched ∧ (ownIntake x s).tenure = s.tenure ∧
    (ownIntake x s).notices = s.notices ∧ (ownIntake x s).refresh = s.refresh ∧
    (ownIntake x s).chan = s.chan ∧ (ownIntake x s).mgmt = s.mgmt ∧
    (ownIntake x s).settings = s.settings := by
  unfold ownIntake; split <;> simp

@[simp] theorem ownIssue_frame (s : State) :
    (ownIssue s).xlate = s.xlate ∧ (ownIssue s).tenure = s.tenure ∧
    (ownIssue s).refresh = s.refresh ∧ (ownIssue s).chan = s.chan ∧ (ownIssue s).mgmt = s.mgmt ∧
    (ownIssue s).settings = s.settings := by
  unfold ownIssue; (repeat' split) <;> simp

@[simp] theorem activated_frame (pos row : Nat) (s : State) :
    (activated pos row s).links = s.links ∧ (activated pos row s).table = s.table ∧
    (activated pos row s).xlate = s.xlate ∧ (activated pos row s).tenure = s.tenure ∧
    (activated pos row s).locks = s.locks ∧ (activated pos row s).notices = s.notices ∧
    (activated pos row s).refresh = s.refresh ∧ (activated pos row s).chan = s.chan ∧
    (activated pos row s).mgmt = s.mgmt ∧ (activated pos row s).settings = s.settings := by
  simp [activated]

@[simp] theorem ownActivate_frame (pos : Nat) (s : State) :
    (ownActivate pos s).links = s.links ∧ (ownActivate pos s).table = s.table ∧
    (ownActivate pos s).xlate = s.xlate ∧ (ownActivate pos s).tenure = s.tenure ∧
    (ownActivate pos s).locks = s.locks ∧ (ownActivate pos s).notices = s.notices ∧
    (ownActivate pos s).refresh = s.refresh ∧ (ownActivate pos s).chan = s.chan ∧
    (ownActivate pos s).mgmt = s.mgmt ∧ (ownActivate pos s).settings = s.settings := by
  unfold ownActivate; split <;> simp

@[simp] theorem opened_frame (pos : Nat) (s : State) :
    (opened pos s).links = s.links ∧ (opened pos s).table = s.table ∧
    (opened pos s).xlate = s.xlate ∧ (opened pos s).tenure = s.tenure ∧
    (opened pos s).locks = s.locks ∧ (opened pos s).notices = s.notices ∧
    (opened pos s).refresh = s.refresh ∧ (opened pos s).chan = s.chan ∧
    (opened pos s).mgmt = s.mgmt ∧ (opened pos s).settings = s.settings := by
  simp [opened]

@[simp] theorem closed_frame (pos : Nat) (s : State) :
    (closed pos s).links = s.links ∧ (closed pos s).table = s.table ∧
    (closed pos s).xlate = s.xlate ∧ (closed pos s).tenure = s.tenure ∧
    (closed pos s).locks = s.locks ∧ (closed pos s).notices = s.notices ∧
    (closed pos s).refresh = s.refresh ∧ (closed pos s).chan = s.chan ∧
    (closed pos s).mgmt = s.mgmt ∧ (closed pos s).settings = s.settings := by
  simp [closed]

@[simp] theorem ownActivation_frame (pos : Nat) (s : State) :
    (ownActivation pos s).xlate = s.xlate ∧ (ownActivation pos s).tenure = s.tenure ∧
    (ownActivation pos s).refresh = s.refresh ∧ (ownActivation pos s).chan = s.chan ∧
    (ownActivation pos s).mgmt = s.mgmt ∧ (ownActivation pos s).settings = s.settings := by
  unfold ownActivation; split <;> simp

@[simp] theorem stored_frame (pos : Nat) (s : State) (v : Service) (k : Nat) (d : Block) :
    (stored pos s v k d).links = s.links ∧ (stored pos s v k d).table = s.table ∧
    (stored pos s v k d).xlate = s.xlate ∧ (stored pos s v k d).tenure = s.tenure ∧
    (stored pos s v k d).locks = s.locks ∧ (stored pos s v k d).notices = s.notices ∧
    (stored pos s v k d).refresh = s.refresh ∧ (stored pos s v k d).chan = s.chan ∧
    (stored pos s v k d).mgmt = s.mgmt ∧ (stored pos s v k d).settings = s.settings := by
  simp [stored]

@[simp] theorem ownWriteColumn_frame (pos : Nat) (s : State) :
    (ownWriteColumn pos s).xlate = s.xlate ∧ (ownWriteColumn pos s).tenure = s.tenure ∧
    (ownWriteColumn pos s).refresh = s.refresh ∧ (ownWriteColumn pos s).chan = s.chan ∧
    (ownWriteColumn pos s).mgmt = s.mgmt ∧ (ownWriteColumn pos s).settings = s.settings := by
  unfold ownWriteColumn; (repeat' split) <;> simp

@[simp] theorem dataTaken_frame (es : List ErrMask) (s : State) (r : ReadDue) (v : Service) (t : Txn) :
    (dataTaken es s r v t).1.links = s.links ∧ (dataTaken es s r v t).1.table = s.table ∧
    (dataTaken es s r v t).1.xlate = s.xlate ∧ (dataTaken es s r v t).1.tenure = s.tenure ∧
    (dataTaken es s r v t).1.locks = s.locks ∧ (dataTaken es s r v t).1.notices = s.notices ∧
    (dataTaken es s r v t).1.refresh = s.refresh ∧
    (dataTaken es s r v t).1.settings = s.settings := by
  simp [dataTaken]

@[simp] theorem ownData_frame (es : List ErrMask) (s : State) :
    (ownData es s).xlate = s.xlate ∧ (ownData es s).tenure = s.tenure ∧
    (ownData es s).refresh = s.refresh ∧ (ownData es s).settings = s.settings := by
  unfold ownData
  split
  · simp
  · dsimp only
    split <;> simp

@[simp] theorem precharged_frame (pos : Nat) (s : State) :
    (precharged pos s).links = s.links ∧ (precharged pos s).table = s.table ∧
    (precharged pos s).xlate = s.xlate ∧ (precharged pos s).tenure = s.tenure ∧
    (precharged pos s).locks = s.locks ∧ (precharged pos s).notices = s.notices ∧
    (precharged pos s).refresh = s.refresh ∧ (precharged pos s).chan = s.chan ∧
    (precharged pos s).mgmt = s.mgmt ∧ (precharged pos s).settings = s.settings := by
  simp [precharged]

@[simp] theorem ownPrechargeComplete_frame (t : PrechargeTarget) (s : State) :
    (ownPrechargeComplete t s).links = s.links ∧ (ownPrechargeComplete t s).table = s.table ∧
    (ownPrechargeComplete t s).xlate = s.xlate ∧ (ownPrechargeComplete t s).tenure = s.tenure ∧
    (ownPrechargeComplete t s).locks = s.locks ∧ (ownPrechargeComplete t s).notices = s.notices ∧
    (ownPrechargeComplete t s).refresh = s.refresh ∧ (ownPrechargeComplete t s).mgmt = s.mgmt ∧
    (ownPrechargeComplete t s).settings = s.settings := by
  unfold ownPrechargeComplete; (repeat' split) <;> simp

@[simp] theorem ownRowIdle_frame (pos : Nat) (s : State) :
    (ownRowIdle pos s).links = s.links ∧ (ownRowIdle pos s).table = s.table ∧
    (ownRowIdle pos s).xlate = s.xlate ∧ (ownRowIdle pos s).tenure = s.tenure ∧
    (ownRowIdle pos s).locks = s.locks ∧ (ownRowIdle pos s).notices = s.notices ∧
    (ownRowIdle pos s).refresh = s.refresh ∧ (ownRowIdle pos s).chan = s.chan ∧
    (ownRowIdle pos s).mgmt = s.mgmt ∧ (ownRowIdle pos s).settings = s.settings := by
  simp [ownRowIdle]

@[simp] theorem ownCueMonitor_frame (s : State) :
    (ownCueMonitor s).links = s.links ∧ (ownCueMonitor s).table = s.table ∧
    (ownCueMonitor s).xlate = s.xlate ∧ (ownCueMonitor s).locks = s.locks ∧
    (ownCueMonitor s).notices = s.notices ∧ (ownCueMonitor s).chan = s.chan ∧
    (ownCueMonitor s).settings = s.settings := by
  unfold ownCueMonitor; split <;> simp

@[simp] theorem ownCue_frame (x : Link) (s : State) :
    (ownCue x s).links = s.links ∧ (ownCue x s).table = s.table ∧ (ownCue x s).xlate = s.xlate ∧
    (ownCue x s).locks = s.locks ∧ (ownCue x s).notices = s.notices ∧ (ownCue x s).chan = s.chan ∧
    (ownCue x s).settings = s.settings := by
  unfold ownCue; (repeat' split) <;> simp

@[simp] theorem ownNoticeAck_frame (x : Link) (n : Byte) (s : State) :
    (ownNoticeAck x n s).links = s.links ∧ (ownNoticeAck x n s).xlate = s.xlate ∧
    (ownNoticeAck x n s).sched = s.sched ∧ (ownNoticeAck x n s).tenure = s.tenure ∧
    (ownNoticeAck x n s).locks = s.locks ∧ (ownNoticeAck x n s).refresh = s.refresh ∧
    (ownNoticeAck x n s).chan = s.chan ∧ (ownNoticeAck x n s).settings = s.settings := by
  unfold ownNoticeAck; split <;> simp

@[simp] theorem ownNoticeExpiry_frame (y : Link) (n : Byte) (s : State) :
    (ownNoticeExpiry y n s).links = s.links ∧ (ownNoticeExpiry y n s).xlate = s.xlate ∧
    (ownNoticeExpiry y n s).sched = s.sched ∧ (ownNoticeExpiry y n s).tenure = s.tenure ∧
    (ownNoticeExpiry y n s).locks = s.locks ∧ (ownNoticeExpiry y n s).refresh = s.refresh ∧
    (ownNoticeExpiry y n s).chan = s.chan ∧ (ownNoticeExpiry y n s).settings = s.settings := by
  unfold ownNoticeExpiry; split <;> simp

@[simp] theorem ownLockExpiry_frame (b : Nat) (s : State) :
    (ownLockExpiry b s).links = s.links ∧ (ownLockExpiry b s).xlate = s.xlate ∧
    (ownLockExpiry b s).sched = s.sched ∧ (ownLockExpiry b s).tenure = s.tenure ∧
    (ownLockExpiry b s).notices = s.notices ∧ (ownLockExpiry b s).refresh = s.refresh ∧
    (ownLockExpiry b s).chan = s.chan ∧ (ownLockExpiry b s).settings = s.settings := by
  unfold ownLockExpiry; split <;> simp

@[simp] theorem ownIdle_frame (s : State) :
    (ownIdle s).links = s.links ∧ (ownIdle s).table = s.table ∧ (ownIdle s).xlate = s.xlate ∧
    (ownIdle s).locks = s.locks ∧ (ownIdle s).notices = s.notices ∧
    (ownIdle s).refresh = s.refresh ∧ (ownIdle s).chan = s.chan ∧ (ownIdle s).mgmt = s.mgmt ∧
    (ownIdle s).settings = s.settings ∧ (ownIdle s).sched = s.sched := by
  unfold ownIdle; (repeat' split) <;> simp

@[simp] theorem ownStartEnd_frame (s : State) :
    (ownStartEnd s).links = s.links ∧ (ownStartEnd s).table = s.table ∧
    (ownStartEnd s).xlate = s.xlate ∧ (ownStartEnd s).tenure = s.tenure ∧
    (ownStartEnd s).locks = s.locks ∧ (ownStartEnd s).notices = s.notices ∧
    (ownStartEnd s).settings = s.settings := by
  simp [ownStartEnd]

@[simp] theorem ownResumeEnd_frame (s : State) :
    (ownResumeEnd s).links = s.links ∧ (ownResumeEnd s).table = s.table ∧
    (ownResumeEnd s).xlate = s.xlate ∧ (ownResumeEnd s).locks = s.locks ∧
    (ownResumeEnd s).notices = s.notices ∧ (ownResumeEnd s).settings = s.settings := by
  unfold ownResumeEnd; split <;> simp

@[simp] theorem resetBlocks_frame (s : State) (x : Link) (cause : Cause) :
    (resetBlocks s x cause).sched = s.sched ∧ (resetBlocks s x cause).refresh = s.refresh ∧
    (resetBlocks s x cause).chan = s.chan ∧ (resetBlocks s x cause).settings = s.settings := by
  simp [resetBlocks]

@[simp] theorem ownTrain_frame (x : Link) (seen : Bool) (s : State) :
    (ownTrain x seen s).sched = s.sched ∧ (ownTrain x seen s).refresh = s.refresh ∧
    (ownTrain x seen s).chan = s.chan ∧ (ownTrain x seen s).settings = s.settings := by
  unfold ownTrain; (repeat' split) <;> simp

@[simp] theorem ownRetry_frame (x : Link) (s : State) :
    (ownRetry x s).sched = s.sched ∧ (ownRetry x s).refresh = s.refresh ∧
    (ownRetry x s).chan = s.chan ∧ (ownRetry x s).settings = s.settings := by
  unfold ownRetry; split <;> simp

@[simp] theorem ownReplay_frame (x : Link) (s : State) :
    (ownReplay x s).sched = s.sched ∧ (ownReplay x s).refresh = s.refresh ∧
    (ownReplay x s).chan = s.chan ∧ (ownReplay x s).settings = s.settings := by
  unfold ownReplay; split <;> simp

/-! ## Every command -/

/-- What a command does of its own: `effectOf` without the consequences. -/
def ownEffect : Instr → State → State
  | .intakeStep x => ownIntake x
  | .issue => ownIssue
  | .activateSent pos => ownActivate pos
  | .activationComplete pos => ownActivation pos
  | .writeColumnSent pos => ownWriteColumn pos
  | .readColumnDataArrival e0 e1 e2 e3 => ownData [e0, e1, e2, e3]
  | .prechargeSent pos => precharged pos
  | .prechargeComplete target => ownPrechargeComplete target
  | .rowIdleTimerExpiry pos => ownRowIdle pos
  | .refreshComplete rank => fun s => testRound (rankRefreshed rank s)
  | .refreshTimerExpiry => fun s => addDebt (loadRefreshTimer s)
  | .cueMonitorExpiry => ownCueMonitor
  | .refreshCue x _ => ownCue x
  | .noticeAck x _ number => ownNoticeAck x number
  | .noticeTimerExpiry y number => ownNoticeExpiry y number
  | .lockHoldExpiry block => ownLockExpiry block
  | .quantumTimerExpiry => fun s =>
      withTenure s { s.tenure with quantum := .stopped, phase := some .opened }
  | .idleTimerExpiry => ownIdle
  | .commitTimerExpiry => fun s =>
      endLong (abandonCommit s) .commit .commitTimeout (epochValue (abandonCommit s))
  | .startSequenceEnd => ownStartEnd
  | .resumeSequenceEnd => ownResumeEnd
  | .train x _ _ seen => ownTrain x (seenFlag seen)
  | .linkReset x => fun s => resetBlocks s x .partnerReset
  | .retryTimerExpiry x => ownRetry x
  | .replayTimerExpiry x => ownReplay x
  | c@.coldReset | c@(.read ..) | c@(.write ..) | c@(.lockRead ..) | c@(.lockWrite ..) |
    c@(.lockDrop ..) | c@(.fence ..) | c@(.readColumnSent ..) | c@(.refreshCommandSent ..) |
    c@.leaseTimerExpiry | c@(.mgmtRead ..) | c@(.mgmtWrite ..) | c@(.writeTenureMode ..) |
    c@(.writeRefreshMode ..) | c@(.writeForceLevel ..) | c@(.writeCueLink ..) |
    c@(.writeFilterEnable ..) | c@(.writeCreditLimit ..) | c@(.writeAlertLink ..) |
    c@(.writeLease ..) | c@(.writeCorrThreshold ..) | c@(.writeOpenLimit ..) |
    c@(.tableRead ..) | c@(.tableWrite ..) | c@(.tableRevert ..) | c@(.tableCommit ..) |
    c@(.claim ..) | c@(.release ..) | c@(.channelStart ..) | c@.startTimerExpiry |
    c@.startRefreshRoundComplete | c@(.channelQuiesce ..) | c@(.channelResume ..) |
    c@.resumeTimerExpiry | c@(.hubReset ..) | c@.resetPoint | c@(.sendResponse ..) |
    c@(.sendMgmtReply ..) | c@(.sendNotice ..) | c@.sendAlert | c@(.sendCredit ..) |
    c@(.restartingCredit ..) | c@(.downTimerExpiry ..) | c@(.sendFirstTrain ..) |
    c@(.trainTimerExpiry ..) | c@(.linkAck ..) | c@(.retryReq ..) | c@(.receiveBadPacket ..) |
    c@(.receiveUnknownPacket ..) | c@(.ackTimerExpiry ..) => effectOf c

theorem takeIntake_own (x : Link) (s : State) :
    takeIntake x s = ownIntake x s ∨ takeIntake x s = settle (ownIntake x s) := by
  unfold takeIntake ownIntake
  cases intakeReady s x with
  | none => exact .inl rfl
  | some p => exact .inr rfl


theorem issueGranted_own (s : State) :
    issueGranted s = ownIssue s ∨ issueGranted s = settle (ownIssue s) := by
  unfold issueGranted ownIssue
  cases grantee s with
  | none => exact .inl rfl
  | some pos =>
    dsimp only
    cases choice s pos with
    | none => exact .inl rfl
    | some p => exact .inr rfl


theorem sendActivate_own (pos : Nat) (s : State) :
    sendActivate pos s = ownActivate pos s ∨ sendActivate pos s = settle (ownActivate pos s) := by
  unfold sendActivate ownActivate
  cases activateReady s pos with
  | none => exact .inl rfl
  | some p => exact .inr rfl


theorem sendWriteColumn_own (pos : Nat) (s : State) :
    sendWriteColumn pos s = ownWriteColumn pos s ∨ sendWriteColumn pos s = settle (ownWriteColumn pos s) := by
  unfold sendWriteColumn ownWriteColumn
  cases writeColumnReady s pos with
  | none => exact .inl rfl
  | some p => exact .inr rfl


theorem arriveData_own (es : List ErrMask) (s : State) :
    arriveData es s = ownData es s ∨ arriveData es s = settle (ownData es s) := by
  unfold arriveData ownData
  cases dataDue s with
  | none => exact .inl rfl
  | some p => exact .inr rfl


theorem expireCueMonitor_own (s : State) :
    expireCueMonitor s = ownCueMonitor s ∨ expireCueMonitor s = settle (ownCueMonitor s) := by
  unfold expireCueMonitor ownCueMonitor
  dsimp only
  split_ifs
  · exact .inl rfl
  · exact .inr rfl


theorem takeCue_own (x : Link) (s : State) :
    takeCue x s = ownCue x s ∨ takeCue x s = settle (ownCue x s) := by
  unfold takeCue ownCue
  cases s.settings.refresh.mode with
  | internal => exact .inl rfl
  | linked =>
    dsimp only
    split_ifs
    · exact .inl rfl
    · exact .inr rfl
    · exact .inl rfl


theorem takeNoticeAck_own (x : Link) (n : Byte) (s : State) :
    takeNoticeAck x n s = ownNoticeAck x n s ∨ takeNoticeAck x n s = settle (ownNoticeAck x n s) := by
  unfold takeNoticeAck ownNoticeAck
  cases lineOfNumber (targetOf s x) n with
  | none => exact .inl rfl
  | some p => exact .inr rfl


theorem expireNotice_own (y : Link) (n : Byte) (s : State) :
    expireNotice y n s = ownNoticeExpiry y n s ∨ expireNotice y n s = settle (ownNoticeExpiry y n s) := by
  unfold expireNotice ownNoticeExpiry
  cases runningNotice (targetOf s y) n with
  | none => exact .inl rfl
  | some p => exact .inr rfl


theorem expireLock_own (b : Nat) (s : State) :
    expireLock b s = ownLockExpiry b s ∨ expireLock b s = settle (ownLockExpiry b s) := by
  unfold expireLock ownLockExpiry
  cases runningLock s b with
  | none => exact .inl rfl
  | some p => exact .inr rfl


theorem expireIdle_own (s : State) :
    expireIdle s = ownIdle s ∨ expireIdle s = settle (ownIdle s) := by
  unfold expireIdle ownIdle
  cases s.tenure.holder with
  | none => exact .inl rfl
  | some x =>
    dsimp only
    split_ifs <;> exact .inr rfl


theorem endResume_own (s : State) :
    endResume s = ownResumeEnd s ∨ endResume s = settle (ownResumeEnd s) := by
  unfold endResume ownResumeEnd
  split_ifs
  · exact .inl rfl
  · exact .inr rfl


theorem expireRetry_own (x : Link) (s : State) :
    expireRetry x s = ownRetry x s ∨ expireRetry x s = settle (ownRetry x s) := by
  unfold expireRetry ownRetry
  split_ifs
  · exact .inl rfl
  · exact .inr rfl


theorem expireReplay_own (x : Link) (s : State) :
    expireReplay x s = ownReplay x s ∨ expireReplay x s = settle (ownReplay x s) := by
  unfold expireReplay ownReplay
  split_ifs
  · exact .inl rfl
  · exact .inr rfl


theorem takeTrain_own (x : Link) (seen : Bool) (s : State) :
    (if linkIs s x .training then takeTrain x seen s else takeLateTrain x seen s) = ownTrain x seen s ∨
    (if linkIs s x .training then takeTrain x seen s else takeLateTrain x seen s) =
      settle (ownTrain x seen s) := by
  unfold ownTrain takeLateTrain
  split_ifs
  · exact .inl rfl
  · exact .inl rfl
  · exact .inr rfl

/-- A command's effect is its own, or its own with the consequences of the event. -/
theorem effectOf_own (c : Instr) (s : State) :
    effectOf c s = ownEffect c s ∨ effectOf c s = settle (ownEffect c s) := by
  cases c
  case intakeStep x => exact takeIntake_own x s
  case issue => exact issueGranted_own s
  case activateSent pos => exact sendActivate_own pos s
  case writeColumnSent pos => exact sendWriteColumn_own pos s
  case readColumnDataArrival => exact arriveData_own _ s
  case cueMonitorExpiry => exact expireCueMonitor_own s
  case refreshCue x _ => exact takeCue_own x s
  case noticeAck x _ n => exact takeNoticeAck_own x n s
  case noticeTimerExpiry y n => exact expireNotice_own y n s
  case lockHoldExpiry b => exact expireLock_own b s
  case idleTimerExpiry => exact expireIdle_own s
  case resumeSequenceEnd => exact endResume_own s
  case retryTimerExpiry x => exact expireRetry_own x s
  case replayTimerExpiry x => exact expireReplay_own x s
  case train x _ _ seen => exact takeTrain_own x (seenFlag seen) s
  case prechargeComplete target =>
    cases target
    · exact .inr rfl
    · exact .inl rfl
  case activationComplete | prechargeSent | rowIdleTimerExpiry | refreshComplete | refreshTimerExpiry |
      quantumTimerExpiry | commitTimerExpiry | startSequenceEnd | linkReset => exact .inr rfl
  all_goals exact .inl rfl

/-- A law that the consequences keep and the command's own effect keeps is kept by the effect. -/
theorem effectOf_keeps {I : State → Prop} {c : Instr} {s : State} (hc : ∀ u, I u → I (settle u))
    (h : I (ownEffect c s)) : I (effectOf c s) := by
  rcases effectOf_own c s with e | e <;> rw [e]
  · exact h
  · exact hc _ h

end Sys2Proof.Machine
end


section
/-! PROOFS. The counts that every step keeps in their bounds: slots (01 R1), the refresh debt (07 R119), alerts
(09 R160), management replies (09 R148), the counts of a link (10 R167), table lengths (02 R34) and the position
last granted (03 R56). -/

namespace Sys2Proof.Machine

/-! ## Slots (01 R1) -/

theorem slotsLaw_arriveRequest {s : State} (r : Txn) (hs : slotsLaw s) : slotsLaw (arriveRequest r s) := by
  unfold arriveRequest
  (repeat' split) <;> simpa [slotsLaw, setSlot, withSlots] using hs

theorem slotsLaw_effectOf (c : Instr) (s : State) (hs : slotsLaw s) : slotsLaw (effectOf c s) := by
  cases hr : requestOf c with
  | some q =>
    rw [effectOf_requestOf (r := q.1) (seq := q.2) hr]
    exact slotsLaw_arriveRequest q.1 hs
  | none =>
    by_cases hi : ∃ x, c = .intakeStep x
    · obtain ⟨x, rfl⟩ := hi
      exact (steady_takeIntake s x).1 hs
    · exact (calms_effectOf c s hr fun x e => hi ⟨x, e⟩).1 hs

/-! ## The refresh debt (07 R119) -/

@[simp] theorem debt_forceTest (s : State) : (forceTest s).refresh.debt = s.refresh.debt := by
  unfold forceTest
  split
  · split
    · rfl
    · simp [withRefresh]
  · rfl

theorem debtLaw_addDebt (s : State) : debtLaw (addDebt s) := by
  unfold addDebt debtLaw; dsimp only
  rw [debt_forceTest]
  split <;> simp [withRefresh]

@[simp] theorem debt_beginOpportunistic (s : State) :
    (beginOpportunistic s).refresh.debt = s.refresh.debt := by
  simp [beginOpportunistic, withRefresh]

@[simp] theorem debt_tryEpisode (s : State) : (tryEpisode s).refresh.debt = s.refresh.debt := by
  unfold tryEpisode; split <;> simp

@[simp] theorem debt_settlePass (s : State) : (settlePass s).refresh.debt = s.refresh.debt := by
  unfold settlePass; (repeat' split) <;> simp

@[simp] theorem debt_settleGrant (s : State) : (settleGrant s).refresh.debt = s.refresh.debt := by
  unfold settleGrant; dsimp only; (repeat' split) <;> simp

@[simp] theorem debt_waitingToClosing (s : State) :
    (waitingToClosing s).refresh.debt = s.refresh.debt := by
  unfold waitingToClosing; (repeat' split) <;> rfl

@[simp] theorem debt_closingToRefreshing (s : State) :
    (closingToRefreshing s).refresh.debt = s.refresh.debt := by
  unfold closingToRefreshing; (repeat' split) <;> rfl

theorem debt_settleSleep_le (s : State) : (settleSleep s).refresh.debt ≤ s.refresh.debt := by
  have hw : ∀ u, (warmSleep u).refresh.debt ≤ u.refresh.debt := by
    intro u; unfold warmSleep enterWarmSleep; (repeat' split) <;> simp
  have hq : (if selfRefreshReady s then enterSelfRefresh s else s).refresh.debt ≤ s.refresh.debt := by
    split
    · simp [enterSelfRefresh]
    · exact le_rfl
  exact (hw _).trans hq

/-- The consequences of an event never raise the debt. -/
theorem debt_settle_le (s : State) : (settle s).refresh.debt ≤ s.refresh.debt := by
  unfold settle; dsimp only
  refine (debt_settleSleep_le _).trans (le_of_eq ?_)
  simp

theorem debt_testRound_le (s : State) : (testRound s).refresh.debt ≤ s.refresh.debt := by
  have h : ∀ k, (completeRound s k).refresh.debt = s.refresh.debt - 1 := by
    intro k
    cases k <;> simp only [completeRound] <;> split <;> simp [withRefresh, endEpisode]
  unfold testRound
  split
  · split
    · rw [h]; omega
    · exact le_rfl
  · exact le_rfl

theorem debtLaw_of_le {s u : State} (h : u.refresh.debt ≤ s.refresh.debt) (hs : debtLaw s) :
    debtLaw u := h.trans hs

theorem debt_writeField (s : State) (f : Field) (v : Nat) :
    (writeField s f v).refresh.debt = s.refresh.debt := by
  unfold writeField
  split
  · unfold storeTenureMode; split <;> simp
  · unfold storeRefreshMode; dsimp only; (repeat' split) <;> simp [loadRefreshTimer, withRefresh]
  · simp [storeForceLevel]
  · simp [storeCueLink, withRefresh]
  · unfold storeFilterEnable; dsimp only; split <;> simp
  · simp

theorem debt_change_le {x : Link} {s u : State} (h : MgmtChange x s u) :
    u.refresh.debt ≤ s.refresh.debt := by
  cases h
  case writes => rw [debt_writeField]
  case resumes => simp [beginResume, loadRefreshTimer, withRefresh]
  case resets v hv => rcases hv with rfl | rfl <;> simp
  all_goals simp

theorem debtLaw_ownCueMonitor {s : State} (hs : debtLaw s) : debtLaw (ownCueMonitor s) := by
  unfold ownCueMonitor; split
  · exact hs
  · exact debtLaw_addDebt _

theorem debtLaw_ownCue {s : State} (x : Link) (hs : debtLaw s) : debtLaw (ownCue x s) := by
  unfold ownCue; split
  · exact hs
  · split
    · exact debtLaw_of_le (by simp) hs
    · split
      · exact debtLaw_addDebt _
      · exact hs

theorem debt_ownEffect_le (c : Instr) (s : State) (hm : mgmtOf c = none)
    (hc : ∀ x n, c ≠ .refreshCue x n) (h1 : c ≠ .refreshTimerExpiry) (h2 : c ≠ .cueMonitorExpiry) :
    (ownEffect c s).refresh.debt ≤ s.refresh.debt := by
  cases c
  case refreshCue x n => exact absurd rfl (hc x n)
  case refreshTimerExpiry => exact absurd rfl h1
  case cueMonitorExpiry => exact absurd rfl h2
  case coldReset | resetPoint => exact Nat.zero_le _
  case refreshComplete rank =>
    exact (debt_testRound_le _).trans (le_of_eq (by simp))
  case startSequenceEnd => simp [ownEffect, ownStartEnd, loadRefreshTimer, withRefresh]
  case resumeSequenceEnd =>
    simp only [ownEffect, ownResumeEnd]; split
    · simp [sleepAgain]
    · simp
  case resumeTimerExpiry =>
    simp only [ownEffect, effectOf, expireResumeTimer]; split
    · simp [sleepAgain]
    · simp
  case refreshCommandSent rank =>
    simp only [ownEffect, effectOf, sendRefresh]; split
    · simp
    · simp only [sendDram_frame, refreshRank, withRefresh]
      rw [foldl_modBank_eq]
  case mgmtRead | mgmtWrite | writeTenureMode | writeRefreshMode | writeForceLevel | writeCueLink |
      writeFilterEnable | writeCreditLimit | writeAlertLink | writeLease | writeCorrThreshold |
      writeOpenLimit | tableRead | tableWrite | tableRevert | tableCommit | claim | release |
      channelStart | channelQuiesce | channelResume | hubReset => cases hm
  all_goals simp [ownEffect, effectOf]

theorem debtLaw_effectOf (c : Instr) (s : State) (hs : debtLaw s) : debtLaw (effectOf c s) := by
  have hset : ∀ u, debtLaw u → debtLaw (settle u) := fun u => debtLaw_of_le (debt_settle_le u)
  cases hm : mgmtOf c with
  | some m =>
    obtain ⟨eff, e, hch⟩ := effectOf_mgmtOf (x := m.1) (seq := m.2.1) (k := m.2.2) hm
    rw [e]
    refine arriveMgmt_keeps hs (fun u => debtLaw_of_le (by simp)) (fun u => debtLaw_of_le (by simp)) hset
      (fun u => debtLaw_of_le (by simp)) (fun _ d => debtLaw_of_le (by simp)) ?_
    exact debtLaw_of_le (debt_change_le (hch s)) hs
  | none =>
    refine effectOf_keeps hset ?_
    by_cases hc : ∃ x n, c = .refreshCue x n
    · obtain ⟨x, n, rfl⟩ := hc; exact debtLaw_ownCue x hs
    by_cases h1 : c = .refreshTimerExpiry
    · subst h1; exact debtLaw_addDebt _
    by_cases h2 : c = .cueMonitorExpiry
    · subst h2; exact debtLaw_ownCueMonitor hs
    exact debtLaw_of_le (debt_ownEffect_le c s hm (fun x n e => hc ⟨x, n, e⟩) h1 h2) hs

/-! ## Alerts (09 R160) -/

theorem alertLaw_of_eq {s u : State} (ha : u.mgmt.alerts = s.mgmt.alerts)
    (hd : u.mgmt.dropped = s.mgmt.dropped) (hs : alertLaw s) : alertLaw u := by
  unfold alertLaw; rw [ha, hd]; exact hs

theorem alertLaw_of_mgmt {s u : State} (h : u.mgmt = s.mgmt) (hs : alertLaw s) : alertLaw u :=
  alertLaw_of_eq (by rw [h]) (by rw [h]) hs

theorem alertLaw_raiseAlert {s : State} (k : AlertKind) (x : Option Link) (a : Option Nat)
    (c : Option Cause) (v : Option Nat) (hs : alertLaw s) : alertLaw (raiseAlert s k x a c v) := by
  obtain ⟨h1, h2⟩ := hs
  unfold raiseAlert alertLaw
  split
  · rename_i h
    exact ⟨by simp; omega, Nat.zero_le _⟩
  · exact ⟨h1, Nat.min_le_left _ _⟩

theorem alertLaw_raiseProtocol {s : State} (x : Link) (c : Cause) (v : Option Nat) (hs : alertLaw s) :
    alertLaw (raiseProtocol s x c v) := alertLaw_raiseAlert _ _ _ _ _ hs

theorem alertLaw_raiseBroken : ∀ (es : List LockEntry) {s : State}, alertLaw s →
    alertLaw (raiseBroken s es)
  | [], _, h => h
  | _ :: es, _, h => alertLaw_raiseBroken es (alertLaw_raiseAlert _ _ _ _ _ h)

theorem alertLaw_settle {s : State} (hs : alertLaw s) : alertLaw (settle s) := by
  have hsleep : ∀ u, alertLaw u → alertLaw (settleSleep u) := by
    intro u hu
    have hw : ∀ v, (warmSleep v).mgmt = v.mgmt := fun v => by simp
    refine alertLaw_of_mgmt (hw _) ?_
    split
    · have hq : ∀ v, alertLaw v → alertLaw (endLong (restRefresh (withTenure
          (raiseBroken v u.locks) noTenure)) .quiesce .ok .none) := fun v hv =>
        alertLaw_of_eq (s := raiseBroken v u.locks) (by simp) (by simp) (alertLaw_raiseBroken _ hv)
      exact hq _ (alertLaw_of_mgmt (s := u) (by simp) hu)
    · exact hu
  unfold settle; dsimp only
  exact hsleep _ (alertLaw_of_eq (by simp) (by simp) hs)

theorem alertLaw_countCorrected {s : State} (hs : alertLaw s) : alertLaw (countCorrected s) := by
  unfold countCorrected; dsimp only; split
  · exact alertLaw_raiseAlert _ _ _ _ _ hs
  · exact hs

theorem alertLaw_takeWords (x : Link) (a : Nat) (c : Cause) : ∀ (ws : List WordClass) {s : State} (p : Bool),
    alertLaw s → alertLaw (takeWords x a c s p ws)
  | [], _, _, h => h
  | .clean :: ws, _, p, h => alertLaw_takeWords x a c ws p h
  | .corrected :: ws, _, p, h => alertLaw_takeWords x a c ws p (alertLaw_countCorrected h)
  | .uncorrectable :: ws, _, p, h => by
    unfold takeWords
    refine alertLaw_takeWords x a c ws true ?_
    split
    · exact h
    · exact alertLaw_raiseAlert _ _ _ _ _ h

theorem alertLaw_addDebt {s : State} (hs : alertLaw s) : alertLaw (addDebt s) := by
  unfold addDebt; dsimp only
  have hf : ∀ v, (forceTest v).mgmt = v.mgmt := fun v => by simp
  refine alertLaw_of_mgmt (hf _) ?_
  split
  · exact alertLaw_raiseAlert _ _ _ _ _ hs
  · exact hs

theorem alertLaw_resetBlocks {s : State} (x : Link) (cause : Cause) (hs : alertLaw s) :
    alertLaw (resetBlocks s x cause) := by
  have hm : ∀ u, alertLaw u → alertLaw (mgmtLinkReset u x) := by
    intro u hu
    unfold mgmtLinkReset; dsimp only; split
    · exact alertLaw_of_eq (by simp) (by simp) hu
    · exact hu
  have ht : ∀ u, alertLaw u → alertLaw (tenureLinkReset u x) := fun u =>
    alertLaw_of_mgmt (tenureLinkReset_frame u x).2.2.2.2.2.2.2.2.2.1
  refine ht _ (hm _ ?_)
  exact alertLaw_of_mgmt (s := raiseAlert s .linkDown (some x) none (some cause) none) (by simp)
    (alertLaw_raiseAlert _ _ _ _ _ hs)

/-- A management packet's effect leaves the alerts and the reply lists. -/
theorem MgmtChange.mgmt {x : Link} {s u : State} (h : MgmtChange x s u) :
    u.mgmt.alerts = s.mgmt.alerts ∧ u.mgmt.dropped = s.mgmt.dropped ∧ u.mgmt.replies = s.mgmt.replies := by
  cases h
  case resets v hv => rcases hv with rfl | rfl <;> simp [beginLong]
  case claims => simp [loadLease]
  case frees => simp [freeClaim]
  case drains => simp [beginDrain, beginLong]
  case starts => simp [beginStart, beginLong]
  case resumes => simp [beginResume, beginLong]
  case quiesces => simp [beginLong]
  all_goals simp

theorem alertLaw_discardPacket {s : State} (x : Link) (hs : alertLaw s) :
    alertLaw (discardPacket s x) := by
  unfold discardPacket; split
  · exact alertLaw_raiseProtocol _ _ _ hs
  · exact alertLaw_of_eq (by simp) (by simp) hs

theorem alertLaw_arriveRequest {s : State} (r : Txn) (hs : alertLaw s) : alertLaw (arriveRequest r s) := by
  unfold arriveRequest; split
  · exact alertLaw_raiseProtocol _ _ _ hs
  · split
    · exact alertLaw_raiseProtocol _ _ _ hs
    · exact alertLaw_of_mgmt (by simp) hs

theorem alertLaw_ownData {s : State} (es : List ErrMask) (hs : alertLaw s) :
    alertLaw (ownData es s) := by
  unfold ownData; split
  · exact hs
  · rename_i r v t _
    have h : alertLaw (dataTaken es s r v t).1 := alertLaw_takeWords _ _ _ _ false hs
    dsimp only; split
    · exact alertLaw_of_mgmt (by simp) h
    · exact h

/-- The commands whose own effect can change the Management Unit. -/
def touchesMgmt : Instr → Bool
  | .coldReset | .resetPoint | .readColumnDataArrival _ _ _ _ | .refreshTimerExpiry
  | .cueMonitorExpiry | .refreshCue _ _ | .noticeAck _ _ _ | .noticeTimerExpiry _ _
  | .lockHoldExpiry _ | .leaseTimerExpiry | .receiveUnknownPacket _ _ | .sendAlert
  | .train _ _ _ _ | .linkReset _ | .retryTimerExpiry _ | .replayTimerExpiry _ | .sendMgmtReply _
  | .commitTimerExpiry | .startSequenceEnd | .resumeSequenceEnd => true
  | c => (mgmtOf c).isSome || (requestOf c).isSome

/-- Every other command leaves the Management Unit. -/
theorem mgmt_ownEffect (c : Instr) (s : State) (hc : touchesMgmt c = false) :
    (ownEffect c s).mgmt = s.mgmt := by
  cases c
  case coldReset | resetPoint | readColumnDataArrival | refreshTimerExpiry | cueMonitorExpiry | refreshCue |
      noticeAck | noticeTimerExpiry | lockHoldExpiry | leaseTimerExpiry | receiveUnknownPacket |
      sendAlert | train | linkReset | retryTimerExpiry | replayTimerExpiry | sendMgmtReply |
      commitTimerExpiry | startSequenceEnd | resumeSequenceEnd | mgmtRead | mgmtWrite |
      writeTenureMode | writeRefreshMode | writeForceLevel | writeCueLink | writeFilterEnable |
      writeCreditLimit | writeAlertLink | writeLease | writeCorrThreshold | writeOpenLimit |
      tableRead | tableWrite | tableRevert | tableCommit | claim | release | channelStart |
      channelQuiesce | channelResume | hubReset | read | write | lockRead | lockWrite | lockDrop |
      fence => cases hc
  all_goals simp [ownEffect, effectOf]

theorem alertLaw_ownEffect (c : Instr) (s : State) (hm : mgmtOf c = none) (hr : requestOf c = none)
    (hs : alertLaw s) : alertLaw (ownEffect c s) := by
  cases c
  case coldReset => exact ⟨Nat.zero_le _, Nat.zero_le _⟩
  case resetPoint => exact hs
  case readColumnDataArrival => exact alertLaw_ownData _ hs
  case refreshTimerExpiry => exact alertLaw_addDebt (alertLaw_of_mgmt (by simp) hs)
  case cueMonitorExpiry =>
    simp only [ownEffect, ownCueMonitor]; split
    · exact alertLaw_of_mgmt (by simp) hs
    · exact alertLaw_addDebt (alertLaw_raiseAlert _ _ _ _ _ (alertLaw_of_mgmt (by simp) hs))
  case refreshCue x _ =>
    simp only [ownEffect, ownCue]; (repeat' split)
    · exact hs
    · exact alertLaw_raiseProtocol _ _ _ hs
    · exact alertLaw_addDebt (alertLaw_of_mgmt (by simp) hs)
    · exact hs
  case noticeAck x _ n =>
    simp only [ownEffect, ownNoticeAck]; split
    · exact alertLaw_raiseProtocol _ _ _ hs
    · exact alertLaw_of_mgmt (by simp) hs
  case noticeTimerExpiry y n =>
    simp only [ownEffect, ownNoticeExpiry]; split
    · exact hs
    · rename_i line _
      have h := alertLaw_raiseAlert (s := forgetRecent (dropWaiters s y line true) y [line])
        .noticeTimeout (some y) (some line) none (some n.toNat) (alertLaw_of_mgmt (by simp) hs)
      exact alertLaw_of_mgmt (by simp) h
  case lockHoldExpiry b =>
    simp only [ownEffect, ownLockExpiry]; split
    · exact hs
    · rename_i e _
      have h := alertLaw_raiseAlert .lockBroken (some e.holder) (some b) (some .expiry) none hs
      exact alertLaw_of_mgmt (by simp) h
  case leaseTimerExpiry =>
    simp only [ownEffect, effectOf, expireLease]
    exact alertLaw_raiseAlert _ _ _ _ _ (alertLaw_of_eq (s := s) (by simp [freeClaim]) (by simp [freeClaim]) hs)
  case receiveUnknownPacket x q => exact alertLaw_raiseProtocol _ _ _ hs
  case sendAlert =>
    simp only [ownEffect, effectOf, handAlert]; split
    · exact hs
    · rename_i a rest h
      obtain ⟨h1, h2⟩ := hs
      refine ⟨?_, h2⟩
      rw [h] at h1
      exact Nat.le_of_succ_le h1
  case train x _ _ seen =>
    simp only [ownEffect, ownTrain]; (repeat' split)
    · exact alertLaw_of_mgmt (by simp) hs
    · exact alertLaw_of_mgmt (by simp) hs
    · exact alertLaw_resetBlocks x _ hs
  case linkReset x => exact alertLaw_resetBlocks x _ hs
  case retryTimerExpiry x =>
    simp only [ownEffect, ownRetry]; split
    · exact alertLaw_of_mgmt (by simp) hs
    · exact alertLaw_resetBlocks x _ (alertLaw_of_mgmt (s := s) (by simp) hs)
  case replayTimerExpiry x =>
    simp only [ownEffect, ownReplay]; split
    · exact alertLaw_of_mgmt (by simp) hs
    · exact alertLaw_resetBlocks x _ (alertLaw_of_mgmt (s := s) (by simp) hs)
  case sendMgmtReply x =>
    simp only [ownEffect, effectOf, handReply]; split
    · exact hs
    · exact alertLaw_of_eq (s := s) (by simp) (by simp) hs
  case commitTimerExpiry => exact alertLaw_of_eq (s := s) (by simp [ownEffect]) (by simp [ownEffect]) hs
  case startSequenceEnd =>
    exact alertLaw_of_eq (s := s) (by simp [ownEffect, ownStartEnd]) (by simp [ownEffect, ownStartEnd]) hs
  case resumeSequenceEnd =>
    simp only [ownEffect, ownResumeEnd]; split
    · exact alertLaw_of_mgmt (by simp) hs
    · exact alertLaw_of_eq (s := s) (by simp) (by simp) hs
  case mgmtRead | mgmtWrite | writeTenureMode | writeRefreshMode | writeForceLevel | writeCueLink |
      writeFilterEnable | writeCreditLimit | writeAlertLink | writeLease | writeCorrThreshold |
      writeOpenLimit | tableRead | tableWrite | tableRevert | tableCommit | claim | release |
      channelStart | channelQuiesce | channelResume | hubReset => cases hm
  case read | write | lockRead | lockWrite | lockDrop | fence => cases hr
  all_goals exact alertLaw_of_mgmt (mgmt_ownEffect _ s rfl) hs

theorem alertLaw_effectOf (c : Instr) (s : State) (hs : alertLaw s) : alertLaw (effectOf c s) := by
  have hset : ∀ u, alertLaw u → alertLaw (settle u) := fun u => alertLaw_settle
  cases hm : mgmtOf c with
  | some m =>
    refine mgmt_keeps (x := m.1) (seq := m.2.1) (k := m.2.2) hm hs (fun u => alertLaw_discardPacket _)
      (fun u => alertLaw_raiseProtocol _ _ _) hset (fun u => alertLaw_of_eq rfl rfl)
      (fun u _ _ _ => alertLaw_of_eq rfl rfl) (fun u hu => by rw [hu.mgmt.2.2])
      fun u hu => alertLaw_of_eq hu.mgmt.1 hu.mgmt.2.1 hs
  | none =>
    cases hr : requestOf c with
    | some q =>
      rw [effectOf_requestOf (r := q.1) (seq := q.2) hr]; exact alertLaw_arriveRequest _ hs
    | none => exact effectOf_keeps hset (alertLaw_ownEffect c s hm hr hs)

/-! ## Management replies (09 R148) -/

/-- No reply list is longer in `u`. -/
def repliesFall (s u : State) : Prop :=
  ∀ x, (u.mgmt.replies.get x).length ≤ (s.mgmt.replies.get x).length

theorem repliesFall_of {s u : State} (h : u.mgmt.replies = s.mgmt.replies) : repliesFall s u :=
  fun x => by rw [h]

theorem repliesFall.then {s u v : State} (h : repliesFall s u) (h' : repliesFall u v) :
    repliesFall s v := fun x => (h' x).trans (h x)

theorem replyLaw_of {s u : State} (h : repliesFall s u) (hs : replyLaw s) : replyLaw u :=
  fun x => (h x).trans (hs x)

@[simp] theorem replies_raiseProtocol (s : State) (x : Link) (c : Cause) (v : Option Nat) :
    (raiseProtocol s x c v).mgmt.replies = s.mgmt.replies := by simp [raiseProtocol]

@[simp] theorem replies_countCorrected (s : State) :
    (countCorrected s).mgmt.replies = s.mgmt.replies := by
  unfold countCorrected; dsimp only; split <;> simp

theorem replies_takeWords (x : Link) (a : Nat) (c : Cause) : ∀ (ws : List WordClass) (s : State) (p : Bool),
    (takeWords x a c s p ws).mgmt.replies = s.mgmt.replies
  | [], _, _ => rfl
  | .clean :: ws, s, p => replies_takeWords x a c ws s p
  | .corrected :: ws, s, p =>
    (replies_takeWords x a c ws (countCorrected s) p).trans (replies_countCorrected s)
  | .uncorrectable :: ws, s, p => by
    unfold takeWords
    refine (replies_takeWords x a c ws _ true).trans ?_
    split <;> simp

@[simp] theorem replies_addDebt (s : State) : (addDebt s).mgmt.replies = s.mgmt.replies := by
  unfold addDebt; dsimp only
  rw [show ∀ u, (forceTest u).mgmt = u.mgmt from fun u => by simp]
  split <;> simp

/-- One reply list changed to one that is no longer. -/
theorem repliesFall_set {s u : State} {x : Link} {l : List MgmtEntry}
    (h : u.mgmt.replies = s.mgmt.replies.set x l) (hl : l.length ≤ (s.mgmt.replies.get x).length) :
    repliesFall s u := by
  intro y
  rw [h]
  by_cases hy : y = x
  · subst hy; rw [PerLink.get_set]; exact hl
  · rw [PerLink.get_set_ne _ _ _ _ hy]

theorem repliesFall_resetBlocks (s : State) (x : Link) (cause : Cause) :
    repliesFall s (resetBlocks s x cause) := by
  have hm : ∀ u, (mgmtLinkReset u x).mgmt.replies = u.mgmt.replies.set x [] := by
    intro u; unfold mgmtLinkReset; dsimp only; split <;> simp
  refine repliesFall_set (x := x) (l := []) ?_ (Nat.zero_le _)
  unfold resetBlocks; dsimp only
  rw [(tenureLinkReset_frame _ x).2.2.2.2.2.2.2.2.2.1, hm]
  simp

theorem repliesFall_ownEffect (c : Instr) (s : State) (hm : mgmtOf c = none) (hr : requestOf c = none)
    (hp : c ≠ .resetPoint) : repliesFall s (ownEffect c s) := by
  cases c
  case resetPoint => exact absurd rfl hp
  case coldReset => exact fun x => by cases x <;> exact Nat.zero_le _
  case readColumnDataArrival =>
    refine repliesFall_of ?_
    simp only [ownEffect, ownData]; split
    · rfl
    · split
      · rw [show ∀ u p v t, (afterLastRead u p v t).mgmt = u.mgmt from fun u p v t => by simp]
        exact replies_takeWords ..
      · exact replies_takeWords ..
  case refreshTimerExpiry => exact repliesFall_of (by simp [ownEffect])
  case cueMonitorExpiry =>
    refine repliesFall_of ?_
    simp only [ownEffect, ownCueMonitor]; split <;> simp
  case refreshCue =>
    refine repliesFall_of ?_
    simp only [ownEffect, ownCue]; (repeat' split) <;> simp
  case noticeAck =>
    refine repliesFall_of ?_
    simp only [ownEffect, ownNoticeAck]; split <;> simp
  case noticeTimerExpiry =>
    refine repliesFall_of ?_
    simp only [ownEffect, ownNoticeExpiry]; split <;> simp
  case lockHoldExpiry =>
    refine repliesFall_of ?_
    simp only [ownEffect, ownLockExpiry]; split <;> simp
  case leaseTimerExpiry => exact repliesFall_of (by simp [ownEffect, effectOf, expireLease, freeClaim])
  case receiveUnknownPacket => exact repliesFall_of (by simp [ownEffect, effectOf])
  case sendAlert =>
    refine repliesFall_of ?_
    simp only [ownEffect, effectOf, handAlert]; split <;> simp
  case sendMgmtReply x =>
    simp only [ownEffect, effectOf, handReply]; split
    · exact repliesFall_of rfl
    · rename_i e rest h
      exact repliesFall_set (x := x) (l := rest) (by simp) (by rw [h]; exact Nat.le_succ _)
  case train x _ _ seen =>
    simp only [ownEffect, ownTrain]; (repeat' split)
    · exact repliesFall_of (by simp)
    · exact repliesFall_of (by simp)
    · exact repliesFall_resetBlocks s x _
  case linkReset x => exact repliesFall_resetBlocks s x _
  case retryTimerExpiry x =>
    simp only [ownEffect, ownRetry]; split
    · exact repliesFall_of (by simp)
    · exact repliesFall_resetBlocks (putOnWire s x [.linkReset]) x _
  case replayTimerExpiry x =>
    simp only [ownEffect, ownReplay]; split
    · exact repliesFall_of (by simp)
    · exact repliesFall_resetBlocks (putOnWire s x [.linkReset]) x _
  case commitTimerExpiry =>
    intro x; simp only [ownEffect, length_replies_endLong]; simp
  case startSequenceEnd =>
    intro x; simp only [ownEffect, ownStartEnd, length_replies_endLong]; simp
  case resumeSequenceEnd =>
    intro x
    simp only [ownEffect, ownResumeEnd]; split
    · simp
    · simp only [length_replies_endLong]; simp
  case mgmtRead | mgmtWrite | writeTenureMode | writeRefreshMode | writeForceLevel | writeCueLink |
      writeFilterEnable | writeCreditLimit | writeAlertLink | writeLease | writeCorrThreshold |
      writeOpenLimit | tableRead | tableWrite | tableRevert | tableCommit | claim | release |
      channelStart | channelQuiesce | channelResume | hubReset => cases hm
  case read | write | lockRead | lockWrite | lockDrop | fence => cases hr
  all_goals exact repliesFall_of (by rw [mgmt_ownEffect _ s rfl])

/-- After the reset point a list holds at most the reply to HUB-RESET. -/
theorem replyLaw_takeResetPoint (s : State) : replyLaw (takeResetPoint s) := by
  have h : ∀ x, (warmReplies s x).length ≤ replyRoom := by
    intro x; unfold warmReplies; split <;> simp [replyRoom]
  intro x; cases x
  · exact h .a
  · exact h .b

theorem replyLaw_joinReplies {s : State} {x : Link} (k : MgmtKind) (d : Decision)
    (h : (s.mgmt.replies.get x).length < 2) (hs : replyLaw s) : replyLaw (joinReplies s x k d) := by
  intro y
  show ((s.mgmt.replies.set x _).get y).length ≤ _
  by_cases hy : y = x
  · subst hy; rw [PerLink.get_set, List.length_append]; exact h
  · rw [PerLink.get_set_ne _ _ _ _ hy]; exact hs y

theorem replyLaw_effectOf (c : Instr) (s : State) (hs : replyLaw s) : replyLaw (effectOf c s) := by
  have hset : ∀ u, replyLaw u → replyLaw (settle u) := fun u =>
    replyLaw_of fun x => (length_replies_settle u x).le
  cases hm : mgmtOf c with
  | some m =>
    refine mgmt_keeps (x := m.1) (seq := m.2.1) (k := m.2.2) hm hs
      (fun u => replyLaw_of (repliesFall_of ?_)) (fun u => replyLaw_of (repliesFall_of (by simp))) hset
      (fun u => replyLaw_of (repliesFall_of rfl)) (fun u k d => replyLaw_joinReplies k d)
      (fun u hu => by rw [hu.mgmt.2.2]) fun u hu => replyLaw_of (repliesFall_of hu.mgmt.2.2) hs
    unfold discardPacket; split <;> simp
  | none =>
    cases hr : requestOf c with
    | some q =>
      rw [effectOf_requestOf (r := q.1) (seq := q.2) hr]
      refine replyLaw_of (repliesFall_of ?_) hs
      unfold arriveRequest; (repeat' split) <;> simp
    | none =>
      by_cases hp : c = .resetPoint
      · subst hp; exact replyLaw_takeResetPoint s
      · exact effectOf_keeps hset (replyLaw_of (repliesFall_ownEffect c s hm hr hp) hs)

end Sys2Proof.Machine
end


section
/-! PROOFS. The counts of a link (10 R167) and the sizes of the table sets (02 R34), which every step keeps. -/

namespace Sys2Proof.Machine

/-! ## The counts of a link (10 R167) -/

theorem linkLaw_of {s u : State} (h : modestly s u) (hs : linkLaw s) : linkLaw u := by
  intro x
  obtain ⟨-, h1, h2, h3, h4⟩ := h x
  obtain ⟨g1, g2, g3, g4⟩ := hs x
  exact ⟨h1.trans g1, h2.trans g2, h3.trans g3, h4.trans g4⟩

/-- One Link Controller changed to one whose counts keep their ranges. -/
theorem linkLaw_modLink {s : State} {x : Link} {f : LinkCtl → LinkCtl} (hs : linkLaw s)
    (h : (f (linkOf s x)).replay.length ≤ replayRoom ∧ (f (linkOf s x)).unacked ≤ 7 ∧
      (f (linkOf s x)).retryCount ≤ 8 ∧ (f (linkOf s x)).replayCount ≤ 4) :
    linkLaw (modLink s x f) := by
  intro y
  by_cases hy : y = x
  · subst hy; rw [linkOf_modLink]; exact h
  · rw [linkOf_modLink_ne _ _ _ _ hy]; exact hs y

theorem linkLaw_sendSequenced {s : State} {x : Link} (p : HubPacket) (h : canSend s x = true)
    (hs : linkLaw s) : linkLaw (sendSequenced s x p) := by
  obtain ⟨-, h2, h3, h4⟩ := hs x
  have hroom : (linkOf s x).replay.length < replayRoom := by
    simp only [canSend, Bool.and_eq_true, decide_eq_true_eq] at h; exact h.2
  refine linkLaw_modLink (s := putOnWire s x _) (linkLaw_of (modestly_of_links rfl) hs) ⟨?_, h2, h3, h4⟩
  simpa using hroom

theorem canSend_of_mayTake {s : State} {x : Link} {src : Source} (h : mayTake s x src = true) :
    canSend s x = true := by
  unfold mayTake at h
  exact (Bool.and_eq_true_iff.mp h).1

theorem linkLaw_acceptPacket {s : State} (x : Link) (hs : linkLaw s) : linkLaw (acceptPacket s x) := by
  intro y
  by_cases hy : y = x
  · subst hy
    obtain ⟨h1, h2, h3, h4⟩ := hs y
    rw [linkOf_acceptPacket]
    split
    · exact ⟨h1, Nat.zero_le _, h3, h4⟩
    · exact ⟨h1, by dsimp only; omega, h3, h4⟩
  · rw [linkOf_acceptPacket_ne _ hy]; exact hs y

theorem linkLaw_accepted {s : State} (x : Link) (hs : linkLaw s) : linkLaw (accepted s x) := by
  refine linkLaw_acceptPacket x ?_
  split
  · exact linkLaw_of (modestly_modLink _ x _ modest_leaveRetry) hs
  · exact hs

theorem linkLaw_enterRetry {s : State} (x : Link) (hs : linkLaw s) : linkLaw (enterRetry s x) := by
  have h := linkLaw_of (modestly_sendRetryReq s x) hs
  obtain ⟨h1, h2, -, h4⟩ := h x
  exact linkLaw_modLink h ⟨h1, h2, by simp, h4⟩

theorem linkLaw_handCredit {s : State} {x : Link} (h : canSend s x = true) (hs : linkLaw s) :
    linkLaw (handCredit x s) :=
  linkLaw_of (modestly_modLink _ x _ fun l => modest_refl l) (linkLaw_sendSequenced _ h hs)

theorem linkLaw_effectOf (c : Instr) (s : State) (hs : linkLaw s) (hg : guardHolds c s) :
    linkLaw (effectOf c s) := by
  by_cases hr : raisesCount c = false
  · exact linkLaw_of (modestly_effectOf c s hr) hs
  · cases c <;> simp [raisesCount] at hr
    case coldReset => exact fun x => by cases x <;> exact ⟨Nat.zero_le _, Nat.zero_le _, Nat.zero_le _, Nat.zero_le _⟩
    case sendResponse x =>
      simp only [effectOf, handResponse]; split
      · exact hs
      · split
        · exact hs
        · rename_i i rest _ _ t _
          have h := linkLaw_sendSequenced (responseOf t) (canSend_of_mayTake hg) hs
          refine linkLaw_of (modestly_of_links (settleFence_frame _ x).1) ?_
          exact linkLaw_of (modestly_modLink _ x _ fun l => modest_refl l)
            (linkLaw_of (s := sendSequenced s x (responseOf t)) (modestly_of_links rfl) h)
    case sendMgmtReply x =>
      simp only [effectOf, handReply]; split
      · exact hs
      · rename_i e rest _
        have h := linkLaw_sendSequenced (replyOf e) (canSend_of_mayTake hg) hs
        exact linkLaw_of (modestly_modLink _ x _ fun l => modest_refl l)
          (linkLaw_of (s := sendSequenced s x (replyOf e)) (modestly_of_links rfl) h)
    case sendNotice x =>
      simp only [effectOf, handNotice]; split
      · exact hs
      · exact linkLaw_of (modestly_modLink _ x _ fun l => modest_refl l)
          (linkLaw_sendSequenced _ (canSend_of_mayTake hg) hs)
    case sendAlert =>
      simp only [effectOf, handAlert]; split
      · exact hs
      · exact linkLaw_of (modestly_of_links rfl)
          (linkLaw_sendSequenced (.alert _) (canSend_of_mayTake hg) hs)
    case sendCredit x => exact linkLaw_handCredit (canSend_of_mayTake hg) hs
    case restartingCredit x =>
      have hg' : canSend s x = true := by
        simp only [guardHolds, Bool.and_eq_true] at hg; exact hg.1.1
      exact linkLaw_of (modestly_modLink _ x _ fun l => modest_refl l) (linkLaw_handCredit hg' hs)
    case sendFirstTrain x =>
      exact linkLaw_of (modestly_sendTrain _ x) (linkLaw_modLink hs (hs x))
    case receiveBadPacket x why => exact linkLaw_enterRetry x hs
    case retryTimerExpiry x =>
      simp only [effectOf, expireRetry]; split
      · rename_i hlt
        have h := linkLaw_of (modestly_sendRetryReq s x) hs
        obtain ⟨h1, h2, -, h4⟩ := h x
        have hle := (modestly_sendRetryReq s x x).2.2.2.1
        exact linkLaw_modLink h ⟨h1, h2, by dsimp only; omega, h4⟩
      · exact linkLaw_of (modestly_hubLinkReset s x _) hs
    case replayTimerExpiry x =>
      simp only [effectOf, expireReplay]; split
      · rename_i hlt
        obtain ⟨h1, h2, h3, -⟩ := hs x
        exact linkLaw_modLink (s := putOnWire s x _) (linkLaw_of (modestly_of_links rfl) hs)
          ⟨h1, h2, h3, Nat.succ_le_of_lt hlt⟩
      · exact linkLaw_of (modestly_hubLinkReset s x _) hs

theorem modestly_tick (s : State) : modestly s (tick s) := by
  intro x; cases x <;> exact ⟨rfl, le_rfl, le_rfl, le_rfl, le_rfl⟩

/-! ## The table sets (02 R34) -/

theorem tablesLaw_of_xlate {s u : State} (h : u.xlate = s.xlate) (hs : tablesLaw s) : tablesLaw u := by
  unfold tablesLaw; rw [h]; exact hs

theorem tablesLaw_revertShadow {s : State} (hs : tablesLaw s) : tablesLaw (revertShadow s) :=
  ⟨hs.1, hs.1⟩

theorem tablesLaw_makeHeldRevert {s : State} (hs : tablesLaw s) : tablesLaw (makeHeldRevert s) := by
  unfold makeHeldRevert; split
  · exact ⟨hs.1, hs.1⟩
  · exact hs

theorem tablesLaw_commitSwitch {s : State} (hs : tablesLaw s) : tablesLaw (commitSwitch s) := by
  unfold commitSwitch
  exact tablesLaw_makeHeldRevert ⟨hs.2, hs.2⟩

theorem tablesLaw_abandonCommit {s : State} (hs : tablesLaw s) : tablesLaw (abandonCommit s) :=
  tablesLaw_makeHeldRevert (s := { s with xlate :=
    { s.xlate with commit := .steady, commitTimer := .stopped } }) hs

theorem tablesLaw_revertAtFreeing {s : State} (hs : tablesLaw s) : tablesLaw (revertAtFreeing s) := by
  unfold revertAtFreeing; split
  · exact hs
  · exact ⟨hs.1, hs.1⟩

theorem tablesLaw_settle {s : State} (hs : tablesLaw s) : tablesLaw (settle s) := by
  have hc : tablesLaw (settleCommit s) := by
    unfold settleCommit; dsimp only; split
    · exact tablesLaw_of_xlate (endLong_frame ..).2.2.1 (tablesLaw_commitSwitch hs)
    · exact hs
  exact tablesLaw_of_xlate (s := settleCommit s) (by simp [settle]) hc

theorem tablesLaw_resetBlocks {s : State} (x : Link) (cause : Cause) (hs : tablesLaw s) :
    tablesLaw (resetBlocks s x cause) := by
  have hm : ∀ u, tablesLaw u → tablesLaw (mgmtLinkReset u x) := by
    intro u hu
    unfold mgmtLinkReset; dsimp only; split
    · exact tablesLaw_revertAtFreeing hu
    · exact hu
  have ht : ∀ u, tablesLaw u → tablesLaw (tenureLinkReset u x) := fun u =>
    tablesLaw_of_xlate (tenureLinkReset_frame u x).2.2.1
  exact ht _ (hm _ (tablesLaw_of_xlate (s := s) (by simp) hs))

/-- A written entry leaves the sizes of its set. -/
theorem setLaw_writeEntry {t t' : TableSet} {n : TableName} {i : Nat} {e : BitVec 96}
    (h : writeEntry t n i e = some t') (ht : setLaw t) : setLaw t' := by
  cases n <;> obtain ⟨v, -, rfl⟩ := Option.map_eq_some_iff.mp h
  · exact ⟨by simpa using ht.1, ht.2⟩
  · exact ⟨ht.1, by simpa using ht.2⟩
  · exact ht

theorem tablesLaw_change {x : Link} {s u : State} (h : MgmtChange x s u) (hs : tablesLaw s) :
    tablesLaw u := by
  cases h
  case shadows h => exact ⟨hs.1, setLaw_writeEntry h hs.2⟩
  case reverts => exact tablesLaw_revertShadow hs
  case switches => exact tablesLaw_commitSwitch hs
  case frees => exact tablesLaw_revertAtFreeing hs
  case drains => exact hs
  case resets v hv =>
    have hv' : tablesLaw v := by
      rcases hv with rfl | rfl
      · exact hs
      · exact tablesLaw_abandonCommit hs
    exact tablesLaw_of_xlate (s := v) (by simp) hv'
  all_goals exact tablesLaw_of_xlate (by simp) hs

theorem tablesLaw_ownEffect (c : Instr) (s : State) (hm : mgmtOf c = none) (hs : tablesLaw s) :
    tablesLaw (ownEffect c s) := by
  cases c
  case coldReset => exact ⟨⟨rfl, rfl⟩, rfl, rfl⟩
  case resetPoint => exact ⟨hs.1, hs.1⟩
  case commitTimerExpiry =>
    exact tablesLaw_of_xlate (endLong_frame ..).2.2.1 (tablesLaw_abandonCommit hs)
  case leaseTimerExpiry =>
    have h : tablesLaw (freeClaim s) := tablesLaw_revertAtFreeing hs
    exact tablesLaw_of_xlate (raiseAlert_frame ..).2.2.1 h
  case train x _ _ seen =>
    simp only [ownEffect, ownTrain]; (repeat' split)
    · exact tablesLaw_of_xlate (by simp) hs
    · exact tablesLaw_of_xlate (by simp) hs
    · exact tablesLaw_resetBlocks x _ hs
  case linkReset x => exact tablesLaw_resetBlocks x _ hs
  case retryTimerExpiry x =>
    simp only [ownEffect, ownRetry]; split
    · exact tablesLaw_of_xlate (by simp) hs
    · exact tablesLaw_resetBlocks (s := putOnWire s x [.linkReset]) x _ hs
  case replayTimerExpiry x =>
    simp only [ownEffect, ownReplay]; split
    · exact tablesLaw_of_xlate (by simp) hs
    · exact tablesLaw_resetBlocks (s := putOnWire s x [.linkReset]) x _ hs
  case mgmtRead | mgmtWrite | writeTenureMode | writeRefreshMode | writeForceLevel | writeCueLink |
      writeFilterEnable | writeCreditLimit | writeAlertLink | writeLease | writeCorrThreshold |
      writeOpenLimit | tableRead | tableWrite | tableRevert | tableCommit | claim | release |
      channelStart | channelQuiesce | channelResume | hubReset => cases hm
  all_goals exact tablesLaw_of_xlate (by simp [ownEffect, effectOf]) hs

theorem tablesLaw_effectOf (c : Instr) (s : State) (hs : tablesLaw s) : tablesLaw (effectOf c s) := by
  have hset : ∀ u, tablesLaw u → tablesLaw (settle u) := fun u => tablesLaw_settle
  cases hm : mgmtOf c with
  | some m =>
    exact mgmt_keeps (x := m.1) (seq := m.2.1) (k := m.2.2) hm hs
      (fun u => tablesLaw_of_xlate (by simp)) (fun u => tablesLaw_of_xlate (by simp)) hset
      (fun u => tablesLaw_of_xlate (by simp)) (fun u _ _ _ => tablesLaw_of_xlate (by simp))
      (fun u hu => by rw [hu.mgmt.2.2]) fun u hu => tablesLaw_change hu hs
  | none => exact effectOf_keeps hset (tablesLaw_ownEffect c s hm hs)

end Sys2Proof.Machine
end


section
/-! PROOFS. The laws of the bank records, the open-row lists and the position last granted (03 R48 to R56,
R66). Most changes leave a bank's state, do not add a reservation and leave each list's members: `rowsStand`.
The commands that open, close and re-form rows are judged one by one. -/

namespace Sys2Proof.Machine

/-! ## Changes that leave the rows as they stand -/

/-- A row of the bank is open or is being opened: the bank stands in its rank's open-row list. -/
def rowOpen (b : Bank) : Prop := b.state = .openRow ∨ b.state = .activating

/-- A bank record stays in its rank's open-row list or outside it, and gains no reservation. -/
def bankStands (b b' : Bank) : Prop :=
  (rowOpen b' ↔ rowOpen b) ∧ (holdsReservation b' = true → holdsReservation b = true)

/-- An open-row list keeps its members, in whatever order, and does not grow. -/
def listStands (l l' : List Nat) : Prop :=
  (l.Nodup → l'.Nodup) ∧ (∀ p, p ∈ l' ↔ p ∈ l) ∧ l'.length ≤ l.length

/-- What the laws of the banks speak of stands: the geometry and the limit of open rows, the channel's state, the bank states, the
members of the open-row lists and the position last granted; and no bank gains a reservation. -/
structure rowsStand (s u : State) : Prop where
  geometry : u.settings.geometry = s.settings.geometry
  limit : u.settings.rows.openLimit = s.settings.rows.openLimit
  state : u.chan.state = s.chan.state
  lastRun : u.chan.lastRun = s.chan.lastRun
  granted : u.sched.lastGranted = s.sched.lastGranted
  length : u.sched.banks.length = s.sched.banks.length
  banks : ∀ p b', bankAt u p = some b' → ∃ b, bankAt s p = some b ∧ bankStands b b'
  lists : ∀ rank, listStands (openRowList s rank) (openRowList u rank)

theorem bankStands_refl (b : Bank) : bankStands b b := ⟨.rfl, id⟩

theorem listStands_refl (l : List Nat) : listStands l l := ⟨id, fun _ => .rfl, le_rfl⟩

theorem rowsStand.of_sched {s u : State} (h : u.sched = s.sched) (hs : u.settings = s.settings)
    (hc : u.chan.state = s.chan.state) (hl : u.chan.lastRun = s.chan.lastRun) : rowsStand s u where
  geometry := by rw [hs]
  limit := by rw [hs]
  state := hc
  lastRun := hl
  granted := by rw [h]
  length := by rw [h]
  banks p b' hb := ⟨b', by simpa [bankAt, h] using hb, bankStands_refl b'⟩
  lists rank := by
    have e : openRowList u rank = openRowList s rank := by simp [openRowList, h]
    rw [e]; exact listStands_refl _

theorem rowsStand.refl (s : State) : rowsStand s s := .of_sched rfl rfl rfl rfl

theorem rowsStand.then {s u w : State} (h : rowsStand s u) (h' : rowsStand u w) : rowsStand s w where
  geometry := h'.geometry.trans h.geometry
  limit := h'.limit.trans h.limit
  state := h'.state.trans h.state
  lastRun := h'.lastRun.trans h.lastRun
  granted := h'.granted.trans h.granted
  length := h'.length.trans h.length
  banks p b'' hb := by
    obtain ⟨b', hb', e', f'⟩ := h'.banks p b'' hb
    obtain ⟨b, hb, e, f⟩ := h.banks p b' hb'
    exact ⟨b, hb, e'.trans e, f ∘ f'⟩
  lists rank := by
    obtain ⟨hn, hm, hl⟩ := h.lists rank
    obtain ⟨hn', hm', hl'⟩ := h'.lists rank
    exact ⟨hn' ∘ hn, fun p => (hm' p).trans (hm p), hl'.trans hl⟩

theorem rowsStand.mem_banks {s u : State} (h : rowsStand s u) {b' : Bank} (hb : b' ∈ u.sched.banks) :
    ∃ b ∈ s.sched.banks, bankStands b b' := by
  obtain ⟨p, hp⟩ := List.mem_iff_getElem?.mp hb
  obtain ⟨b, hb, hst⟩ := h.banks p b' hp
  exact ⟨b, List.mem_of_getElem? hb, hst⟩

theorem rowsStand.bankAt {s u : State} (h : rowsStand s u) {p : Nat} {b : Bank}
    (hb : bankAt s p = some b) : ∃ b', bankAt u p = some b' ∧ bankStands b b' := by
  have hp : p < u.sched.banks.length := by
    rw [h.length]; exact (List.getElem?_eq_some_iff.mp hb).1
  have hb' : Machine.bankAt u p = some (u.sched.banks[p]) := List.getElem?_eq_getElem hp
  obtain ⟨b₀, hb₀, hst⟩ := h.banks p _ hb'
  cases hb.symm.trans hb₀
  exact ⟨_, hb', hst⟩

theorem rowsStand.positionsOf {s u : State} (h : rowsStand s u) (rank : Nat) :
    positionsOf u rank = positionsOf s rank := by
  have hr : rankOf u = rankOf s := by funext p; simp [rankOf, h.geometry]
  simp only [Machine.positionsOf, positions, hr, h.length]

theorem rowsStand.reservations_le {s u : State} (h : rowsStand s u) (rank : Nat) :
    reservations u rank ≤ reservations s rank := by
  unfold reservations
  rw [h.positionsOf]
  refine (List.monotone_filter_right _ fun p hp => ?_).length_le
  obtain ⟨b', hb', hr⟩ := (Option.any_eq_true ..).mp hp
  obtain ⟨b, hb, -, hf⟩ := h.banks p b' hb'
  rw [hb]; exact hf hr

theorem rowsStand.serves {s u : State} (h : rowsStand s u) : channelServes u = channelServes s := by
  simp [channelServes, h.state]

/-- A bank stands OPEN or ACTIVATING in the one record exactly if it does in the other. -/
theorem rowsStand.rowOpen_iff {s u : State} (h : rowsStand s u) (p : Nat) :
    (∃ b, Machine.bankAt u p = some b ∧ rowOpen b) ↔ ∃ b, Machine.bankAt s p = some b ∧ rowOpen b := by
  constructor
  · rintro ⟨b', hb', ho⟩
    obtain ⟨b, hb, e, -⟩ := h.banks p b' hb'
    exact ⟨b, hb, e.mp ho⟩
  · rintro ⟨b, hb, ho⟩
    obtain ⟨b', hb', e, -⟩ := h.bankAt hb
    exact ⟨b', hb', e.mpr ho⟩

theorem rowsStand.bankLaw {s u : State} (h : rowsStand s u) (hs : bankLaw s) : bankLaw u := by
  obtain ⟨hrun, hstop, hinit, hq, hsl⟩ := hs
  refine ⟨fun hu => ?_, fun hu b' hb' => ?_, ?_, ?_, ?_⟩
  · obtain ⟨hlen, hroom⟩ := hrun (h.serves.symm.trans hu)
    refine ⟨by rw [h.length, hlen]; simp [bankCount, h.geometry], fun rank hr => ?_⟩
    have h1 := hroom rank hr
    have h2 := h.reservations_le rank
    have h3 := (h.lists rank).2.2
    have h4 : openLimitInForce u = openLimitInForce s := by simp [openLimitInForce, h.geometry, h.limit]
    omega
  · obtain ⟨b, hb, e, -⟩ := h.mem_banks hb'
    exact not_or.mp fun ho => not_or.mpr (hstop (h.serves.symm.trans hu) b hb) (e.mp ho)
  · rw [h.state, h.lastRun]; exact hinit
  · rw [h.state, h.lastRun, h.geometry]; exact hq
  · rw [h.state, h.lastRun, h.length]; exact hsl

theorem rowsStand.openRowsLaw {s u : State} (h : rowsStand s u) (hs : openRowsLaw s) : openRowsLaw u := by
  intro rank hr
  obtain ⟨hn, hm, hl⟩ := hs rank hr
  obtain ⟨hn', hm', hl'⟩ := h.lists rank
  refine ⟨hn' hn, fun p => ?_, ?_⟩
  · rw [hm' p, hm p]
    refine and_congr ?_ (h.rowOpen_iff p).symm
    simp [rankOf, h.geometry]
  · have h4 : openLimitInForce u = openLimitInForce s := by simp [openLimitInForce, h.geometry, h.limit]
    rw [h4]; exact hl'.trans hl

/-- The laws of the banks, with what they need of the geometry: at most two ranks. -/
def rowsLaw (s : State) : Prop := s.settings.geometry.ranks ≤ 2 ∧ bankLaw s ∧ openRowsLaw s

theorem rowsStand.rowsLaw {s u : State} (h : rowsStand s u) (hs : rowsLaw s) : rowsLaw u :=
  ⟨by rw [h.geometry]; exact hs.1, h.bankLaw hs.2.1, h.openRowsLaw hs.2.2⟩

/-! ## Bank records -/

theorem rowsStand_modBank (s : State) (pos : Nat) {f : Bank → Bank}
    (h : ∀ b, bankAt s pos = some b → bankStands b (f b)) : rowsStand s (modBank s pos f) where
  geometry := rfl
  limit := rfl
  state := rfl
  lastRun := rfl
  granted := rfl
  length := List.length_modify ..
  banks p b' hb := by
    rw [bankAt_modBank] at hb
    split at hb
    · subst p
      obtain ⟨b, hb₀, rfl⟩ := Option.map_eq_some_iff.mp hb
      exact ⟨b, hb₀, h b hb₀⟩
    · exact ⟨b', hb, bankStands_refl b'⟩
  lists rank := listStands_refl _

theorem rowsStand_foldl {α : Type} {f : State → α → State} (h : ∀ s a, rowsStand s (f s a)) :
    ∀ (l : List α) (s : State), rowsStand s (l.foldl f s)
  | [], s => .refl s
  | a :: l, s => (h s a).then (rowsStand_foldl h l (f s a))

end Sys2Proof.Machine
end


section
/-! SUPPORT. What the conditions of the DRAM commands say of the bank; and the changes that leave the rows as
they stand: close requests, the commands of a service and its end, and the consequences of an event up to the
entry to self-refresh. -/

namespace Sys2Proof.Machine

/-! ## The conditions of the DRAM commands -/

theorem serviceToSend_spec {s : State} {pos : Nat} {b : Bank} {v : Service}
    (h : serviceToSend s pos = some (b, v)) :
    bankAt s pos = some b ∧ b.serving = some v ∧ mayContinue s v = true ∧
      earlierCommandReady s v.issued = false := by
  obtain ⟨b', hb, h⟩ := Option.bind_eq_some_iff.mp h
  obtain ⟨v', hv, h⟩ := Option.bind_eq_some_iff.mp h
  split at h
  · rename_i hc
    cases h
    simp only [Bool.and_eq_true, Bool.not_eq_true'] at hc
    exact ⟨hb, hv, hc.1, hc.2⟩
  · cases h

theorem activateReady_spec {s : State} {pos row : Nat} (h : activateReady s pos = some row) :
    ∃ b v, bankAt s pos = some b ∧ b.serving = some v ∧ b.state = .closed ∧ channelServes s = true ∧
      (v.reserved = true ∨ hasRoom s (rankOf s pos) = true) ∧ slotRow s v.slot = some row := by
  unfold activateReady at h
  split at h
  · cases h
  · rename_i b v hs
    split at h
    · rename_i hc
      simp only [Bool.and_eq_true, Bool.or_eq_true, decide_eq_true_eq] at hc
      obtain ⟨hb, hv, -, -⟩ := serviceToSend_spec hs
      exact ⟨b, v, hb, hv, hc.1.1, hc.1.2, hc.2, h⟩
    · cases h

theorem columnReady_spec {s : State} {pos : Nat} {v : Service} (h : columnReady s pos = some v) :
    ∃ b, bankAt s pos = some b ∧ b.serving = some v ∧ b.state = .openRow := by
  unfold columnReady at h
  split at h
  · cases h
  · rename_i b v hs
    split at h
    · rename_i hc
      cases h
      simp only [Bool.and_eq_true, decide_eq_true_eq] at hc
      obtain ⟨hb, hv, -, -⟩ := serviceToSend_spec hs
      exact ⟨b, hb, hv, hc.1⟩
    · cases h

theorem readColumnReady_spec {s : State} {pos k : Nat} {v : Service}
    (h : readColumnReady s pos = some (v, k)) : ∃ b, bankAt s pos = some b ∧ b.serving = some v := by
  unfold readColumnReady at h
  split at h
  · cases h
  · rename_i w hc
    obtain ⟨k', -, e⟩ := Option.map_eq_some_iff.mp h
    cases e
    obtain ⟨b, hb, hv, -⟩ := columnReady_spec hc
    exact ⟨b, hb, hv⟩

theorem writeColumnReady_spec {s : State} {pos k : Nat} {v : Service} {data : Block}
    (h : writeColumnReady s pos = some (v, k, data)) :
    ∃ b, bankAt s pos = some b ∧ b.serving = some v := by
  unfold writeColumnReady at h
  split at h
  · cases h
  · rename_i w hc
    split at h
    · obtain ⟨k', -, e⟩ := Option.map_eq_some_iff.mp h
      cases e
      obtain ⟨b, hb, hv, -⟩ := columnReady_spec hc
      exact ⟨b, hb, hv⟩
    · cases h

theorem dataDue_spec {s : State} {r : ReadDue} {v : Service} {t : Txn}
    (h : dataDue s = some (r, v, t)) :
    (∃ rest, s.chan.readsDue = r :: rest) ∧ (∃ b, bankAt s r.pos = some b ∧ b.serving = some v) ∧
      slotAt s v.slot = some t := by
  unfold dataDue at h
  split at h
  · cases h
  · rename_i r' rest hr
    obtain ⟨b, hb, h⟩ := Option.bind_eq_some_iff.mp h
    obtain ⟨w, hw, h⟩ := Option.bind_eq_some_iff.mp h
    obtain ⟨u, hu, e⟩ := Option.map_eq_some_iff.mp h
    cases e
    exact ⟨⟨rest, hr⟩, ⟨b, hb, hw⟩, hu⟩

/-- A bank whose PRECHARGE may be sent is OPEN. -/
theorem precharge_openRow {s : State} {pos : Nat}
    (h : (closeReady s pos || conflictReady s pos) = true) :
    ∃ b, bankAt s pos = some b ∧ b.state = .openRow := by
  rcases Bool.or_eq_true _ _ ▸ h with h | h
  · simp only [closeReady, Bool.and_eq_true] at h
    obtain ⟨b, hb, hw⟩ := (Option.any_eq_true ..).mp h.1.1
    simp only [wantsClose, Bool.and_eq_true, decide_eq_true_eq] at hw
    exact ⟨b, hb, hw.1.1⟩
  · unfold conflictReady at h
    split at h
    · cases h
    · rename_i b v hs
      obtain ⟨hb, -, -, -⟩ := serviceToSend_spec hs
      simp only [Bool.and_eq_true, decide_eq_true_eq] at h
      exact ⟨b, by simpa [bankAt] using hb, h.1⟩

/-! ## Close requests and the after-access decision (03 R50, R61) -/

theorem rowsStand_requestClose (s : State) (pos : Nat) : rowsStand s (requestClose s pos) := by
  refine rowsStand_modBank s pos fun b _ => ?_
  (repeat' split) <;> exact ⟨.rfl, id⟩

theorem rowsStand_requestCloses (s : State) (ps : List Nat) : rowsStand s (requestCloses s ps) :=
  rowsStand_foldl rowsStand_requestClose ps s

theorem rowsStand.closes {s u : State} (h : rowsStand s u) (ps : List Nat) :
    rowsStand s (requestCloses u ps) := h.then (rowsStand_requestCloses u ps)

theorem rowsStand_afterAccess (s : State) (pos : Nat) : rowsStand s (afterAccess s pos) := by
  have hm : ∀ f : Bank → Bank, (∀ b, bankStands b (f b)) → rowsStand s (modBank s pos f) :=
    fun f hf => rowsStand_modBank s pos fun b _ => hf b
  unfold afterAccess
  split
  · exact .refl s
  · split
    · exact hm _ fun b => ⟨.rfl, id⟩
    · split
      · exact hm _ fun b => ⟨.rfl, id⟩
      · split
        · split
          · exact .refl s
          · exact hm _ fun b => ⟨.rfl, id⟩
        · split
          · exact rowsStand_requestClose s pos
          · split
            · exact .refl s
            · exact rowsStand_requestClose s pos

/-! ## The commands of a service -/

/-- A service that replaces one with a reservation no greater. -/
theorem bankStands_serving {b b' : Bank} {v v' : Service} (hs : b'.state = b.state)
    (hv : b.serving = some v) (hv' : b'.serving = some v') (hr : v'.reserved = v.reserved) :
    bankStands b b' := by
  refine ⟨by rw [rowOpen, hs]; rfl, fun h => ?_⟩
  simpa [holdsReservation, hv, hv', hr] using h

theorem listStands_touch (pos : Nat) (l : List Nat) :
    listStands l (if l.contains pos then l.filter (fun p => p ≠ pos) ++ [pos] else l) := by
  split
  · rename_i h
    have hm : pos ∈ l := by simpa using h
    refine ⟨fun hn => ?_, fun p => ?_, ?_⟩
    · rw [List.nodup_append]
      exact ⟨hn.filter _, List.nodup_singleton _, by simp⟩
    · by_cases hp : p = pos
      · simp [hp, hm]
      · simp [hp]
    · rw [List.length_append]
      exact List.length_filter_lt_length_iff_exists.mpr ⟨pos, hm, by simp⟩
  · exact listStands_refl l

theorem rowsStand_touchOpenRows (s : State) (pos : Nat) : rowsStand s (touchOpenRows s pos) where
  geometry := by simp
  limit := by simp
  state := by simp
  lastRun := by simp
  granted := by unfold touchOpenRows modOpenRows; split <;> rfl
  length := by unfold touchOpenRows modOpenRows; split <;> rfl
  banks p b' hb := by
    have e : bankAt (touchOpenRows s pos) p = bankAt s p := by
      unfold touchOpenRows modOpenRows; split <;> rfl
    exact ⟨b', e ▸ hb, bankStands_refl b'⟩
  lists rank := by
    unfold touchOpenRows modOpenRows openRowList
    (repeat' split) <;> first | exact listStands_refl _ | exact listStands_touch pos _

theorem rowsStand_reexamine (s : State) (gone : List Nat) : rowsStand s (reexamine s gone) :=
  .of_sched (by simp) (by simp) (by simp) (by simp)

theorem rowsStand_stopServing (s : State) (pos : Nat) : rowsStand s (stopServing s pos) :=
  rowsStand_modBank s pos fun b _ => ⟨.rfl, fun h => by simp [holdsReservation] at h⟩

theorem rowsStand_releaseBank (s : State) (pos : Nat) : rowsStand s (releaseBank s pos) :=
  (rowsStand_stopServing s pos).then (rowsStand_afterAccess _ pos)

theorem rowsStand_closeService (s : State) (pos i : Nat) : rowsStand s (closeService s pos i) :=
  (rowsStand_reexamine s [i]).then (rowsStand_afterAccess _ pos)

theorem rowsStand_completeRead (s : State) (pos i : Nat) (t : Txn)
    (got : List (Nat × BlockStatus × Block)) : rowsStand s (completeRead s pos i t got) := by
  refine (rowsStand_stopServing s pos).then (.then (.of_sched ?_ ?_ ?_ ?_) (rowsStand_closeService _ pos i)) <;>
    simp

theorem rowsStand_completeWrite (s : State) (pos i : Nat) (t : Txn) :
    rowsStand s (completeWrite s pos i t) := by
  refine (rowsStand_stopServing s pos).then (.then (.of_sched ?_ ?_ ?_ ?_) (rowsStand_closeService _ pos i)) <;>
    simp

theorem rowsStand_failMerge (s : State) (pos i : Nat) (t : Txn) : rowsStand s (failMerge s pos i t) := by
  refine (rowsStand_stopServing s pos).then (.then (.of_sched ?_ ?_ ?_ ?_) (rowsStand_closeService _ pos i)) <;>
    simp

theorem rowsStand_reportWrite (s : State) (pos i : Nat) : rowsStand s (reportWrite s pos i) := by
  unfold reportWrite
  split
  · exact rowsStand_releaseBank s pos
  · split
    · exact rowsStand_releaseBank s pos
    · exact rowsStand_completeWrite s pos i _

theorem rowsStand_completeEmpty (s : State) (pos : Nat) : rowsStand s (completeEmpty s pos) := by
  unfold completeEmpty
  (repeat' split) <;> first | exact .refl s | exact rowsStand_reportWrite s pos _

theorem rowsStand_afterLastRead {s : State} {pos : Nat} {b : Bank} {v : Service} (t : Txn)
    (hb : bankAt s pos = some b) (hv : b.serving = some v) :
    rowsStand s (afterLastRead s pos v t) := by
  unfold afterLastRead
  split
  · exact rowsStand_releaseBank s pos
  · split
    · exact rowsStand_completeRead s pos _ t _
    · split
      · exact rowsStand_failMerge s pos _ t
      · refine rowsStand_modBank s pos fun b' hb' => ?_
        cases hb.symm.trans hb'
        exact bankStands_serving rfl hv rfl rfl

@[simp] theorem takeWords_chan (s : State) (link : Link) (addr : Nat) (cause : Cause) (p : Bool)
    (classes : List WordClass) :
    (takeWords link addr cause s p classes).chan.state = s.chan.state ∧
    (takeWords link addr cause s p classes).chan.lastRun = s.chan.lastRun ∧
    (takeWords link addr cause s p classes).chan.warm = s.chan.warm ∧
    (takeWords link addr cause s p classes).chan.readsDue = s.chan.readsDue := by
  induction classes generalizing s p with
  | nil => exact ⟨rfl, rfl, rfl, rfl⟩
  | cons k rest ih =>
    have hc : (countCorrected s).chan.state = s.chan.state ∧
        (countCorrected s).chan.lastRun = s.chan.lastRun ∧
        (countCorrected s).chan.warm = s.chan.warm ∧
        (countCorrected s).chan.readsDue = s.chan.readsDue := by
      unfold countCorrected; dsimp only; split <;> simp
    cases k <;> unfold takeWords
    · exact ih s p
    · obtain ⟨h1, h2, h3, h4⟩ := ih (countCorrected s) p
      exact ⟨h1.trans hc.1, h2.trans hc.2.1, h3.trans hc.2.2.1, h4.trans hc.2.2.2⟩
    · dsimp only
      split
      · exact ih s true
      · obtain ⟨h1, h2, h3, h4⟩ := ih (raiseAlert s .uncorrectable (some link) (some addr) (some cause) none) true
        exact ⟨h1.trans (by simp), h2.trans (by simp), h3.trans (by simp), h4.trans (by simp)⟩

theorem bankAt_dataTaken (es : List ErrMask) {s : State} {r : ReadDue} {v : Service} (t : Txn) {b : Bank}
    (hb : bankAt s r.pos = some b) :
    bankAt (dataTaken es s r v t).1 r.pos =
      some { b with serving := some (dataTaken es s r v t).2 } := by
  simp only [dataTaken, bankAt_modBank, if_true]
  rw [show ∀ w : State, w.sched = s.sched → bankAt w r.pos = some b from
    fun w hw => by rw [← hb]; simp [bankAt, hw]]
  · rfl
  · simp

theorem rowsStand_dataTaken (es : List ErrMask) {s : State} {r : ReadDue} {v : Service} (t : Txn)
    {b : Bank} (hb : bankAt s r.pos = some b) (hv : b.serving = some v) :
    rowsStand s (dataTaken es s r v t).1 := by
  unfold dataTaken
  dsimp only
  refine .then (.of_sched ?_ ?_ ?_ ?_) (rowsStand_modBank _ r.pos fun b' hb' => ?_)
  · simp
  · simp
  · simp
  · simp
  · have e : bankAt s r.pos = some b' := by rw [← hb']; simp [bankAt]
    cases hb.symm.trans e
    exact bankStands_serving rfl hv rfl rfl

theorem rowsStand_ownData (es : List ErrMask) (s : State) : rowsStand s (ownData es s) := by
  unfold ownData
  split
  · exact .refl s
  · rename_i r v t h
    obtain ⟨-, ⟨b, hb, hv⟩, -⟩ := dataDue_spec h
    have ht := rowsStand_dataTaken es t hb hv
    dsimp only
    split
    · exact ht.then (rowsStand_afterLastRead t (bankAt_dataTaken es t hb) rfl)
    · exact ht

theorem rowsStand_sendReadColumn (s : State) (pos : Nat) : rowsStand s (sendReadColumn pos s) := by
  unfold sendReadColumn
  split
  · exact .refl s
  · rename_i v k h
    obtain ⟨b, hb, hv⟩ := readColumnReady_spec h
    refine .then (rowsStand_modBank s pos fun b' hb' => ?_) (.of_sched rfl rfl rfl rfl)
    cases hb.symm.trans hb'
    exact bankStands_serving rfl hv rfl rfl

theorem rowsStand_ownWriteColumn (s : State) (pos : Nat) : rowsStand s (ownWriteColumn pos s) := by
  unfold ownWriteColumn
  split
  · exact .refl s
  · rename_i v k data h
    obtain ⟨b, hb, hv⟩ := writeColumnReady_spec h
    have hm : rowsStand s (modBank s pos fun b => { b with
        serving := some { v with toWrite := v.toWrite.drop 1, wrote := true },
        writtenAt := s.event }) := by
      refine rowsStand_modBank s pos fun b' hb' => ?_
      cases hb.symm.trans hb'
      exact bankStands_serving rfl hv rfl rfl
    have hst : rowsStand s (stored pos s v k data) := hm.then (.of_sched rfl rfl rfl rfl)
    split
    · exact hst.then (rowsStand_reportWrite _ pos _)
    · exact hst

theorem rowsStand_noteClocks (s : State) (pos : Nat) : rowsStand s (noteClocks s pos) := by
  unfold noteClocks
  split
  · exact .refl s
  · exact ⟨rfl, rfl, rfl, rfl, rfl, rfl, fun p b h => ⟨b, h, bankStands_refl b⟩, fun _ => listStands_refl _⟩

theorem rowsStand_ownRowIdle (s : State) (pos : Nat) : rowsStand s (ownRowIdle pos s) := by
  have hm : ∀ u, rowsStand u (modBank u pos fun b => { b with idleTimer := .stopped }) :=
    fun u => rowsStand_modBank u pos fun b _ => ⟨.rfl, id⟩
  exact (rowsStand_noteClocks s pos).then ((hm _).then (rowsStand_requestClose _ pos))

/-! ## The consequences of an event before the entry to self-refresh -/

theorem rowsStand_passTenure (s : State) (y : Link) : rowsStand s (passTenure s y) := by
  have key : ∀ u, rowsStand s u →
      rowsStand s (if u.settings.tenure.closeOnHandover then requestCloses u (positions u) else u) := by
    intro u hu; split
    · exact hu.closes _
    · exact hu
  exact key _ (.of_sched rfl rfl rfl rfl)

theorem rowsStand_makePass (s : State) (x : Link) : rowsStand s (makePass s x) := by
  unfold makePass
  split
  · exact .refl s
  · exact rowsStand_passTenure s _
  · split
    · exact rowsStand_passTenure s _
    · exact .of_sched rfl rfl rfl rfl

theorem rowsStand_makeGrant (s : State) : rowsStand s (makeGrant s) := by
  unfold makeGrant
  split
  · exact .refl s
  · exact rowsStand_passTenure s _

theorem rowsStand_beginOpportunistic (s : State) : rowsStand s (beginOpportunistic s) := by
  unfold beginOpportunistic
  refine rowsStand.closes ?_ _
  exact .of_sched rfl rfl rfl rfl

theorem rowsStand_tryEpisode (s : State) : rowsStand s (tryEpisode s) := by
  unfold tryEpisode
  split
  · exact rowsStand_beginOpportunistic s
  · exact .refl s

theorem rowsStand_forceTest (s : State) : rowsStand s (forceTest s) := by
  unfold forceTest
  split
  · split
    · exact .of_sched rfl rfl rfl rfl
    · refine rowsStand.closes ?_ _
      exact .of_sched rfl rfl rfl rfl
  · exact .refl s

theorem rowsStand_addDebt (s : State) : rowsStand s (addDebt s) := by
  unfold addDebt
  dsimp only
  refine .then ?_ (rowsStand_forceTest _)
  split
  · exact .of_sched (by simp) (by simp) (by simp) (by simp)
  · exact .of_sched rfl rfl rfl rfl

theorem rowsStand_settlePass (s : State) : rowsStand s (settlePass s) := by
  unfold settlePass
  split
  · exact .refl s
  · split
    · exact rowsStand_beginOpportunistic s
    · exact rowsStand_makePass s _

theorem rowsStand_settleGrant (s : State) : rowsStand s (settleGrant s) := by
  have hf : rowsStand s { s with free := s.free + 1 } := .of_sched rfl rfl rfl rfl
  unfold settleGrant
  dsimp only
  split
  · split
    · exact hf.then ((rowsStand_makeGrant _).then (rowsStand_tryEpisode _))
    · exact hf.then (rowsStand_tryEpisode _)
  · exact (rowsStand_makeGrant s).then (rowsStand_tryEpisode _)

theorem rowsStand_settleQuiesce (s : State) : rowsStand s (settleQuiesce s) := by
  unfold settleQuiesce
  split
  · exact rowsStand_requestCloses s _
  · exact .refl s

theorem rowsStand_victimClose (s : State) (rank : Nat) : rowsStand s (victimClose s rank) := by
  unfold victimClose
  split
  · split
    · exact .refl s
    · exact rowsStand_requestClose s _
  · exact .refl s

theorem rowsStand_settleVictims (s : State) : rowsStand s (settleVictims s) :=
  rowsStand_foldl rowsStand_victimClose _ s

/-- The consequences of an event without the entry to self-refresh. -/
def settleAwake (s : State) : State :=
  settleVictims (closingToRefreshing (settleQuiesce (settleGrant (settlePass
    (wantDue (clearDue (judgeIdle (waitingToClosing (settleCommit s)))))))))

theorem settle_eq (s : State) : settle s = settleSleep (settleAwake s) := rfl

theorem rowsStand_settleAwake (s : State) : rowsStand s (settleAwake s) := by
  have h : rowsStand s (wantDue (clearDue (judgeIdle (waitingToClosing (settleCommit s))))) :=
    .of_sched (by simp) (by simp) (by simp) (by simp)
  have hc : ∀ u, rowsStand u (closingToRefreshing u) :=
    fun u => .of_sched (by simp) (by simp) (by simp) (by simp)
  exact h.then ((rowsStand_settlePass _).then ((rowsStand_settleGrant _).then
    ((rowsStand_settleQuiesce _).then ((hc _).then (rowsStand_settleVictims _)))))

/-! ## Other commands -/

theorem rowsStand_tick (s : State) : rowsStand s (tick s) where
  geometry := rfl
  limit := rfl
  state := rfl
  lastRun := rfl
  granted := rfl
  length := List.length_map ..
  banks p b' hb := by
    simp only [bankAt, tick, List.getElem?_map] at hb
    obtain ⟨b, hb₀, rfl⟩ := Option.map_eq_some_iff.mp hb
    exact ⟨b, hb₀, .rfl, id⟩
  lists rank := listStands_refl _

end Sys2Proof.Machine
end


section
/-! PROOFS. The commands that open, close, refresh, put to sleep and form rows keep the laws of the banks; and
so does every command. -/

namespace Sys2Proof.Machine

/-! ## Counting reservations -/

/-- Two predicates that differ at one position of a list count alike elsewhere. -/
theorem countP_eq_erase {l : List Nat} {pos : Nat} (hn : l.Nodup) (hm : pos ∈ l) {P Q : Nat → Bool}
    (h : ∀ p ≠ pos, Q p = P p) :
    l.countP P = (l.erase pos).countP Q + if P pos then 1 else 0 := by
  rw [(List.perm_cons_erase hm).countP_eq P, List.countP_cons]
  congr 1
  refine List.countP_congr fun p hp => ?_
  rw [h p (by rintro rfl; exact hn.not_mem_erase hp)]

theorem reservations_eq (s : State) (rank : Nat) :
    reservations s rank = (positionsOf s rank).countP fun p => (bankAt s p).any holdsReservation := by
  rw [List.countP_eq_length_filter]; rfl

theorem nodup_positionsOf (s : State) (rank : Nat) : (positionsOf s rank).Nodup :=
  List.nodup_range.filter _

theorem mem_positionsOf {s : State} {rank p : Nat} :
    p ∈ positionsOf s rank ↔ p < s.sched.banks.length ∧ rankOf s p = rank := by
  simp [positionsOf, positions]

/-- The bank at one position has changed, and nothing else of what the laws of the banks speak of. -/
structure oneBank (s u : State) (pos : Nat) (b b' : Bank) : Prop where
  geometry : u.settings.geometry = s.settings.geometry
  limit : u.settings.rows.openLimit = s.settings.rows.openLimit
  state : u.chan.state = s.chan.state
  lastRun : u.chan.lastRun = s.chan.lastRun
  length : u.sched.banks.length = s.sched.banks.length
  before : bankAt s pos = some b
  after : bankAt u pos = some b'
  others : ∀ p ≠ pos, bankAt u p = bankAt s p

section
variable {s u : State} {pos : Nat} {b b' : Bank} (h : oneBank s u pos b b')
include h

theorem oneBank.positionsOf (rank : Nat) : positionsOf u rank = positionsOf s rank := by
  have hr : rankOf u = rankOf s := by funext p; simp [rankOf, h.geometry]
  simp only [Machine.positionsOf, positions, hr, h.length]

/-- Beside the bank's own reservation its rank has as many as before. -/
theorem oneBank.reservations : ∃ n,
    reservations s (rankOf s pos) = n + (if holdsReservation b then 1 else 0) ∧
    reservations u (rankOf s pos) = n + (if holdsReservation b' then 1 else 0) := by
  have hm : pos ∈ Machine.positionsOf s (rankOf s pos) :=
    mem_positionsOf.mpr ⟨(List.getElem?_eq_some_iff.mp h.before).1, rfl⟩
  have hs := countP_eq_erase (nodup_positionsOf s _) hm
    (P := fun p => (bankAt s p).any holdsReservation) (Q := fun p => (bankAt s p).any holdsReservation)
    fun _ _ => rfl
  have hu := countP_eq_erase (nodup_positionsOf s _) hm
    (P := fun p => (bankAt u p).any holdsReservation) (Q := fun p => (bankAt s p).any holdsReservation)
    fun p hp => by rw [h.others p hp]
  rw [h.before] at hs
  rw [h.after] at hu
  rw [reservations_eq, reservations_eq, h.positionsOf]
  exact ⟨_, hs, hu⟩

theorem oneBank.reservations_other {rank : Nat} (hr : rankOf s pos ≠ rank) :
    Machine.reservations u rank = Machine.reservations s rank := by
  rw [reservations_eq, reservations_eq, h.positionsOf]
  refine List.countP_congr fun p hp => ?_
  rw [h.others p (by rintro rfl; exact hr (mem_positionsOf.mp hp).2)]

/-- The laws of the banks after a change of one bank while the channel serves: what is left to show is that
its rank's list follows its state, that the other lists stay, and that its rank is within the limit. -/
theorem oneBank.rowsLaw (hs : rowsLaw s) (hrun : channelServes s = true)
    (hn : (openRowList u (rankOf s pos)).Nodup)
    (hin : pos ∈ openRowList u (rankOf s pos) ↔ b'.state = .openRow ∨ b'.state = .activating)
    (hmem : ∀ p ≠ pos, p ∈ openRowList u (rankOf s pos) ↔ p ∈ openRowList s (rankOf s pos))
    (hl : ∀ rank < 2, rank ≠ rankOf s pos → openRowList u rank = openRowList s rank)
    (hroom : (openRowList u (rankOf s pos)).length + Machine.reservations u (rankOf s pos) ≤
      openLimitInForce s) : rowsLaw u := by
  obtain ⟨hranks, ⟨hserve, -, hinit, hq, hsl⟩, hopen⟩ := hs
  obtain ⟨hlen, hsum⟩ := hserve hrun
  have hlim : openLimitInForce u = openLimitInForce s := by
    simp [openLimitInForce, h.geometry, h.limit]
  have hrun' : channelServes u = true := by rw [← hrun]; simp [channelServes, h.state]
  have hsum' : ∀ rank < 2, (openRowList u rank).length + Machine.reservations u rank ≤
      openLimitInForce u := by
    intro rank hr
    rw [hlim]
    by_cases e : rank = rankOf s pos
    · subst e; exact hroom
    · rw [hl rank hr e, h.reservations_other (Ne.symm e)]; exact hsum rank hr
  refine ⟨by rw [h.geometry]; exact hranks, ⟨fun _ => ⟨?_, hsum'⟩, ?_, ?_, ?_, ?_⟩, fun rank hr => ?_⟩
  · rw [h.length, hlen]; simp [bankCount, h.geometry]
  · rw [hrun']; exact fun e => absurd e (by simp)
  · rw [h.state, h.lastRun]; exact hinit
  · rw [h.state, h.lastRun, h.geometry]; exact hq
  · rw [h.state, h.lastRun, h.length]; exact hsl
  · obtain ⟨hn₀, hm₀, hl₀⟩ := hopen rank hr
    have hrank : ∀ p, rankOf u p = rankOf s p := fun p => by simp [rankOf, h.geometry]
    refine ⟨?_, fun p => ?_, (Nat.le_add_right ..).trans (hsum' rank hr)⟩
    · by_cases e : rank = rankOf s pos
      · subst e; exact hn
      · rw [hl rank hr e]; exact hn₀
    · rw [hrank]
      by_cases ep : p = pos
      · subst p
        rw [h.after]
        by_cases e : rank = rankOf s pos
        · subst e; rw [hin]; simp
        · rw [hl rank hr e, hm₀]
          simp [Ne.symm e]
      · rw [h.others p ep, ← hm₀]
        by_cases e : rank = rankOf s pos
        · subst e; exact hmem p ep
        · rw [hl rank hr e]

end

/-! ## ACTIVATE and PRECHARGE (03 R49, R51, R52) -/

/-- While the channel serves, a bank belongs to one of two ranks. -/
theorem rankOf_lt {s : State} {pos : Nat} {b : Bank} (hs : rowsLaw s) (hrun : channelServes s = true)
    (hb : bankAt s pos = some b) : rankOf s pos < 2 := by
  have hp : pos < s.settings.geometry.banks * s.settings.geometry.ranks := by
    have hlen := (hs.2.1.1 hrun).1
    rw [mul_comm]
    exact lt_of_lt_of_eq (List.getElem?_eq_some_iff.mp hb).1 hlen
  exact lt_of_lt_of_le (Nat.div_lt_of_lt_mul hp) hs.1

theorem openRowList_modOpenRows (s : State) {rank r : Nat} (hr : rank < 2) (hr' : r < 2)
    (f : List Nat → List Nat) : openRowList (modOpenRows s r f) rank =
      if rank = r then f (openRowList s rank) else openRowList s rank := by
  unfold openRowList modOpenRows
  interval_cases rank <;> interval_cases r <;> rfl

@[simp] theorem banks_modOpenRows (s : State) (r : Nat) (f : List Nat → List Nat) :
    (modOpenRows s r f).sched.banks = s.sched.banks := by
  unfold modOpenRows; split <;> rfl

/-- A change of one bank, and of fields beside the bank records. -/
theorem oneBank_modBank {s w u : State} {pos : Nat} {b : Bank} (f : Bank → Bank)
    (hb : bankAt s pos = some b) (hw : w.sched.banks = s.sched.banks)
    (hu : u.sched.banks = (modBank w pos f).sched.banks) (hs : u.settings = s.settings)
    (hc : u.chan = s.chan) : oneBank s u pos b (f b) := by
  have hat : ∀ p, bankAt u p = if pos = p then (bankAt s p).map f else bankAt s p := fun p => by
    rw [show bankAt u p = bankAt (modBank w pos f) p by simp [bankAt, hu], bankAt_modBank]
    simp [bankAt, hw]
  exact {
    geometry := by rw [hs]
    limit := by rw [hs]
    state := by rw [hc]
    lastRun := by rw [hc]
    length := by rw [hu]; simp [modBank, hw]
    before := hb
    after := by rw [hat, if_pos rfl, hb]; rfl
    others := fun p hp => by rw [hat, if_neg (Ne.symm hp)] }

theorem hasRoom_iff (s : State) (rank : Nat) : hasRoom s rank = true ↔
    (openRowList s rank).length + reservations s rank < openLimitInForce s := by
  unfold hasRoom reservations; simp

theorem rowsLaw_activated {s : State} {pos row : Nat} (hs : rowsLaw s)
    (h : activateReady s pos = some row) : rowsLaw (activated pos row s) := by
  obtain ⟨b, v, hb, hv, hst, hrun, hroom, -⟩ := activateReady_spec h
  have hr := rankOf_lt hs hrun hb
  obtain ⟨hn, hm, hl⟩ := hs.2.2 _ hr
  have hnot : pos ∉ openRowList s (rankOf s pos) := by
    rw [hm]; rintro ⟨-, b', hb', hst'⟩
    cases hb.symm.trans hb'
    simp [hst] at hst'
  have hlist : ∀ rank < 2, openRowList (activated pos row s) rank =
      if rank = rankOf s pos then (openRowList s rank).filter (fun p => p ≠ pos) ++ [pos]
      else openRowList s rank := fun rank hr' => openRowList_modOpenRows _ hr' hr _
  have hself := hlist _ hr
  rw [if_pos rfl, List.filter_eq_self.mpr fun p hp => by
    simp only [decide_eq_true_eq]; rintro rfl; exact hnot hp] at hself
  have h1 : oneBank s (activated pos row s) pos b { b with
      state := .activating, row := some row
      serving := b.serving.map fun v => { v with reserved := false }, activatedAt := s.event } :=
    oneBank_modBank (w := s) (fun b => { b with
      state := .activating, row := some row
      serving := b.serving.map fun v => { v with reserved := false }, activatedAt := s.event })
      hb rfl (by simp [activated, joinOpenRows, sendDram]) (by simp) (by simp)
  refine h1.rowsLaw hs hrun ?_ ?_ ?_ (fun rank hr' hne => ?_) ?_
  · rw [hself, List.nodup_append]
    exact ⟨hn, List.nodup_singleton _, by rintro a ha b' hb' rfl; simp at hb'; exact hnot (hb' ▸ ha)⟩
  · rw [hself]; simp
  · intro p hp; rw [hself]; simp [hp]
  · rw [hlist rank hr', if_neg hne]
  · obtain ⟨n, hn₁, hn₂⟩ := h1.reservations
    have hsum := (hs.2.1.1 hrun).2 _ hr
    rw [hself, hn₂, List.length_append]
    simp only [holdsReservation, hv, Option.map_some, Option.any_some] at hn₁ ⊢
    rcases hroom with hres | hres
    · rw [hres] at hn₁
      simp at hn₁ ⊢; omega
    · have := (hasRoom_iff _ _).mp hres
      simp at hn₁ ⊢; omega

theorem rowsLaw_precharged {s : State} {pos : Nat} (hs : rowsLaw s)
    (h : (closeReady s pos || conflictReady s pos) = true) : rowsLaw (precharged pos s) := by
  obtain ⟨b, hb, hst⟩ := precharge_openRow h
  have hrun : channelServes s = true := by
    by_contra hc
    exact (hs.2.1.2.1 (by simpa using hc) b (List.mem_of_getElem? hb)).1 hst
  have hr := rankOf_lt hs hrun hb
  obtain ⟨hn, hm, hl⟩ := hs.2.2 _ hr
  have hin : pos ∈ openRowList s (rankOf s pos) := (hm pos).mpr ⟨rfl, b, hb, .inl hst⟩
  have hlist : ∀ rank < 2, openRowList (precharged pos s) rank =
      if rank = rankOf s pos then (openRowList s rank).filter (fun p => p ≠ pos)
      else openRowList s rank := by
    intro rank hr'
    have hn : rankOf (noteClocks s pos) pos = rankOf s pos := by simp [rankOf]
    have hrow : openRowList (noteClocks s pos) rank = openRowList s rank := by simp [openRowList]
    refine (openRowList_modOpenRows _ hr' (hn ▸ hr) _).trans ?_
    show (if rank = rankOf (noteClocks s pos) pos then
      (openRowList (noteClocks s pos) rank).filter _ else openRowList (noteClocks s pos) rank) = _
    rw [hn, hrow]
  have hself := hlist _ hr
  rw [if_pos rfl] at hself
  have h1 := oneBank_modBank (s := s) (w := noteClocks s pos) (u := precharged pos s) (pos := pos)
    (fun b => { b with
      state := .precharging, row := none, closePending := false, idleTimer := .stopped
      serving := b.serving.map fun v => { v with reserved := true } })
    hb (by simp) (by simp [precharged, leaveOpenRows, sendDram]) (by simp) (by simp)
  refine h1.rowsLaw hs hrun ?_ ?_ ?_ (fun rank hr' hne => ?_) ?_
  · rw [hself]; exact hn.filter _
  · rw [hself]; simp
  · intro p hp; rw [hself]; simp [hp]
  · rw [hlist rank hr', if_neg hne]
  · obtain ⟨n, hn₁, hn₂⟩ := h1.reservations
    have hsum := (hs.2.1.1 hrun).2 _ hr
    have hlt : ((openRowList s (rankOf s pos)).filter fun p => p ≠ pos).length <
        (openRowList s (rankOf s pos)).length :=
      List.length_filter_lt_length_iff_exists.mpr ⟨pos, hin, by simp⟩
    rw [hself, hn₂]
    have hle : ∀ c : Prop, ∀ [Decidable c], (if c then 1 else 0) ≤ 1 := fun c _ => by
      split <;> omega
    refine (Nat.add_le_add_left (Nat.add_le_add_left (hle _) n) _).trans ?_
    omega

/-! ## The end of an activation, of a precharge and of a refresh (03 R49) -/

theorem rowsStand_opened {s : State} {pos : Nat} (h : bankIs s pos .activating = true) :
    rowsStand s (opened pos s) := by
  refine rowsStand_modBank s pos fun b hb => ⟨?_, id⟩
  have hst : b.state = .activating := by simpa [bankIs, hb] using h
  simp [rowOpen, hst]

theorem rowsStand_closed {s : State} {pos : Nat} (h : bankIs s pos .precharging = true) :
    rowsStand s (closed pos s) := by
  refine rowsStand_modBank s pos fun b hb => ⟨?_, id⟩
  have hst : b.state = .precharging := by simpa [bankIs, hb] using h
  simp [rowOpen, hst]

theorem rowsStand_ownActivation {s : State} {pos : Nat} (h : bankIs s pos .activating = true) :
    rowsStand s (ownActivation pos s) := by
  unfold ownActivation
  split
  · exact (rowsStand_opened h).then (rowsStand_releaseBank _ pos)
  · exact (rowsStand_opened h).then (rowsStand_completeEmpty _ pos)

theorem rowsStand_ownPrechargeComplete {s : State} {target : PrechargeTarget}
    (h : prechargeRuns s target = true) : rowsStand s (ownPrechargeComplete target s) := by
  cases target with
  | start => exact .of_sched rfl rfl rfl rfl
  | bank pos =>
    simp only [ownPrechargeComplete]
    split
    · exact (rowsStand_closed h).then (rowsStand_releaseBank _ pos)
    · exact rowsStand_closed h

theorem rowsStand_rankRefreshed (rank : Nat) (s : State) : rowsStand s (rankRefreshed rank s) := by
  refine rowsStand_foldl (fun u p => rowsStand_modBank u p fun b _ => ?_) _ s
  split
  · rename_i h; exact ⟨by simp [rowOpen, h], id⟩
  · exact bankStands_refl b

/-- Banks of which none is OPEN or ACTIVATING enter REFRESHING one after another. -/
theorem rowsStand_refreshing : ∀ (ps : List Nat) (s : State),
    (∀ p ∈ ps, ∀ b, bankAt s p = some b → ¬ rowOpen b) →
    rowsStand s (ps.foldl (fun st p => modBank st p fun b => { b with state := .refreshing }) s)
  | [], s, _ => .refl s
  | p :: ps, s, h => by
    have h1 : rowsStand s (modBank s p fun b => { b with state := .refreshing }) :=
      rowsStand_modBank s p fun b hb =>
        ⟨iff_of_false (by simp [rowOpen]) (h p (List.mem_cons_self ..) b hb), id⟩
    refine h1.then (rowsStand_refreshing ps _ fun q hq b' hb' ho => ?_)
    obtain ⟨b, hb, e, -⟩ := h1.banks q b' hb'
    exact h q (List.mem_cons_of_mem _ hq) b hb (e.mp ho)

/-- No bank of a rank whose banks are all CLOSED is OPEN or ACTIVATING. -/
theorem not_rowOpen_of_rankClosed {s : State} {rank p : Nat} {b : Bank} (h : rankClosed s rank = true)
    (hp : p ∈ positionsOf s rank) (hb : bankAt s p = some b) : ¬ rowOpen b := by
  have hst : b.state = .closed := by simpa [hb] using List.all_eq_true.mp h p hp
  simp [rowOpen, hst]

theorem rowsStand_sendRefresh {s : State} {rank : Nat}
    (h : (startRefreshNext s rank || episodeRefreshNext s rank) = true) :
    rowsStand s (sendRefresh rank s) := by
  unfold sendRefresh
  dsimp only
  split
  · unfold noteStartRefresh
    split <;> exact .of_sched rfl rfl rfl rfl
  · rename_i hn
    have he : episodeRefreshNext s rank = true := by simpa [hn] using h
    have hc : rankClosed s rank = true := by
      unfold episodeRefreshNext at he
      split at he
      · simp only [Bool.and_eq_true] at he; exact he.1.1.2
      · cases he
    refine (rowsStand_refreshing (positionsOf s rank) s fun p hp b hb =>
      not_rowOpen_of_rankClosed hc hp hb).then (.of_sched rfl rfl rfl rfl)

/-! ## The entry to self-refresh (03 R66; 08 R134, R145) -/

/-- The channel goes to sleep, or stays as it is, with no bank OPEN or ACTIVATING and both lists empty. -/
theorem rowsLaw_asleep {s u : State} (hs : rowsLaw s) (hset : u.settings = s.settings)
    (hcores : bankCores u = bankCores s) (hbanks : ∀ b ∈ u.sched.banks, ¬ rowOpen b)
    (hlists : ∀ rank, openRowList u rank = [])
    (hstate : u.chan.state = s.chan.state ∨ s.chan.state = .quiescing ∧ u.chan.state = .quiesced)
    (hlast : u.chan.lastRun = s.chan.lastRun) : rowsLaw u := by
  obtain ⟨hranks, ⟨hserve, -, hinit, hq, hsl⟩, -⟩ := hs
  have hlen : u.sched.banks.length = s.sched.banks.length := by
    simpa [bankCores] using congrArg List.length hcores
  have hres : ∀ rank, reservations u rank = reservations s rank := by
    intro rank
    have hr : rankOf u = rankOf s := by funext p; simp [rankOf, hset]
    rw [reservations_eq, reservations_eq, positionsOf, positionsOf, positions, positions, hlen, hr]
    refine List.countP_congr fun p _ => ?_
    have hp : (bankAt u p).map bankCore = (bankAt s p).map bankCore := by
      simpa [bankCores, bankAt, List.getElem?_map] using congrArg (fun l => l[p]?) hcores
    have key : ∀ o : Option Bank, o.any holdsReservation =
        (o.map bankCore).any fun c => c.2.2.2.2.1.any fun v => v.reserved := by
      intro o; cases o <;> rfl
    rw [key, key, hp]
  have hserves : channelServes u = true → channelServes s = true := by
    rcases hstate with e | ⟨-, e⟩ <;> simp [channelServes, e]
  refine ⟨by rw [hset]; exact hranks, ⟨fun hu => ?_, fun _ b hb => not_or.mp (hbanks b hb), ?_, ?_, ?_⟩,
    fun rank hr => ⟨?_, fun p => ?_, ?_⟩⟩
  · obtain ⟨h1, h2⟩ := hserve (hserves hu)
    refine ⟨by rw [hlen, h1]; simp [bankCount, hset], fun rank hr => ?_⟩
    rw [hres, hlists]
    refine le_trans ?_ (le_trans (h2 rank hr) (by simp [openLimitInForce, hset]))
    simp
  · rw [hlast]
    rcases hstate with e | ⟨-, e⟩ <;> rw [e]
    · exact hinit
    · simp
  · rw [hlast, hset]
    rcases hstate with e | ⟨-, e⟩ <;> rw [e]
    · exact hq
    · simp
  · rw [hlast, hlen]
    rcases hstate with e | ⟨e, e'⟩
    · rw [e]; exact hsl
    · intro _ g hg
      obtain ⟨h1, -⟩ := hserve (by simp [channelServes, e])
      rw [hq e] at hg
      cases hg; exact h1
  · rw [hlists]; exact List.nodup_nil
  · rw [hlists]
    refine iff_of_false (List.not_mem_nil) ?_
    rintro ⟨-, b, hb, ho⟩
    exact hbanks b (List.mem_of_getElem? hb) ho
  · rw [hlists]; exact Nat.zero_le _

theorem not_rowOpen_of_cores {s u : State} (hcores : bankCores u = bankCores s)
    (h : ∀ b ∈ s.sched.banks, ¬ rowOpen b) : ∀ b ∈ u.sched.banks, ¬ rowOpen b := by
  intro b' hb'
  have hm : bankCore b' ∈ bankCores s := hcores ▸ List.mem_map_of_mem hb'
  obtain ⟨b, hb, e⟩ := List.mem_map.mp hm
  have hst : b.state = b'.state := congrArg (·.1) e
  rw [rowOpen, ← hst]
  exact h b hb

theorem openRowList_sleepBanks (s : State) (rank : Nat) : openRowList (sleepBanks s) rank = [] := by
  simp [openRowList, sleepBanks]

theorem rowsLaw_enterSelfRefresh {s : State} (hs : rowsLaw s) (h : selfRefreshReady s = true) :
    rowsLaw (enterSelfRefresh s) := by
  simp only [selfRefreshReady, Bool.and_eq_true, decide_eq_true_eq] at h
  refine rowsLaw_asleep hs (by simp) (bankCores_enterSelfRefresh s)
    (not_rowOpen_of_cores (bankCores_enterSelfRefresh s) fun b hb => ?_) (fun rank => ?_)
    (.inr ⟨h.1.1.1.1.1, ?_⟩) ?_
  · have hst : b.state = .closed := by simpa using List.all_eq_true.mp h.1.1.2 b hb
    simp [rowOpen, hst]
  · simp [openRowList, enterSelfRefresh, sleepBanks]
  · simp [enterSelfRefresh]
  · simp [enterSelfRefresh, sleepBanks, sendDram]

/-- Where every installed rank is CLOSED no bank is OPEN or ACTIVATING. -/
theorem not_rowOpen_of_ranks {s : State} (hs : rowsLaw s) (hrun : channelServes s = true)
    (h : ∀ r ∈ installedRanks s, rankClosed s r = true) : ∀ b ∈ s.sched.banks, ¬ rowOpen b := by
  intro b hb
  obtain ⟨p, hp⟩ := List.mem_iff_getElem?.mp hb
  have hlt := (List.getElem?_eq_some_iff.mp hp).1
  have hr : rankOf s p ∈ installedRanks s := by
    rw [installedRanks, List.mem_range]
    refine Nat.div_lt_of_lt_mul ?_
    rw [mul_comm]
    exact lt_of_lt_of_eq hlt (hs.2.1.1 hrun).1
  exact not_rowOpen_of_rankClosed (h _ hr) (mem_positionsOf.mpr ⟨hlt, rfl⟩) hp

theorem rowsLaw_enterWarmSleep {s : State} (hs : rowsLaw s) : rowsLaw (enterWarmSleep s) := by
  unfold enterWarmSleep
  split
  · exact hs
  · split
    · rename_i sent hw hc
      simp only [Bool.and_eq_true, List.all_eq_true] at hc
      obtain ⟨⟨hrun, -⟩, hall⟩ := hc
      have hcl := not_rowOpen_of_ranks hs hrun fun r hr => (hall r hr).2
      refine rowsLaw_asleep hs rfl ?_ (not_rowOpen_of_cores ?_ hcl) (fun rank => ?_) (.inl rfl) rfl
      · exact bankCores_sleepBanks _
      · exact bankCores_sleepBanks _
      · exact openRowList_sleepBanks _ rank
    · exact hs

theorem rowsLaw_settle {s : State} (hs : rowsLaw s) : rowsLaw (settle s) := by
  have hw : ∀ u, rowsLaw u → rowsLaw (warmSleep u) := by
    intro u hu
    have h1 : rowsStand u (sendWarmSrEnter u) := .of_sched (by simp) (by simp) (by
      unfold sendWarmSrEnter; (repeat' split) <;> rfl) (by
      unfold sendWarmSrEnter; (repeat' split) <;> rfl)
    exact rowsLaw_enterWarmSleep (h1.rowsLaw hu)
  rw [settle_eq]
  have ha := (rowsStand_settleAwake s).rowsLaw hs
  unfold settleSleep
  split
  · rename_i h
    exact hw _ (rowsLaw_enterSelfRefresh ha h)
  · exact hw _ ha

/-! ## The records formed (03 R66, R68) -/

/-- Records of CLOSED banks that serve nothing, with empty lists. -/
theorem rowsLaw_formed {u : State} (hranks : u.settings.geometry.ranks ≤ 2)
    (hbanks : ∀ b ∈ u.sched.banks, b.state = .closed ∧ b.serving = none)
    (hlists : ∀ rank, openRowList u rank = [])
    (hrun : channelServes u = true → u.sched.banks.length = bankCount u)
    (hinit : u.chan.state = .init ∨ u.chan.state = .starting → u.chan.lastRun = none)
    (hq : u.chan.state ≠ .quiescing)
    (hsl : u.chan.state = .quiesced ∨ u.chan.state = .resuming →
      ∀ g, u.chan.lastRun = some g → u.sched.banks.length = g.ranks * g.banks) : rowsLaw u := by
  have hres : ∀ rank, reservations u rank = 0 := by
    intro rank
    rw [reservations_eq, List.countP_eq_zero]
    intro p _
    cases hb : bankAt u p with
    | none => simp
    | some b => simp [holdsReservation, (hbanks b (List.mem_of_getElem? hb)).2]
  have hshut : ∀ b ∈ u.sched.banks, ¬ rowOpen b := fun b hb => by
    simp [rowOpen, (hbanks b hb).1]
  refine ⟨hranks, ⟨fun hu => ⟨hrun hu, fun rank _ => ?_⟩, fun _ b hb => not_or.mp (hshut b hb), hinit,
    fun e => absurd e hq, hsl⟩, fun rank _ => ?_⟩
  · rw [hlists, hres]; exact Nat.zero_le _
  · rw [hlists]
    refine ⟨List.nodup_nil, fun p => iff_of_false List.not_mem_nil ?_, Nat.zero_le _⟩
    rintro ⟨-, b, hb, ho⟩
    exact hshut b (List.mem_of_getElem? hb) ho

theorem rowsLaw_ownStartEnd {s : State} (hs : rowsLaw s) : rowsLaw (ownStartEnd s) := by
  let w := formBanks { s with chan := { s.chan with state := .run, startPhase := .none } }
  have hw : rowsLaw w := by
    refine rowsLaw_formed hs.1 (fun b hb => ?_) (fun rank => ?_) (fun _ => ?_) ?_ ?_ ?_
    · rw [List.eq_of_mem_replicate hb]; exact ⟨rfl, rfl⟩
    · show (if rank = 0 then [] else []) = _; simp
    · exact List.length_replicate ..
    all_goals simp [w, formBanks]
  have hst : rowsStand w (ownStartEnd s) := by
    unfold ownStartEnd
    exact .of_sched (by simp [w]) (by simp [w]) (by simp [w]) (by simp [w])
  exact hst.rowsLaw hw

/-- Under the geometry of its last run a channel has a record for each installed bank. -/
theorem length_of_lastRun {s : State} (hs : bankLaw s) (h : s.chan.lastRun = some s.settings.geometry) :
    s.sched.banks.length = bankCount s := by
  obtain ⟨hrun, -, hinit, -, hsl⟩ := hs
  cases hst : s.chan.state with
  | run | quiescing => exact (hrun (by simp [channelServes, hst])).1
  | init | starting => rw [hinit (by simp [hst])] at h; cases h
  | quiesced | resuming => exact hsl (by simp [hst]) _ h

theorem rowsLaw_reformBanks {s : State} {c : Channel} (hs : rowsLaw s) (hst : c.state = .run)
    (hl : c.lastRun = s.chan.lastRun) : rowsLaw (reformBanks { s with chan := c }) := by
  have hrun : ∀ u : State, u.chan = c → u.settings = s.settings → openRowList u = (fun _ => []) →
      u.sched.banks.length = bankCount s →
      (∀ b ∈ u.sched.banks, b.state = .closed ∧ b.serving = none) → rowsLaw u := by
    intro u hc hset hlists hlen hbanks
    refine rowsLaw_formed (by rw [hset]; exact hs.1) hbanks (fun rank => by rw [hlists])
      (fun _ => by rw [hlen]; simp [bankCount, hset]) ?_ ?_ ?_ <;> simp [hc, hst]
  unfold reformBanks
  split
  · rename_i h
    have hlen := length_of_lastRun hs.2.1 (hl.symm.trans h)
    refine hrun _ rfl rfl (by funext rank; simp [openRowList]) (by simpa using hlen) fun b hb => ?_
    obtain ⟨b₀, -, rfl⟩ := List.mem_map.mp hb
    exact ⟨rfl, rfl⟩
  · refine hrun _ rfl rfl (by funext rank; simp [openRowList, formBanks]) ?_ fun b hb => ?_
    · exact List.length_replicate ..
    · rw [List.eq_of_mem_replicate hb]; exact ⟨rfl, rfl⟩

theorem rowsStand_sleepAgain (s : State) : rowsStand s (sleepAgain s) := .of_sched rfl rfl rfl rfl

theorem rowsLaw_ownResumeEnd {s : State} (hs : rowsLaw s) : rowsLaw (ownResumeEnd s) := by
  unfold ownResumeEnd
  split
  · exact (rowsStand_sleepAgain s).rowsLaw hs
  · have hf := (rowsStand_forceTest _).rowsLaw (rowsLaw_reformBanks
      (c := { s.chan with state := .run, resumePhase := .none }) hs rfl rfl)
    exact (rowsStand.of_sched (by simp) (by simp) (by simp) (by simp)).rowsLaw hf

theorem rowsLaw_takeResetPoint {s : State} (hs : rowsLaw s) : rowsLaw (takeResetPoint s) := by
  obtain ⟨hranks, hbank, -⟩ := hs
  obtain ⟨hrun, -, hinit, hq, hsl⟩ := id hbank
  have hst : (takeResetPoint s).chan.state = if warmToInit s then .init else .quiesced := rfl
  have hl : (takeResetPoint s).chan.lastRun =
    if s.chan.state = .run then some s.settings.geometry else s.chan.lastRun := rfl
  have hb : (takeResetPoint s).sched.banks =
    if warmToInit s then [] else s.sched.banks.map fun _ => freshBank := rfl
  refine rowsLaw_formed hranks (fun b hb' => ?_) (fun rank => ?_) ?_ ?_ ?_ ?_
  · rw [hb] at hb'
    split at hb'
    · cases hb'
    · obtain ⟨-, -, rfl⟩ := List.mem_map.mp hb'; exact ⟨rfl, rfl⟩
  · show (if rank = 0 then [] else []) = _; simp
  · intro h; simp only [channelServes, hst] at h; split at h <;> simp at h
  · intro h
    rw [hst] at h
    split at h
    · rename_i hw
      have hw' : s.chan.state = .init ∨ s.chan.state = .starting := by simpa [warmToInit] using hw
      rw [hl, if_neg (by rcases hw' with e | e <;> simp [e])]
      exact hinit hw'
    · simp at h
  · rw [hst]; split <;> simp
  · intro h g hg
    rw [hst] at h
    split at h
    · simp at h
    · rename_i hw
      rw [hb, if_neg hw, List.length_map]
      rw [hl] at hg
      split at hg
      · rename_i hr; cases hg; exact (hrun (by simp [channelServes, hr])).1
      · rename_i hr
        cases hs : s.chan.state with
        | run => exact absurd hs hr
        | init | starting => exact absurd (by simp [warmToInit, hs]) hw
        | quiescing =>
          rw [hq hs] at hg; cases hg
          exact (hrun (by simp [channelServes, hs])).1
        | quiesced | resuming => exact hsl (by simp [hs]) g hg

theorem rowsLaw_coldReset (s : State) : rowsLaw (coldReset s) := by
  refine rowsLaw_formed (u := coldReset s) (show State.reset.settings.geometry.ranks ≤ 2 by decide) (fun b hb => by cases hb) (fun rank => ?_) ?_ (fun _ => rfl) ?_ ?_
  · show (if rank = 0 then [] else []) = _; simp
  all_goals simp [channelServes, coldReset, State.reset, coldChannel]

/-! ## Management packets (08 R131 to R136; 09 R155, R162) -/

/-- While the channel is stopped no bank is OPEN, and the laws of the banks depend on no setting but the
number of ranks. -/
theorem rowsLaw_stopped {s u : State} (hs : rowsLaw s) (hstop : channelServes s = false)
    (hsched : u.sched = s.sched) (hranks : u.settings.geometry.ranks ≤ 2)
    (hl : u.chan.lastRun = s.chan.lastRun)
    (hstate : u.chan.state = s.chan.state ∨ s.chan.state = .init ∧ u.chan.state = .starting ∨
      s.chan.state = .quiesced ∧ u.chan.state = .resuming) : rowsLaw u := by
  obtain ⟨-, ⟨-, hshut, hinit, hq, hsl⟩, hopen⟩ := hs
  have hstop' : channelServes u = false := by
    rcases hstate with e | ⟨-, e⟩ | ⟨-, e⟩
    · rw [← hstop]; simp [channelServes, e]
    all_goals simp [channelServes, e]
  have hlists : ∀ rank < 2, openRowList u rank = [] := by
    intro rank hr
    rw [show openRowList u rank = openRowList s rank by simp [openRowList, hsched],
      List.eq_nil_iff_forall_not_mem]
    intro p hp
    obtain ⟨-, b, hb, ho⟩ := ((hopen rank hr).2.1 p).mp hp
    exact not_or.mpr (hshut hstop b (List.mem_of_getElem? hb)) ho
  refine ⟨hranks, ⟨fun h => absurd (hstop'.symm.trans h) (by simp), fun _ => hsched ▸ hshut hstop, ?_, ?_, ?_⟩,
    fun rank hr => ?_⟩
  · rw [hl]
    rcases hstate with e | ⟨e, -⟩ | ⟨-, e⟩
    · rw [e]; exact hinit
    · exact fun _ => hinit (.inl e)
    · rw [e]; simp
  · intro e; simp [channelServes, e] at hstop'
  · rw [hl, hsched]
    rcases hstate with e | ⟨-, e⟩ | ⟨e, -⟩
    · rw [e]; exact hsl
    · rw [e]; simp
    · exact fun _ => hsl (.inl e)
  · rw [hlists rank hr]
    refine ⟨List.nodup_nil, fun p => iff_of_false List.not_mem_nil ?_, Nat.zero_le _⟩
    rintro ⟨-, b, hb, ho⟩
    have hb' : b ∈ s.sched.banks := hsched ▸ List.mem_of_getElem? hb
    exact not_or.mpr (hshut hstop b hb') ho

theorem rowsStand_storeField {s : State} {f : Field} (v : Nat) (h : stoppedOnly f = false) :
    rowsStand s (storeField s f v) where
  geometry := by cases f <;> first | rfl | cases h
  limit := by cases f <;> first | rfl | cases h
  state := rfl
  lastRun := rfl
  granted := rfl
  length := rfl
  banks p b hb := ⟨b, hb, bankStands_refl b⟩
  lists _ := listStands_refl _

theorem rowsStand_writeField {s : State} {f : Field} (v : Nat) (h : stoppedOnly f = false) :
    rowsStand s (writeField s f v) := by
  have hf := rowsStand_storeField (s := s) v h
  unfold writeField
  split
  · unfold storeTenureMode; split
    · exact .refl s
    · refine hf.then ?_
      exact .of_sched rfl rfl rfl rfl
  · unfold storeRefreshMode; split
    · exact .refl s
    · refine hf.then ?_
      dsimp only
      split <;> exact .of_sched rfl rfl rfl rfl
  · exact hf.then (rowsStand_forceTest _)
  · exact hf.then (.of_sched rfl rfl rfl rfl)
  · unfold storeFilterEnable
    refine hf.then ?_
    dsimp only
    split
    · exact .of_sched rfl rfl rfl rfl
    · exact .refl _
  · exact hf

theorem writeField_stopped {s : State} {f : Field} (v : Nat) (h : stoppedOnly f = true) :
    writeField s f v = storeField s f v := by
  cases f <;> first | rfl | cases h

theorem ranks_setField {c : Settings} {s : State} {f : Field} {v : Nat} (h : c.geometry.ranks ≤ 2)
    (hv : valueOk s f v = true) : (setField c f v).geometry.ranks ≤ 2 := by
  have hr : v ≤ (fieldRange f).2 := by
    simp only [valueOk, Bool.and_eq_true, decide_eq_true_eq] at hv; exact hv.1.2
  by_cases hf : f = .ranks
  · subst hf; exact hr
  · have e : (setField c f v).geometry.ranks = c.geometry.ranks := by
      cases f <;> first | rfl | exact absurd rfl hf
    rw [e]; exact h

theorem rowsLaw_writeField {s : State} {f : Field} {v : Nat} (hs : rowsLaw s)
    (hst : stoppedOnly f = true → channelStopped s = true) (hv : valueOk s f v = true) :
    rowsLaw (writeField s f v) := by
  cases hf : stoppedOnly f with
  | false => exact (rowsStand_writeField v hf).rowsLaw hs
  | true =>
    rw [writeField_stopped v hf]
    refine rowsLaw_stopped hs ?_ rfl (ranks_setField hs.1 hv) rfl (.inl rfl)
    have := hst hf
    simp only [channelStopped, Bool.or_eq_true, decide_eq_true_eq] at this
    rcases this with e | e <;> simp [channelServes, e]

theorem rowsLaw_quiesces {s : State} (x : Link) (hs : rowsLaw s) (h : s.chan.state = .run) :
    rowsLaw (beginLong { s with chan := { s.chan with
      state := .quiescing, lastRun := some s.settings.geometry } } .quiesce x) := by
  obtain ⟨hranks, ⟨hrun, -, -, -, -⟩, hopen⟩ := hs
  refine ⟨hranks, ⟨fun _ => hrun (by simp [channelServes, h]), ?_, ?_, fun _ => rfl, ?_⟩, hopen⟩ <;>
    simp [channelServes, beginLong]

theorem bankStands_stopUnbegun (b : Bank) : bankStands b (stopUnbegun b) := by
  unfold stopUnbegun
  split
  · exact bankStands_refl b
  · split
    · exact bankStands_refl b
    · split
      · exact ⟨.rfl, fun h => by simp [holdsReservation] at h⟩
      · exact ⟨.rfl, fun h => by simp [holdsReservation] at h⟩

theorem rowsStand_beginWarmWork (s : State) : rowsStand s (beginWarmWork s) := by
  refine (rowsStand_requestCloses s (positions s)).then ?_
  exact {
    geometry := rfl
    limit := rfl
    state := rfl
    lastRun := rfl
    granted := rfl
    length := List.length_map ..
    banks := fun p b' hb => by
      simp only [bankAt, beginWarmWork, List.getElem?_map] at hb
      obtain ⟨b, hb₀, rfl⟩ := Option.map_eq_some_iff.mp hb
      exact ⟨b, hb₀, bankStands_stopUnbegun b⟩
    lists := fun _ => listStands_refl _ }

theorem rowsLaw_change {x : Link} {s u : State} (h : MgmtChange x s u) (hs : rowsLaw s) : rowsLaw u := by
  have key : ∀ u, rowsStand s u → rowsLaw u := fun u hu => hu.rowsLaw hs
  cases h
  case writes hst hv => exact rowsLaw_writeField hs hst hv
  case starts h =>
    refine rowsLaw_stopped hs (by simp [channelServes, h]) (by simp) (by simp [hs.1]) ?_
      (.inr (.inl ⟨h, ?_⟩)) <;> simp [beginStart]
  case resumes h =>
    refine rowsLaw_stopped hs (by simp [channelServes, h]) (by simp) (by simp [hs.1]) ?_
      (.inr (.inr ⟨h, ?_⟩)) <;> simp [beginResume]
  case quiesces h => exact rowsLaw_quiesces x hs h
  case resets v hv =>
    have hv' : rowsStand s v := by
      rcases hv with rfl | rfl
      · exact .refl _
      · exact .of_sched (by simp) (by simp) (by simp) (by simp)
    have hl : rowsStand v (beginLong { v with mgmt := { v.mgmt with discarded := .both 0 } } .hubReset x) :=
      .of_sched (by simp) (by simp) (by simp) (by simp)
    exact key _ (hv'.then (hl.then (rowsStand_beginWarmWork _)))
  all_goals exact key _ (.of_sched (by simp) (by simp) (by simp) (by simp))

end Sys2Proof.Machine
end


section
/-! PROOFS. Every command keeps the laws of the banks and of the position last granted. -/

namespace Sys2Proof.Machine

/-! ## Issue (03 R56, R57) -/

/-- The state of an issue once the notices are reserved and the transactions passed over are counted. -/
def issuePassed (s : State) (pos i : Nat) (t : Txn) : State :=
  let w := if isWrite t then reserveNotices s i t else s
  (passedOver s pos t).foldl (raiseBypass w.settings.rows.bypassLimit) w

/-- The state of an issue before the position granted is noted. -/
def issueServed (s : State) (pos i : Nat) (t : Txn) : State :=
  let w := issuePassed s pos i t
  modSlot (touchOpenRows (modBank w pos (bankAtIssue w i t)) pos) i
    fun t => { t with state := onChannelState t }

theorem issueAt_eq (s : State) (pos i : Nat) (t : Txn) : issueAt s pos i t =
    completeEmpty { issueServed s pos i t with
      sched := { (issueServed s pos i t).sched with lastGranted := pos } } pos := rfl

theorem state_classify (s : State) (b : Bank) (row : Option Nat) : (classify s b row).state = b.state := by
  unfold classify; (repeat' split) <;> rfl

theorem rowsStand_issuePassed (s : State) (pos i : Nat) (t : Txn) :
    rowsStand s (issuePassed s pos i t) := by
  have hr : rowsStand s (if isWrite t then reserveNotices s i t else s) := by
    split
    · exact .of_sched (by simp) (by simp) (by simp) (by simp)
    · exact .refl s
  exact hr.then (rowsStand_foldl (fun u j => .of_sched (by simp [raiseBypass]) (by simp [raiseBypass])
    (by simp [raiseBypass]) (by simp [raiseBypass])) _ _)

theorem rowsStand_issueServed (s : State) (pos i : Nat) (t : Txn) :
    rowsStand s (issueServed s pos i t) := by
  have hb : ∀ w, rowsStand w (modBank w pos (bankAtIssue w i t)) := fun w =>
    rowsStand_modBank w pos fun b _ => ⟨by simp only [rowOpen, bankAtIssue, state_classify], fun h => by
      simp [holdsReservation, bankAtIssue, planService] at h⟩
  have hm : ∀ w, rowsStand w (modSlot w i fun t => { t with state := onChannelState t }) := fun w =>
    .of_sched (by simp) (by simp) (by simp) (by simp)
  exact (rowsStand_issuePassed s pos i t).then ((hb _).then ((rowsStand_touchOpenRows _ pos).then (hm _)))

theorem rowsLaw_ownIssue {s : State} (hs : rowsLaw s) : rowsLaw (ownIssue s) := by
  unfold ownIssue
  split
  · exact hs
  · split
    · exact hs
    · rw [issueAt_eq]
      exact (rowsStand_completeEmpty _ _).rowsLaw ((rowsStand_issueServed s _ _ _).rowsLaw hs)

theorem grantee_lt {s : State} {pos : Nat} (h : grantee s = some pos) : pos < 16 := by
  have hmem : ∀ p, p ∈ (searchOrder s).filter (requests s) → p < 16 := by
    intro p hp
    obtain ⟨k, -, rfl⟩ := List.mem_map.mp (List.mem_filter.mp hp).1
    exact Nat.mod_lt _ (by decide)
  unfold grantee at h
  dsimp only at h
  split at h
  · cases h
  · split at h
    · rename_i hf
      cases h
      exact hmem _ (List.mem_of_find?_eq_some hf)
    · exact hmem _ (List.mem_of_head? h)

theorem positionLaw_ownIssue {s : State} (hs : positionLaw s) : positionLaw (ownIssue s) := by
  unfold ownIssue
  split
  · exact hs
  · rename_i pos hg
    split
    · exact hs
    · rw [issueAt_eq, positionLaw, (rowsStand_completeEmpty _ _).granted]
      exact grantee_lt hg

/-! ## Every command -/

/-- The commands that open, close or form rows. -/
def movesRows : Instr → Bool
  | .issue | .activateSent _ | .prechargeSent _ | .startSequenceEnd | .resumeSequenceEnd | .resetPoint |
    .coldReset => true
  | _ => false

theorem rowsStand_ownEffect (c : Instr) (s : State) (hm : mgmtOf c = none) (hr : movesRows c = false)
    (hg : guardHolds c s) : rowsStand s (ownEffect c s) := by
  cases c
  case issue | activateSent | prechargeSent | startSequenceEnd | resumeSequenceEnd | resetPoint | coldReset =>
    cases hr
  case mgmtRead | mgmtWrite | writeTenureMode | writeRefreshMode | writeForceLevel | writeCueLink |
      writeFilterEnable | writeCreditLimit | writeAlertLink | writeLease | writeCorrThreshold |
      writeOpenLimit | tableRead | tableWrite | tableRevert | tableCommit | claim | release |
      channelStart | channelQuiesce | channelResume | hubReset => cases hm
  case activationComplete pos => exact rowsStand_ownActivation hg
  case writeColumnSent pos => exact rowsStand_ownWriteColumn s pos
  case readColumnSent pos => exact rowsStand_sendReadColumn s pos
  case readColumnDataArrival => exact rowsStand_ownData _ s
  case prechargeComplete target => exact rowsStand_ownPrechargeComplete hg
  case rowIdleTimerExpiry pos => exact rowsStand_ownRowIdle s pos
  case refreshCommandSent rank => exact rowsStand_sendRefresh hg
  case refreshComplete rank =>
    have ht : ∀ u, rowsStand u (testRound u) := fun u =>
      .of_sched (by simp) (by simp) (by simp) (by simp)
    exact (rowsStand_rankRefreshed rank s).then (ht _)
  case refreshTimerExpiry =>
    have h : rowsStand s (loadRefreshTimer s) := .of_sched rfl rfl rfl rfl
    exact h.then (rowsStand_addDebt _)
  case cueMonitorExpiry =>
    have h : rowsStand s (loadRefreshTimer s) := .of_sched rfl rfl rfl rfl
    refine h.then ?_
    simp only [ownEffect, ownCueMonitor]
    split
    · exact .of_sched rfl rfl rfl rfl
    · exact .then (.of_sched (by simp) (by simp) (by simp) (by simp)) (rowsStand_addDebt _)
  case refreshCue =>
    simp only [ownEffect, ownCue]
    split
    · exact .refl s
    · split
      · exact .of_sched (by simp) (by simp) (by simp) (by simp)
      · split
        · exact .then (.of_sched (by rfl) (by rfl) (by rfl) (by rfl)) (rowsStand_addDebt _)
        · exact .refl s
  case startTimerExpiry =>
    simp only [ownEffect, effectOf, expireStartTimer]
    split <;> exact .of_sched rfl rfl rfl rfl
  case startRefreshRoundComplete =>
    simp only [ownEffect, effectOf, completeStartRound]
    (repeat' split) <;> exact .of_sched rfl rfl rfl rfl
  case resumeTimerExpiry =>
    simp only [ownEffect, effectOf, expireResumeTimer]
    split
    · exact .of_sched rfl rfl rfl rfl
    · exact .of_sched rfl rfl rfl rfl
  all_goals
    exact .of_sched (by simp [ownEffect, effectOf]) (by simp [ownEffect, effectOf])
      (by simp [ownEffect, effectOf]) (by simp [ownEffect, effectOf])

theorem rowsLaw_ownEffect (c : Instr) (s : State) (hm : mgmtOf c = none) (hg : guardHolds c s)
    (hs : rowsLaw s) : rowsLaw (ownEffect c s) := by
  by_cases hr : movesRows c = false
  · exact (rowsStand_ownEffect c s hm hr hg).rowsLaw hs
  · cases c
    case issue => exact rowsLaw_ownIssue hs
    case activateSent pos =>
      simp only [ownEffect, ownActivate]
      split
      · exact hs
      · rename_i h; exact rowsLaw_activated hs h
    case prechargeSent pos => exact rowsLaw_precharged hs hg
    case startSequenceEnd => exact rowsLaw_ownStartEnd hs
    case resumeSequenceEnd => exact rowsLaw_ownResumeEnd hs
    case resetPoint => exact rowsLaw_takeResetPoint hs
    case coldReset => exact rowsLaw_coldReset s
    all_goals exact absurd rfl hr

theorem granted_reformBanks (s : State) : (reformBanks s).sched.lastGranted = s.sched.lastGranted := by
  unfold reformBanks; split <;> rfl

theorem positionLaw_ownEffect (c : Instr) (s : State) (hm : mgmtOf c = none) (hg : guardHolds c s)
    (hs : positionLaw s) : positionLaw (ownEffect c s) := by
  have key : ∀ u : State, u.sched.lastGranted = s.sched.lastGranted → positionLaw u :=
    fun u h => by rw [positionLaw, h]; exact hs
  by_cases hr : movesRows c = false
  · exact key _ (rowsStand_ownEffect c s hm hr hg).granted
  · cases c
    case issue => exact positionLaw_ownIssue hs
    case activateSent pos =>
      refine key _ ?_
      simp only [ownEffect, ownActivate, activated, joinOpenRows, modOpenRows]
      (repeat' split) <;> rfl
    case prechargeSent pos =>
      refine key _ (.trans ?_ (rowsStand_noteClocks s pos).granted)
      simp only [ownEffect, precharged, leaveOpenRows, modOpenRows]
      split <;> rfl
    case startSequenceEnd =>
      refine key _ ?_
      rw [show (ownEffect .startSequenceEnd s).sched = _ from (endLong_frame ..).2.2.2.1]; rfl
    case resumeSequenceEnd =>
      refine key _ ?_
      simp only [ownEffect, ownResumeEnd]
      split
      · rfl
      · rw [(endLong_frame ..).2.2.2.1, (rowsStand_forceTest _).granted, granted_reformBanks]
    case resetPoint => exact show 15 < 16 by decide
    case coldReset => exact show 15 < 16 by decide
    all_goals exact absurd rfl hr

theorem rowsLaw_effectOf (c : Instr) (s : State) (hg : guardHolds c s) (hs : rowsLaw s) :
    rowsLaw (effectOf c s) := by
  have hset : ∀ u, rowsLaw u → rowsLaw (settle u) := fun u => rowsLaw_settle
  cases hm : mgmtOf c with
  | some m =>
    refine mgmt_keeps (x := m.1) (seq := m.2.1) (k := m.2.2) hm hs (fun u => ?_) (fun u => ?_) hset
      (fun u => ?_) (fun u _ _ _ => ?_) (fun u hu => by rw [hu.mgmt.2.2]) fun u hu => rowsLaw_change hu hs
    all_goals
      exact rowsStand.rowsLaw (.of_sched (by simp) (by simp) (by simp) (by simp))
  | none => exact effectOf_keeps hset (rowsLaw_ownEffect c s hm hg hs)

theorem granted_change {x : Link} {s u : State} (h : MgmtChange x s u) :
    u.sched.lastGranted = s.sched.lastGranted := by
  cases h
  case writes f v hf hs hv =>
    cases h : stoppedOnly f with
    | false => exact (rowsStand_writeField v h).granted
    | true => rw [writeField_stopped v h]; rfl
  case resets v hv =>
    refine ((rowsStand_beginWarmWork _).granted).trans ?_
    rcases hv with rfl | rfl <;> simp
  all_goals simp

theorem positionLaw_effectOf (c : Instr) (s : State) (hg : guardHolds c s) (hs : positionLaw s) :
    positionLaw (effectOf c s) := by
  have key : ∀ v u : State, u.sched.lastGranted = v.sched.lastGranted → positionLaw v → positionLaw u :=
    fun v u h hv => by rw [positionLaw, h]; exact hv
  have hset : ∀ u, positionLaw u → positionLaw (settle u) := fun u => key u _ (lastGranted_settle u)
  cases hm : mgmtOf c with
  | some m =>
    exact mgmt_keeps (x := m.1) (seq := m.2.1) (k := m.2.2) hm hs (fun u => key u _ (by simp))
      (fun u => key u _ (by simp)) hset (fun u => key u _ (by simp)) (fun u _ _ _ => key u _ (by simp))
      (fun u hu => by rw [hu.mgmt.2.2]) fun u hu => key s u (granted_change hu) hs
  | none => exact effectOf_keeps hset (positionLaw_ownEffect c s hm hg hs)

end Sys2Proof.Machine
end


section
/-! PROOFS. Every command keeps the law of the Lock Table (05 R87): a block appears in at most one entry, and
each link holds at most two. -/

namespace Sys2Proof.Machine

/-! ## Entries removed and entries taken -/

/-- The block and the holder of an entry: what the law of the Lock Table speaks of. -/
def lockKey (e : LockEntry) : Nat × Link := (e.block, e.holder)

/-- No entry is added: what is left of the blocks and holders stands in its order. -/
def locksFall (s u : State) : Prop := (u.locks.map lockKey).Sublist (s.locks.map lockKey)

theorem locksFall_of {s u : State} (h : u.locks = s.locks) : locksFall s u := by
  unfold locksFall; rw [h]

theorem length_locksOf (s : State) (x : Link) :
    (locksOf s x).length = (s.locks.map lockKey).countP fun k => k.2 = x := by
  rw [List.countP_map, locksOf, ← List.countP_eq_length_filter]; rfl

theorem blocks_eq (s : State) : (s.locks.map fun e => e.block) = (s.locks.map lockKey).map Prod.fst := by
  rw [List.map_map]; rfl

theorem locksFall.lockLaw {s u : State} (h : locksFall s u) (hs : lockLaw s) : lockLaw u := by
  obtain ⟨hn, hl⟩ := hs
  refine ⟨?_, fun x => ?_⟩
  · rw [blocks_eq] at hn ⊢
    exact (h.map Prod.fst).nodup hn
  · rw [length_locksOf]
    exact (h.countP_le ..).trans ((length_locksOf s x).symm.trans_le (hl x))

theorem lockLaw_of {s u : State} (h : u.locks = s.locks) (hs : lockLaw s) : lockLaw u :=
  (locksFall_of h).lockLaw hs

theorem lockLaw_nil {u : State} (h : u.locks = []) : lockLaw u := by
  refine ⟨?_, fun x => ?_⟩ <;> simp [locksOf, h]

theorem lockLaw_modLock {s : State} {block : Nat} {f : LockEntry → LockEntry}
    (hf : ∀ e, lockKey (f e) = lockKey e) (hs : lockLaw s) : lockLaw (modLock s block f) := by
  refine locksFall.lockLaw ?_ hs
  have hk : (modLock s block f).locks.map lockKey = s.locks.map lockKey := by
    unfold modLock
    rw [List.map_map]
    refine List.map_congr_left fun e _ => ?_
    simp only [Function.comp_apply]
    split
    · exact hf e
    · rfl
  unfold locksFall
  rw [hk]

/-- A free entry is taken on a block that has none, by a link that holds fewer than two. -/
theorem lockLaw_takeLock {s : State} {i : Nat} {x : Link} {block : Nat} (hs : lockLaw s)
    (hb : lockOn s block = none) (hx : (locksOf s x).length < 2) : lockLaw (takeLock s i x block) := by
  obtain ⟨hn, hl⟩ := hs
  have hnot : ∀ e ∈ s.locks, e.block ≠ block := by
    simpa [lockOn, List.find?_eq_none] using hb
  refine ⟨?_, fun y => ?_⟩
  · simp only [takeLock, List.map_append, List.map_cons, List.map_nil, List.nodup_append]
    refine ⟨hn, List.nodup_singleton _, fun a ha c hc e => ?_⟩
    obtain ⟨d, hd, rfl⟩ := List.mem_map.mp ha
    exact hnot d hd (by simpa [e] using hc)
  · by_cases hy : x = y
    · subst hy
      simp only [locksOf, takeLock, List.filter_append, List.length_append] at hx ⊢
      simp; omega
    · have h := hl y
      simp only [locksOf, takeLock, List.filter_append, List.length_append] at h ⊢
      simpa [hy] using h

/-! ## Waiters examined again (05 R92) -/

theorem lockLaw_reexamineWaiter {s : State} (i : Nat) (hs : lockLaw s) :
    lockLaw (reexamineWaiter s i) := by
  have hw : ∀ b, lockLaw (waitOn s i b) := fun b => lockLaw_of (by simp) hs
  have ho : ∀ u, lockLaw u → lockLaw (orderingPoint u i) := fun u => lockLaw_of (by simp)
  unfold reexamineWaiter
  split
  · exact hs
  · split
    · split
      · exact hw _
      · exact hw _
      · rename_i hb hfew
        refine ho _ (lockLaw_takeLock hs hb ?_)
        match hl : locksOf s _ with
        | [] => simp
        | [_] => simp
        | a :: b :: r => exact absurd hl (hfew a b r)
    · split
      · exact hw _
      · exact lockLaw_of (by simp) hs

theorem lockLaw_removeLocks {s : State} (which : LockEntry → Bool) (hs : lockLaw s) :
    lockLaw (removeLocks s which) := by
  have hfold : ∀ (l : List Nat) (u : State), lockLaw u → lockLaw (l.foldl reexamineWaiter u) := by
    intro l
    induction l with
    | nil => exact fun u hu => hu
    | cons i l ih => exact fun u hu => ih _ (lockLaw_reexamineWaiter i hu)
  exact hfold _ _ (locksFall.lockLaw (List.filter_sublist.map lockKey) hs)

theorem lockLaw_removeLock {s : State} (block : Nat) (hs : lockLaw s) : lockLaw (removeLock s block) :=
  lockLaw_removeLocks _ hs

/-! ## The intake step (05 R89, R93, R95) -/

theorem lockLaw_placeRequest {s : State} (i : Nat) (t : Txn) (phys : Nat) (hs : lockLaw s) :
    lockLaw (placeRequest s i t phys) := by
  have hr : ∀ u st, lockLaw u → lockLaw (enterReply u i st) := fun u st => lockLaw_of (by simp)
  have hq : ∀ u, lockLaw u → lockLaw (queueFree u i) := fun u => lockLaw_of (by simp)
  have hb : ∀ u b, lockLaw u → lockLaw (queueBlocked u i b) := fun u b => lockLaw_of (by simp)
  unfold placeRequest
  split
  · unfold placeLockRead
    split
    · exact hr _ _ hs
    · rename_i hfew
      split
      · split
        · exact hr _ _ hs
        · exact hb _ _ hs
      · rename_i hnone
        exact hq _ (lockLaw_takeLock hs hnone (not_le.mp hfew))
  · unfold placeLockWrite
    split
    · exact hq _ (lockLaw_modLock (fun _ => rfl) hs)
    · exact hr _ _ hs
  · unfold placeLockDrop
    split
    · exact hr _ _ (lockLaw_removeLock phys hs)
    · exact hr _ _ hs
  · unfold placeAccess
    split
    · exact hb _ _ hs
    · exact hq _ hs

theorem lockLaw_intakeStep {s : State} (i : Nat) (t : Txn) (hs : lockLaw s) :
    lockLaw (intakeStep s i t) := by
  have hr : ∀ st, lockLaw (enterReply s i st) := fun st => lockLaw_of (by simp) hs
  unfold intakeStep
  split
  · exact hr _
  · split
    · exact hr _
    · split
      · exact lockLaw_of (s := s) (by simp) hs
      · split
        · exact hr _
        · split
          · exact hr _
          · unfold consult
            dsimp only
            split
            · exact lockLaw_of (s := s) (by simp) hs
            · exact lockLaw_placeRequest i _ _ (lockLaw_of (by simp) hs)

/-! ## The end of a service (05 R90, R94) -/

theorem lockLaw_settleLockRead {s : State} (i : Nat) (st : MemStatus) (hs : lockLaw s) :
    lockLaw (settleLockRead s i st) := by
  unfold settleLockRead
  split
  · exact hs
  · split
    · exact lockLaw_removeLock _ hs
    · exact lockLaw_modLock (fun _ => rfl) hs

theorem lockLaw_settleLockWrite {s : State} (i : Nat) (hs : lockLaw s) :
    lockLaw (settleLockWrite s i) := by
  unfold settleLockWrite
  split
  · exact hs
  · exact lockLaw_removeLock _ hs

theorem lockLaw_closeService {s : State} (pos i : Nat) (hs : lockLaw s) :
    lockLaw (closeService s pos i) := lockLaw_of (by simp) hs

theorem lockLaw_releaseBank {s : State} (pos : Nat) (hs : lockLaw s) : lockLaw (releaseBank s pos) :=
  lockLaw_of (by simp) hs

theorem lockLaw_completeRead {s : State} (pos i : Nat) (t : Txn)
    (got : List (Nat × BlockStatus × Block)) (hs : lockLaw s) :
    lockLaw (completeRead s pos i t got) := by
  refine lockLaw_closeService pos i (lockLaw_settleLockRead i _ (lockLaw_of ?_ hs))
  simp

theorem lockLaw_completeWrite {s : State} (pos i : Nat) (t : Txn) (hs : lockLaw s) :
    lockLaw (completeWrite s pos i t) := by
  refine lockLaw_closeService pos i (lockLaw_settleLockWrite i (lockLaw_of ?_ hs))
  simp

theorem lockLaw_failMerge {s : State} (pos i : Nat) (t : Txn) (hs : lockLaw s) :
    lockLaw (failMerge s pos i t) := by
  refine lockLaw_closeService pos i (lockLaw_settleLockWrite i (lockLaw_of ?_ hs))
  simp

theorem lockLaw_reportWrite {s : State} (pos i : Nat) (hs : lockLaw s) :
    lockLaw (reportWrite s pos i) := by
  unfold reportWrite
  split
  · exact lockLaw_releaseBank pos hs
  · split
    · exact lockLaw_releaseBank pos hs
    · exact lockLaw_completeWrite pos i _ hs

theorem lockLaw_completeEmpty {s : State} (pos : Nat) (hs : lockLaw s) :
    lockLaw (completeEmpty s pos) := by
  unfold completeEmpty
  (repeat' split) <;> first | exact hs | exact lockLaw_reportWrite pos _ hs

theorem lockLaw_afterLastRead {s : State} (pos : Nat) (v : Service) (t : Txn) (hs : lockLaw s) :
    lockLaw (afterLastRead s pos v t) := by
  unfold afterLastRead
  split
  · exact lockLaw_releaseBank pos hs
  · split
    · exact lockLaw_completeRead pos _ t _ hs
    · split
      · exact lockLaw_failMerge pos _ t hs
      · exact hs

/-! ## Every command -/

theorem lockLaw_settle {s : State} (hs : lockLaw s) : lockLaw (settle s) := by
  have hw : ∀ u, lockLaw u → lockLaw (warmSleep u) := fun u => lockLaw_of (by simp)
  have ha : (settleAwake s).locks = s.locks := by simp [settleAwake]
  rw [settle_eq]
  unfold settleSleep
  split
  · exact hw _ (lockLaw_nil (by simp [enterSelfRefresh]))
  · exact hw _ (lockLaw_of ha hs)

theorem lockLaw_resetBlocks {s : State} (x : Link) (cause : Cause) (hs : lockLaw s) :
    lockLaw (resetBlocks s x cause) := by
  have ht : ∀ u, lockLaw u → lockLaw (tenureLinkReset (mgmtLinkReset (discardTarget u x) x) x) :=
    fun u => lockLaw_of (by simp)
  exact ht _ (lockLaw_removeLocks _ (lockLaw_of (by simp) hs))

theorem lockLaw_ownEffect (c : Instr) (s : State) (hm : mgmtOf c = none) (hs : lockLaw s) :
    lockLaw (ownEffect c s) := by
  cases c
  case intakeStep x =>
    simp only [ownEffect, ownIntake]
    split
    · exact hs
    · exact lockLaw_intakeStep _ _ hs
  case issue =>
    simp only [ownEffect, ownIssue]
    split
    · exact hs
    · split
      · exact hs
      · rw [issueAt_eq]
        refine lockLaw_completeEmpty _ (lockLaw_of (s := s) ?_ hs)
        show (issueServed s _ _ _).locks = s.locks
        have hp : ∀ (ps : List Nat) (n : Nat) (u : State), (ps.foldl (raiseBypass n) u).locks = u.locks :=
          fun ps n u => foldl_keeps (fun s => s.locks) _ (fun _ _ => by simp [raiseBypass]) ps u
        simp only [issueServed, issuePassed]
        simp [hp]
        split <;> simp
  case activationComplete pos =>
    simp only [ownEffect, ownActivation]
    split
    · exact lockLaw_releaseBank pos (lockLaw_of (by simp) hs)
    · exact lockLaw_completeEmpty pos (lockLaw_of (by simp) hs)
  case writeColumnSent pos =>
    simp only [ownEffect, ownWriteColumn]
    split
    · exact hs
    · have hst : ∀ v k d, lockLaw (stored pos s v k d) := fun v k d => lockLaw_of (by simp) hs
      split
      · exact lockLaw_reportWrite pos _ (hst ..)
      · exact hst ..
  case readColumnDataArrival =>
    simp only [ownEffect, ownData]
    split
    · exact hs
    · have hd : ∀ es r v t, lockLaw (dataTaken es s r v t).1 := fun es r v t => lockLaw_of (by simp) hs
      split
      · exact lockLaw_afterLastRead _ _ _ (hd ..)
      · exact hd ..
  case lockHoldExpiry b =>
    simp only [ownEffect, ownLockExpiry]
    split
    · exact hs
    · exact lockLaw_removeLock b (lockLaw_of (by simp) hs)
  case train x _ _ seen =>
    simp only [ownEffect, ownTrain]; (repeat' split)
    · exact lockLaw_of (by simp) hs
    · exact lockLaw_of (by simp) hs
    · exact lockLaw_resetBlocks x _ hs
  case linkReset x => exact lockLaw_resetBlocks x _ hs
  case retryTimerExpiry x =>
    simp only [ownEffect, ownRetry]; split
    · exact lockLaw_of (by simp) hs
    · exact lockLaw_resetBlocks (s := putOnWire s x [.linkReset]) x _ (lockLaw_of (by simp) hs)
  case replayTimerExpiry x =>
    simp only [ownEffect, ownReplay]; split
    · exact lockLaw_of (by simp) hs
    · exact lockLaw_resetBlocks (s := putOnWire s x [.linkReset]) x _ (lockLaw_of (by simp) hs)
  case coldReset => exact lockLaw_nil rfl
  case resetPoint => exact lockLaw_nil rfl
  case mgmtRead | mgmtWrite | writeTenureMode | writeRefreshMode | writeForceLevel | writeCueLink |
      writeFilterEnable | writeCreditLimit | writeAlertLink | writeLease | writeCorrThreshold |
      writeOpenLimit | tableRead | tableWrite | tableRevert | tableCommit | claim | release |
      channelStart | channelQuiesce | channelResume | hubReset => cases hm
  all_goals exact lockLaw_of (by simp [ownEffect, effectOf]) hs

theorem lockLaw_change {x : Link} {s u : State} (h : MgmtChange x s u) (hs : lockLaw s) : lockLaw u := by
  cases h
  case resets v hv =>
    have hv' : v.locks = s.locks := by rcases hv with rfl | rfl <;> simp
    exact lockLaw_of (by simp [hv']) hs
  all_goals exact lockLaw_of (by simp) hs

theorem lockLaw_effectOf (c : Instr) (s : State) (hs : lockLaw s) : lockLaw (effectOf c s) := by
  have hset : ∀ u, lockLaw u → lockLaw (settle u) := fun u => lockLaw_settle
  cases hm : mgmtOf c with
  | some m =>
    exact mgmt_keeps (x := m.1) (seq := m.2.1) (k := m.2.2) hm hs (fun u => lockLaw_of (by simp))
      (fun u => lockLaw_of (by simp)) hset (fun u => lockLaw_of (by simp))
      (fun u _ _ _ => lockLaw_of (by simp)) (fun u hu => by rw [hu.mgmt.2.2])
      fun u hu => lockLaw_change hu hs
  | none => exact effectOf_keeps hset (lockLaw_ownEffect c s hm hs)

theorem lockLaw_tick {s : State} (hs : lockLaw s) : lockLaw (tick s) := by
  refine locksFall.lockLaw ?_ hs
  have hk : (tick s).locks.map lockKey = s.locks.map lockKey := by
    unfold tick
    dsimp only
    rw [List.map_map]; rfl
  unfold locksFall
  rw [hk]

end Sys2Proof.Machine
end


section
/-! PROOFS. Every command keeps the laws of the Recent Line Lists (06 R109) and of the Notice Queues
(06 R101, R105, R107). -/

namespace Sys2Proof.Machine

/-! ## The laws of one target -/

/-- The law of a target's Recent Line List. -/
def recentOk (n : NoticeTarget) : Prop := n.recent.length ≤ recentRoom ∧ n.recent.Nodup

/-- Two entries of one queue are of different lines, and not both SENT with one number. -/
def entriesApart (e f : NoticeEntry) : Prop :=
  e.line ≠ f.line ∧ ∀ k a b, e.state = .sent k a → f.state ≠ .sent k b

/-- The law of a target's Notice Queue. -/
def queueOk (n : NoticeTarget) : Prop :=
  n.queue.length ≤ noticeRoom ∧ n.queue.Pairwise entriesApart ∧ ∀ e ∈ n.queue, e.waiters.Nodup

/-- A change of a target keeps both laws. -/
def targetKeeps (n m : NoticeTarget) : Prop := (recentOk n → recentOk m) ∧ (queueOk n → queueOk m)

/-- A change of the state keeps both laws of both targets. -/
def targetsKeep (s u : State) : Prop := ∀ y, targetKeeps (targetOf s y) (targetOf u y)

theorem targetKeeps_refl (n : NoticeTarget) : targetKeeps n n := ⟨id, id⟩

theorem targetsKeep_of {s u : State} (h : u.notices = s.notices) : targetsKeep s u := by
  intro y
  rw [show targetOf u y = targetOf s y by simp [targetOf, h]]
  exact targetKeeps_refl _

theorem targetsKeep.then {s u w : State} (h : targetsKeep s u) (h' : targetsKeep u w) :
    targetsKeep s w := fun y => ⟨(h' y).1 ∘ (h y).1, (h' y).2 ∘ (h y).2⟩

theorem targetsKeep.recentLaw {s u : State} (h : targetsKeep s u) (hs : recentLaw s) : recentLaw u :=
  fun y => (h y).1 (hs y)

theorem targetsKeep.noticeLaw {s u : State} (h : targetsKeep s u) (hs : noticeLaw s) : noticeLaw u :=
  fun y => (h y).2 (hs y)

theorem targetsKeep_foldl {α : Type} {f : State → α → State} (h : ∀ s a, targetsKeep s (f s a)) :
    ∀ (l : List α) (s : State), targetsKeep s (l.foldl f s)
  | [], _ => targetsKeep_of rfl
  | a :: l, s => (h s a).then (targetsKeep_foldl h l (f s a))

theorem targetsKeep_modTarget (s : State) (y : Link) {f : NoticeTarget → NoticeTarget}
    (h : targetKeeps (targetOf s y) (f (targetOf s y))) : targetsKeep s (modTarget s y f) := by
  intro z
  unfold modTarget
  show targetKeeps (targetOf s z) ((s.notices.set y (f (targetOf s y))).get z)
  by_cases hz : z = y
  · subst hz; rw [PerLink.get_set]; exact h
  · rw [PerLink.get_set_ne _ _ _ _ hz]; exact targetKeeps_refl _

/-! ## Queues -/

theorem queueOk_nil {n : NoticeTarget} (h : n.queue = []) : queueOk n := by
  unfold queueOk; rw [h]; exact ⟨Nat.zero_le _, List.Pairwise.nil, fun e he => by cases he⟩

/-- Entries are removed. -/
theorem queueOk_sublist {n m : NoticeTarget} (h : m.queue.Sublist n.queue) (hn : queueOk n) :
    queueOk m := by
  obtain ⟨h1, h2, h3⟩ := hn
  exact ⟨h.length_le.trans h1, h2.sublist h, fun e he => h3 e (h.subset he)⟩

/-- An entry keeps its line, is not sent anew, and names a waiter at most once still. -/
def entryStands (e f : NoticeEntry) : Prop :=
  f.line = e.line ∧ (f.state = e.state ∨ f.state = .reserved) ∧ (e.waiters.Nodup → f.waiters.Nodup)

theorem entryStands_refl (e : NoticeEntry) : entryStands e e := ⟨rfl, .inl rfl, id⟩

theorem entriesApart_of_stands {e e' f f' : NoticeEntry} (he : entryStands e e')
    (hf : entryStands f f') (h : entriesApart e f) : entriesApart e' f' := by
  obtain ⟨hl, hs, -⟩ := he
  obtain ⟨hl', hs', -⟩ := hf
  refine ⟨by rw [hl, hl']; exact h.1, fun k a b h1 h2 => ?_⟩
  rcases hs with e1 | e1
  · rcases hs' with e2 | e2
    · exact h.2 k a b (e1.symm.trans h1) (e2.symm.trans h2)
    · rw [e2] at h2; cases h2
  · rw [e1] at h1; cases h1

/-- Every entry stands. -/
theorem queueOk_map {n m : NoticeTarget} {f : NoticeEntry → NoticeEntry} (hf : ∀ e, entryStands e (f e))
    (h : m.queue = n.queue.map f) (hn : queueOk n) : queueOk m := by
  obtain ⟨h1, h2, h3⟩ := hn
  unfold queueOk
  rw [h]
  refine ⟨by simpa using h1, List.pairwise_map.mpr ?_, fun e' he => ?_⟩
  · exact h2.imp fun {a b} hab => entriesApart_of_stands (hf a) (hf b) hab
  · obtain ⟨e, hm, rfl⟩ := List.mem_map.mp he
    exact (hf e).2.2 (h3 e hm)

theorem targetsKeep_modEntry (s : State) (y : Link) (line : Nat) {f : NoticeEntry → NoticeEntry}
    (hf : ∀ e, entryStands e (f e)) : targetsKeep s (modEntry s y line f) := by
  refine targetsKeep_modTarget s y ⟨id, queueOk_map (f := fun e => if e.line = line then f e else e)
    (fun e => ?_) rfl⟩
  split
  · exact hf e
  · exact entryStands_refl e

/-! ## Reservation (06 R105) -/

theorem nodup_distinct : ∀ l : List Nat, (distinct l).Nodup
  | [] => List.nodup_nil
  | x :: xs => by
    unfold distinct
    rw [List.nodup_cons]
    exact ⟨by simp, (nodup_distinct xs).filter _⟩

theorem nodup_linesWritten (t : Txn) : (linesWritten t).Nodup := by
  unfold linesWritten
  split
  · exact List.nodup_nil
  · exact nodup_distinct _

theorem nodup_newLines (s : State) (t : Txn) : (newLines s t).Nodup := by
  refine List.Nodup.filter _ ?_
  unfold notifiedSet
  split
  · exact (nodup_linesWritten t).filter _
  · exact List.nodup_nil

/-- The lines that need a new entry have none. -/
theorem newLines_absent {s : State} {t : Txn} {l : Nat} (h : l ∈ newLines s t) :
    ∀ e ∈ (targetOf s (otherLink t.link)).queue, e.line ≠ l := by
  have h' := (List.mem_filter.mp h).2
  simp only [Bool.and_eq_true, Bool.not_eq_true', hasEntry, List.any_eq_false, decide_eq_true_eq] at h'
  exact h'.1

/-- New RESERVED entries for lines that have none join a queue with room. -/
theorem queueOk_append {n m : NoticeTarget} {ls : List Nat} (i : Nat)
    (h : m.queue = n.queue ++ ls.map fun l => ⟨l, .reserved, .stopped, [i], []⟩)
    (hroom : n.queue.length + ls.length ≤ noticeRoom) (hls : ls.Nodup)
    (hab : ∀ l ∈ ls, ∀ e ∈ n.queue, e.line ≠ l) (hn : queueOk n) : queueOk m := by
  obtain ⟨-, h2, h3⟩ := hn
  unfold queueOk
  rw [h]
  refine ⟨by simpa using hroom, List.pairwise_append.mpr ⟨h2, List.pairwise_map.mpr ?_, ?_⟩, ?_⟩
  · exact hls.imp fun {a b} hab => ⟨hab, fun _ _ _ e => by cases e⟩
  · intro e he f hf
    obtain ⟨l, hl, rfl⟩ := List.mem_map.mp hf
    exact ⟨hab l hl e he, fun _ _ _ _ e => by cases e⟩
  · intro e he
    rcases List.mem_append.mp he with he | he
    · exact h3 e he
    · obtain ⟨l, -, rfl⟩ := List.mem_map.mp he
      exact List.nodup_nil

/-- The lines of a queue, which a change of entries leaves. -/
theorem lines_modEntry (s : State) (y : Link) (line : Nat) {f : NoticeEntry → NoticeEntry}
    (hf : ∀ e, (f e).line = e.line) : ((targetOf (modEntry s y line f) y).queue.map fun e => e.line) =
      (targetOf s y).queue.map fun e => e.line := by
  unfold modEntry
  rw [targetOf_modTarget]
  simp only [List.map_map]
  refine List.map_congr_left fun e _ => ?_
  simp only [Function.comp_apply]
  split
  · exact hf e
  · rfl

theorem targetsKeep_reserveNotices {s : State} (i : Nat) {t : Txn} (h : noticesFit s t = true) :
    targetsKeep s (reserveNotices s i t) := by
  let f : State → Nat → State := fun st l => modEntry st (otherLink t.link) l fun e =>
    { e with claimants := insertSlot st i e.claimants }
  let joined := (joinLines s t).foldl f s
  have hf : ∀ u l, targetsKeep u (f u l) :=
    fun u l => targetsKeep_modEntry u _ l fun e => ⟨rfl, .inl rfl, id⟩
  have hj : targetsKeep s joined := targetsKeep_foldl hf _ s
  have hl : ((targetOf joined (otherLink t.link)).queue.map fun e => e.line) =
      (targetOf s (otherLink t.link)).queue.map fun e => e.line :=
    foldl_keeps (fun u => (targetOf u (otherLink t.link)).queue.map fun e => e.line) f
      (fun u l => lines_modEntry u _ l
        (f := fun e => { e with claimants := insertSlot u i e.claimants }) fun _ => rfl) _ s
  have hlen : (targetOf joined (otherLink t.link)).queue.length =
      (targetOf s (otherLink t.link)).queue.length := by simpa using congrArg List.length hl
  refine hj.then (targetsKeep_modTarget joined (otherLink t.link) ⟨id, fun hq =>
    queueOk_append i rfl ?_ (nodup_newLines s t) (fun l hl' e he => ?_) hq⟩)
  · have h1 := hq.1
    have hfit : (newLines s t).length ≤ noticeRoom - (targetOf s (otherLink t.link)).queue.length :=
      of_decide_eq_true h
    omega
  · have hm : e.line ∈ (targetOf s (otherLink t.link)).queue.map fun e => e.line :=
      hl ▸ List.mem_map_of_mem he
    obtain ⟨d, hd, hde⟩ := List.mem_map.mp hm
    rw [← hde]
    exact newLines_absent hl' d hd

/-! ## Sending (06 R106, R107) -/

/-- A number that no SENT entry holds. -/
theorem not_sent_of_free {n : NoticeTarget} {k : Byte} (h : numberTaken n k = false)
    {e : NoticeEntry} (he : e ∈ n.queue) (a : LinkAddr) : e.state ≠ .sent k a := by
  intro hs
  have : numberTaken n k = true := by
    unfold numberTaken
    exact List.any_eq_true.mpr ⟨e, he, by simp [hs]⟩
  rw [h] at this; cases this

/-- While an entry is RESERVED, the number picked is free. -/
theorem pickNumber_free {n : NoticeTarget} (hlen : n.queue.length ≤ noticeRoom)
    (hres : ∃ e ∈ n.queue, e.state = .reserved) (k : Byte) :
    numberTaken n (pickNumber n noticeRoom k) = false := by
  have hlt : (n.queue.filterMap numberOf).length < noticeRoom := by
    obtain ⟨e, he, hst⟩ := hres
    refine lt_of_lt_of_le (lt_of_le_of_ne (List.length_filterMap_le ..) fun heq => ?_) hlen
    have := (List.filterMap_length_eq_length ..).mp heq e he
    simp [numberOf, hst] at this
  obtain ⟨j, -, h1, h2, -⟩ := pickNumber_least n noticeRoom k (by decide) hlt
  rw [h1]; exact h2

/-- The entry of a line becomes SENT with a number no entry holds. -/
theorem queueOk_sent {n m : NoticeTarget} {line : Nat} {k : Byte} {a : LinkAddr} {tm : Timer}
    (hk : numberTaken n k = false)
    (h : m.queue = n.queue.map fun e =>
      if e.line = line then { e with state := .sent k a, timer := tm } else e)
    (hn : queueOk n) : queueOk m := by
  obtain ⟨h1, h2, h3⟩ := hn
  unfold queueOk
  rw [h]
  refine ⟨by simpa using h1, List.pairwise_map.mpr ?_, fun e' he => ?_⟩
  · refine h2.imp_of_mem fun {e f} he hf hef => ?_
    by_cases el : e.line = line
    · have fl : f.line ≠ line := fun e' => hef.1 (el.trans e'.symm)
      rw [if_pos el, if_neg fl]
      refine ⟨hef.1, fun k' a' b' hs hs' => ?_⟩
      cases hs
      exact not_sent_of_free hk hf b' hs'
    · rw [if_neg el]
      by_cases fl : f.line = line
      · rw [if_pos fl]
        refine ⟨hef.1, fun k' a' b' hs hs' => ?_⟩
        cases hs'
        exact not_sent_of_free hk he a' hs
      · rw [if_neg fl]; exact hef
  · obtain ⟨e, hm, rfl⟩ := List.mem_map.mp he
    split
    · exact h3 e hm
    · exact h3 e hm

theorem targetsKeep_modLink (s : State) (x : Link) (f : LinkCtl → LinkCtl) :
    targetsKeep s (modLink s x f) := targetsKeep_of rfl

theorem targetsKeep_sendEntry {s : State} {y : Link} (line : Nat)
    (h : ∃ e ∈ (targetOf s y).queue, e.state = .reserved) : targetsKeep s (sendEntry s y line) := by
  let n := targetOf s y
  let k := pickNumber n noticeRoom n.counter
  let addr := (reverseLookup s.xlate.active y line).getD 0
  have hm : targetsKeep s (modEntry s y line fun e =>
      { e with state := .sent k addr, timer := loaded (usUnits s.settings.notices.limit) }) := by
    refine targetsKeep_modTarget s y ⟨id, fun hq => ?_⟩
    exact queueOk_sent (pickNumber_free hq.1 h _) rfl hq
  refine hm.then (.then (u := modTarget _ y fun n => { n with counter := k + 1 }) ?_
    (targetsKeep_modLink _ y _))
  exact targetsKeep_modTarget _ y ⟨id, fun hq => hq⟩

theorem targetsKeep_performEntry (y : Link) (i : Nat) (s : State) (line : Nat) :
    targetsKeep s (performEntry y i s line) := by
  have hm : targetsKeep s (modEntry s y line fun e => { e with
      claimants := e.claimants.filter fun j => j ≠ i, waiters := insertSlot s i e.waiters }) :=
    targetsKeep_modEntry s y line fun e => ⟨rfl, .inl rfl, nodup_insertSlot s i⟩
  unfold performEntry
  dsimp only
  split
  · rename_i hw
    refine hm.then (targetsKeep_sendEntry line ?_)
    obtain ⟨e, he, hs⟩ := List.any_eq_true.mp hw
    simp only [Bool.and_eq_true, decide_eq_true_eq] at hs
    unfold modEntry
    rw [targetOf_modTarget]
    exact ⟨_, List.mem_map_of_mem he, by simp [hs.1, hs.2]⟩
  · exact hm

/-! ## The Recent Line List (06 R109) -/

theorem recent_placeRecent {r : List Nat} (line : Nat) (h : r.length ≤ recentRoom ∧ r.Nodup) :
    (placeRecent r line).length ≤ recentRoom ∧ (placeRecent r line).Nodup := by
  obtain ⟨hl, hn⟩ := h
  have hf : (r.filter fun l => l ≠ line).length ≤ recentRoom := (List.length_filter_le ..).trans hl
  have hnd : ∀ o : List Nat, o.Sublist (r.filter fun l => l ≠ line) → (o ++ [line]).Nodup := by
    intro o ho
    rw [List.nodup_append]
    refine ⟨ho.nodup (hn.filter _), List.nodup_singleton _, fun a ha b hb => ?_⟩
    have := (List.mem_filter.mp (ho.subset ha)).2
    simp at this hb
    rw [hb]; exact this
  unfold placeRecent
  dsimp only
  split
  · rename_i hlt
    exact ⟨by rw [List.length_append]; exact hlt, hnd _ (List.Sublist.refl _)⟩
  · refine ⟨?_, hnd _ (List.drop_sublist ..)⟩
    have hroom : recentRoom = 8 := rfl
    rw [List.length_append, List.length_drop, List.length_singleton]
    omega

theorem recent_foldl_placeRecent : ∀ (lines r : List Nat), r.length ≤ recentRoom ∧ r.Nodup →
    (lines.foldl placeRecent r).length ≤ recentRoom ∧ (lines.foldl placeRecent r).Nodup
  | [], _, h => h
  | l :: lines, _, h => recent_foldl_placeRecent lines _ (recent_placeRecent l h)

theorem targetsKeep_performNotices (s : State) (i : Nat) (t : Txn) :
    targetsKeep s (performNotices s i t) :=
  (targetsKeep_foldl (fun u l => targetsKeep_performEntry _ i u l) _ s).then
    (targetsKeep_modTarget _ _ ⟨recent_foldl_placeRecent _ _, fun hq => hq⟩)

theorem targetsKeep_forgetRecent (s : State) (y : Link) (lines : List Nat) :
    targetsKeep s (forgetRecent s y lines) :=
  targetsKeep_modTarget s y ⟨fun h => ⟨(List.length_filter_le ..).trans h.1, h.2.filter _⟩, fun hq => hq⟩

theorem targetsKeep_clearRecent (s : State) : targetsKeep s (clearRecent s) := by
  intro y
  cases y <;> exact ⟨fun _ => ⟨Nat.zero_le _, List.nodup_nil⟩, fun hq => hq⟩

/-! ## The end of waits (06 R108, R110, R111, R113, R114) -/

theorem targetsKeep_giveUpClaims (s : State) (i : Nat) (t : Txn) : targetsKeep s (giveUpClaims s i t) := by
  refine targetsKeep_modTarget s _ ⟨id, fun hq => ?_⟩
  have hq' : queueOk { targetOf s (otherLink t.link) with
      queue := (targetOf s (otherLink t.link)).queue.map fun e =>
        { e with claimants := e.claimants.filter fun j => j ≠ i } } :=
    queueOk_map (f := fun e => { e with claimants := e.claimants.filter fun j => j ≠ i })
      (fun e => ⟨rfl, .inl rfl, id⟩) rfl hq
  exact queueOk_sublist List.filter_sublist hq'

theorem targetsKeep_dropWaiters (s : State) (y : Link) (line : Nat) (late : Bool) :
    targetsKeep s (dropWaiters s y line late) := by
  have hd : ∀ u i, targetsKeep u (dropWait y late u i) := fun u i => targetsKeep_of (by simp)
  exact (targetsKeep_modEntry s y line (f := fun e => { e with waiters := [], timer := .stopped })
    fun _ => ⟨rfl, .inl rfl, fun _ => List.nodup_nil⟩).then (targetsKeep_foldl hd _ _)

theorem targetsKeep_removeOrRearm (s : State) (y : Link) (line : Nat) :
    targetsKeep s (removeOrRearm s y line) := by
  refine targetsKeep_modTarget s y ⟨id, fun hq => ?_⟩
  have hq' : queueOk { targetOf s y with queue := (targetOf s y).queue.filter fun e =>
      !(e.line = line && e.claimants.isEmpty) } := queueOk_sublist List.filter_sublist hq
  refine queueOk_map (fun e => ?_) rfl hq'
  split
  · exact ⟨rfl, .inr rfl, fun _ => List.nodup_nil⟩
  · exact entryStands_refl e

theorem targetsKeep_discardEntry (y : Link) (s : State) (line : Nat) :
    targetsKeep s (discardEntry y s line) :=
  (targetsKeep_dropWaiters s y line false).then
    (targetsKeep_modTarget _ y ⟨id, queueOk_sublist List.filter_sublist⟩)

theorem targetsKeep_discardTarget (s : State) (y : Link) : targetsKeep s (discardTarget s y) :=
  (targetsKeep_foldl (targetsKeep_discardEntry y) _ s).then
    (targetsKeep_modTarget _ y ⟨fun _ => ⟨Nat.zero_le _, List.nodup_nil⟩, fun _ => queueOk_nil rfl⟩)

/-! ## Completions and link resets -/

theorem targetsKeep_completeRead (s : State) (pos i : Nat) (t : Txn)
    (got : List (Nat × BlockStatus × Block)) : targetsKeep s (completeRead s pos i t got) := by
  have h1 : targetsKeep s (modSlot (stopServing s pos) i fun t =>
      { t with data := got.map fun g => g.2.2, statuses := got.map fun g => g.2.1 }) :=
    targetsKeep_of (by simp)
  refine h1.then ((targetsKeep_forgetRecent _ t.link (linesTouched t)).then (targetsKeep_of ?_))
  simp [completeRead]

theorem targetsKeep_completeWrite (s : State) (pos i : Nat) (t : Txn) :
    targetsKeep s (completeWrite s pos i t) := by
  have h1 : targetsKeep s (stopServing s pos) := targetsKeep_of (by simp)
  refine h1.then ((targetsKeep_performNotices _ i t).then (targetsKeep_of ?_))
  simp [completeWrite]

theorem targetsKeep_failMerge (s : State) (pos i : Nat) (t : Txn) :
    targetsKeep s (failMerge s pos i t) := by
  have h1 : targetsKeep s (stopServing s pos) := targetsKeep_of (by simp)
  refine h1.then ((targetsKeep_giveUpClaims _ i t).then (targetsKeep_of ?_))
  simp [failMerge]

theorem targetsKeep_releaseBank (s : State) (pos : Nat) : targetsKeep s (releaseBank s pos) :=
  targetsKeep_of (by simp)

theorem targetsKeep_reportWrite (s : State) (pos i : Nat) : targetsKeep s (reportWrite s pos i) := by
  unfold reportWrite
  split
  · exact targetsKeep_releaseBank s pos
  · split
    · exact targetsKeep_releaseBank s pos
    · exact targetsKeep_completeWrite s pos i _

theorem targetsKeep_completeEmpty (s : State) (pos : Nat) : targetsKeep s (completeEmpty s pos) := by
  unfold completeEmpty
  (repeat' split) <;> first | exact targetsKeep_of rfl | exact targetsKeep_reportWrite s pos _

theorem targetsKeep_afterLastRead (s : State) (pos : Nat) (v : Service) (t : Txn) :
    targetsKeep s (afterLastRead s pos v t) := by
  unfold afterLastRead
  split
  · exact targetsKeep_releaseBank s pos
  · split
    · exact targetsKeep_completeRead s pos _ t _
    · split
      · exact targetsKeep_failMerge s pos _ t
      · exact targetsKeep_of rfl

theorem targetsKeep_resetBlocks (s : State) (x : Link) (cause : Cause) :
    targetsKeep s (resetBlocks s x cause) := by
  have h : ∀ u, targetsKeep u (tenureLinkReset (mgmtLinkReset u x) x) :=
    fun u => targetsKeep_of (by simp)
  have h1 : targetsKeep s (removeLocks (tableLinkReset (modLink (raiseAlert s .linkDown (some x) none
      (some cause) none) x (resetLinkCtl (cause = .restart))) x) fun e => e.holder = x) :=
    targetsKeep_of (by simp)
  exact h1.then ((targetsKeep_discardTarget _ x).then (h _))

theorem targetsKeep_issue {s : State} (pos : Nat) {p : Nat × Txn} (h : choice s pos = some p) :
    targetsKeep s (issueAt s pos p.1 p.2) := by
  have hfit : noticesFit s p.2 = true := by
    have he := (choice_spec (i := p.1) (t := p.2) h).2
    simp only [eligible, Bool.and_eq_true] at he
    exact he.1.2
  have h1 : targetsKeep s (if isWrite p.2 then reserveNotices s p.1 p.2 else s) := by
    split
    · exact targetsKeep_reserveNotices p.1 hfit
    · exact targetsKeep_of rfl
  have h2 : ∀ (ps : List Nat) (n : Nat) (u : State), targetsKeep u (ps.foldl (raiseBypass n) u) :=
    fun ps n => targetsKeep_foldl (fun u i => targetsKeep_of (by simp [raiseBypass])) ps
  have h3 : targetsKeep (issuePassed s pos p.1 p.2) (issueServed s pos p.1 p.2) :=
    targetsKeep_of (by simp [issueServed])
  rw [issueAt_eq]
  have h4 : targetsKeep (issueServed s pos p.1 p.2) { issueServed s pos p.1 p.2 with
      sched := { (issueServed s pos p.1 p.2).sched with lastGranted := pos } } := targetsKeep_of rfl
  exact h1.then ((h2 _ _ _).then (h3.then (h4.then (targetsKeep_completeEmpty _ pos))))

/-! ## Every command -/

theorem targetsKeep_of_cleared {s u : State} (h : u.notices = (clearRecent s).notices) :
    targetsKeep s u := (targetsKeep_clearRecent s).then (targetsKeep_of h)

theorem targetsKeep_passTenure (s : State) (y : Link) : targetsKeep s (passTenure s y) :=
  targetsKeep_of_cleared (passTenure_notices s y)

theorem targetsKeep_makePass (s : State) (x : Link) : targetsKeep s (makePass s x) := by
  unfold makePass
  split
  · exact targetsKeep_of rfl
  · exact targetsKeep_passTenure s _
  · split
    · exact targetsKeep_passTenure s _
    · exact targetsKeep_of rfl

theorem targetsKeep_makeGrant (s : State) : targetsKeep s (makeGrant s) := by
  unfold makeGrant
  split
  · exact targetsKeep_of rfl
  · exact targetsKeep_passTenure s _

theorem targetsKeep_commitSwitch (s : State) : targetsKeep s (commitSwitch s) := by
  refine targetsKeep_of_cleared ?_
  unfold commitSwitch
  rw [(makeHeldRevert_frame _).2.2.2.2.2.1]; rfl

theorem targetsKeep_settleCommit (s : State) : targetsKeep s (settleCommit s) := by
  unfold settleCommit
  dsimp only
  split
  · exact (targetsKeep_commitSwitch s).then (targetsKeep_of (by simp))
  · exact targetsKeep_of rfl

theorem targetsKeep_settlePass (s : State) : targetsKeep s (settlePass s) := by
  unfold settlePass
  split
  · exact targetsKeep_of rfl
  · split
    · exact targetsKeep_of (by simp)
    · exact targetsKeep_makePass s _

theorem targetsKeep_settleGrant (s : State) : targetsKeep s (settleGrant s) := by
  have hf : targetsKeep s { s with free := s.free + 1 } := targetsKeep_of rfl
  have ht : ∀ u, targetsKeep u (tryEpisode u) := fun u => targetsKeep_of (by simp)
  unfold settleGrant
  dsimp only
  split
  · split
    · exact hf.then ((targetsKeep_makeGrant _).then (ht _))
    · exact hf.then (ht _)
  · exact (targetsKeep_makeGrant s).then (ht _)

theorem targetsKeep_settle (s : State) : targetsKeep s (settle s) := by
  have h1 : ∀ u, targetsKeep u (wantDue (clearDue (judgeIdle (waitingToClosing u)))) :=
    fun u => targetsKeep_of (by simp)
  have h2 : ∀ u, targetsKeep u
      (settleSleep (settleVictims (closingToRefreshing (settleQuiesce u)))) :=
    fun u => targetsKeep_of (by simp)
  exact (targetsKeep_settleCommit s).then ((h1 _).then ((targetsKeep_settlePass _).then
    ((targetsKeep_settleGrant _).then (h2 _))))

theorem targetsKeep_emptied {s u : State} (h : u.notices = .both emptyTarget) : targetsKeep s u := by
  intro y
  have hy : targetOf u y = emptyTarget := by unfold targetOf; rw [h]; cases y <;> rfl
  rw [hy]
  exact ⟨fun _ => ⟨Nat.zero_le _, List.nodup_nil⟩, fun _ => queueOk_nil rfl⟩

theorem targetsKeep_ownEffect (c : Instr) (s : State) (hm : mgmtOf c = none) :
    targetsKeep s (ownEffect c s) := by
  cases c
  case issue =>
    simp only [ownEffect, ownIssue]
    split
    · exact targetsKeep_of rfl
    · split
      · exact targetsKeep_of rfl
      · rename_i h; exact targetsKeep_issue _ h
  case activationComplete pos =>
    have ho : targetsKeep s (opened pos s) := targetsKeep_of rfl
    simp only [ownEffect, ownActivation]
    split
    · exact ho.then (targetsKeep_releaseBank _ pos)
    · exact ho.then (targetsKeep_completeEmpty _ pos)
  case writeColumnSent pos =>
    have hst : ∀ v k d, targetsKeep s (stored pos s v k d) := fun v k d => targetsKeep_of (by simp)
    simp only [ownEffect, ownWriteColumn]
    split
    · exact targetsKeep_of rfl
    · split
      · exact (hst _ _ _).then (targetsKeep_reportWrite _ pos _)
      · exact hst _ _ _
  case readColumnDataArrival =>
    have hd : ∀ es r v t, targetsKeep s (dataTaken es s r v t).1 :=
      fun es r v t => targetsKeep_of (by simp)
    simp only [ownEffect, ownData]
    split
    · exact targetsKeep_of rfl
    · split
      · exact (hd _ _ _ _).then (targetsKeep_afterLastRead _ _ _ _)
      · exact hd _ _ _ _
  case noticeAck x _ n =>
    simp only [ownEffect, ownNoticeAck]
    split
    · exact targetsKeep_of (by simp)
    · exact (targetsKeep_dropWaiters s x _ _).then (targetsKeep_removeOrRearm _ x _)
  case noticeTimerExpiry y n =>
    have ha : ∀ (u : State) l k, targetsKeep u (raiseAlert u .noticeTimeout (some y) (some l) none k) :=
      fun u l k => targetsKeep_of (by simp)
    simp only [ownEffect, ownNoticeExpiry]
    split
    · exact targetsKeep_of rfl
    · exact (targetsKeep_dropWaiters s y _ _).then ((targetsKeep_forgetRecent _ y _).then
        ((ha _ _ _).then (targetsKeep_removeOrRearm _ y _)))
  case train x _ _ seen =>
    simp only [ownEffect, ownTrain]; (repeat' split)
    · exact targetsKeep_of (by simp)
    · exact targetsKeep_of (by simp)
    · exact targetsKeep_resetBlocks s x _
  case linkReset x => exact targetsKeep_resetBlocks s x _
  case retryTimerExpiry x =>
    have hp : targetsKeep s (putOnWire s x [.linkReset]) := targetsKeep_of rfl
    simp only [ownEffect, ownRetry]; split
    · exact targetsKeep_of (by simp)
    · exact hp.then (targetsKeep_resetBlocks _ x _)
  case replayTimerExpiry x =>
    have hp : targetsKeep s (putOnWire s x [.linkReset]) := targetsKeep_of rfl
    simp only [ownEffect, ownReplay]; split
    · exact targetsKeep_of (by simp)
    · exact hp.then (targetsKeep_resetBlocks _ x _)
  case commitTimerExpiry => exact targetsKeep_of (by simp [ownEffect])
  case coldReset => exact targetsKeep_emptied rfl
  case resetPoint => exact targetsKeep_emptied rfl
  case mgmtRead | mgmtWrite | writeTenureMode | writeRefreshMode | writeForceLevel | writeCueLink |
      writeFilterEnable | writeCreditLimit | writeAlertLink | writeLease | writeCorrThreshold |
      writeOpenLimit | tableRead | tableWrite | tableRevert | tableCommit | claim | release |
      channelStart | channelQuiesce | channelResume | hubReset => cases hm
  all_goals exact targetsKeep_of (by simp [ownEffect, effectOf])

theorem targetsKeep_change {x : Link} {s u : State} (h : MgmtChange x s u) : targetsKeep s u := by
  cases h
  case writes f v hf hs hv =>
    unfold writeField
    split
    · exact targetsKeep_of (by simp)
    · exact targetsKeep_of (by simp)
    · exact targetsKeep_of (by simp)
    · exact targetsKeep_of (by simp)
    · unfold storeFilterEnable
      dsimp only
      split
      · exact .then (u := storeField s .filterEnable v) (targetsKeep_of rfl) (targetsKeep_clearRecent _)
      · exact targetsKeep_of rfl
    · exact targetsKeep_of rfl
  case switches => exact targetsKeep_commitSwitch s
  case resets v hv =>
    have hv' : v.notices = s.notices := by rcases hv with rfl | rfl <;> simp
    exact targetsKeep_of (by simp [hv'])
  all_goals exact targetsKeep_of (by simp)

/-- A law that the changes of the targets keep is kept by every command. -/
theorem targets_effectOf {I : State → Prop} (hI : ∀ {s u}, targetsKeep s u → I s → I u) (c : Instr)
    (s : State) (hs : I s) : I (effectOf c s) := by
  have hset : ∀ u, I u → I (settle u) := fun u => hI (targetsKeep_settle u)
  cases hm : mgmtOf c with
  | some m =>
    exact mgmt_keeps (x := m.1) (seq := m.2.1) (k := m.2.2) hm hs
      (fun u => hI (targetsKeep_of (by simp))) (fun u => hI (targetsKeep_of (by simp))) hset
      (fun u => hI (targetsKeep_of (by simp))) (fun u _ _ _ => hI (targetsKeep_of (by simp)))
      (fun u hu => by rw [hu.mgmt.2.2]) fun u hu => hI (targetsKeep_change hu) hs
  | none => exact effectOf_keeps hset (hI (targetsKeep_ownEffect c s hm) hs)

theorem targetsKeep_tick (s : State) : targetsKeep s (tick s) := by
  intro y
  have hq : targetOf (tick s) y = tickTarget (targetOf s y) := by cases y <;> rfl
  rw [hq]
  exact ⟨id, queueOk_map (f := fun e => { e with timer := tickTimer e.timer })
    (fun e => ⟨rfl, .inl rfl, id⟩) rfl⟩

end Sys2Proof.Machine
end


section
/-! PROOFS. Every step keeps the bounds: each law on its own, and the laws of the banks together. -/

namespace Sys2Proof.Machine

/-- A law that does not look at the links, the queue of commands, the event or the wire, and that the clock
and every command's effect keep, is kept by every step. -/
theorem step_keeps_blocks {I : State → Prop} {s t : State} (h : step s = .next t) (hs : I s)
    (ht : ∀ u, I u → I (tick u))
    (hI : ∀ {u w : State}, w.table = u.table → w.xlate = u.xlate → w.sched = u.sched →
      w.locks = u.locks → w.notices = u.notices → w.refresh = u.refresh → w.chan = u.chan →
      w.mgmt = u.mgmt → w.settings = u.settings → I u → I w)
    (he : ∀ c u, I u → guardHolds c u → I (effectOf c u)) : I t := by
  refine step_keeps_guarded h hs ht (fun u q => hI rfl rfl rfl rfl rfl rfl rfl rfl rfl)
    (fun u => hI rfl rfl rfl rfl rfl rfl rfl rfl rfl) (fun u x => ?_) (fun u x => ?_) he
  · refine hI ?_ ?_ ?_ ?_ ?_ ?_ ?_ ?_ ?_ <;> simp
  · refine hI ?_ ?_ ?_ ?_ ?_ ?_ ?_ ?_ ?_ <;> simp

/-- The geometry's ranges allow two ranks (09 R155). -/
theorem ranks_le_of_settingsLaw {s : State} (h : settingsLaw s) : s.settings.geometry.ranks ≤ 2 :=
  (h .ranks rfl).2

theorem linkLaw_step {s t : State} (h : step s = .next t) (hs : linkLaw s) : linkLaw t :=
  step_keeps_guarded h hs (fun u => linkLaw_of (modestly_tick u)) (fun _ _ hu => hu) (fun _ hu => hu)
    (fun _ x => linkLaw_accepted x) (fun _ x => linkLaw_enterRetry x)
    fun c u hu hg => linkLaw_effectOf c u hu hg

theorem rowsLaw_step {s t : State} (h : step s = .next t) (hs : rowsLaw s) : rowsLaw t :=
  step_keeps_blocks h hs (fun u => (rowsStand_tick u).rowsLaw)
    (fun _ _ hsched _ _ _ hc _ hset => (rowsStand.of_sched hsched hset (by rw [hc]) (by rw [hc])).rowsLaw)
    fun c u hu hg => rowsLaw_effectOf c u hg hu

/-- Settles O55: each law is kept by each command's own effect and by the consequences of its event; the laws
of the banks are kept together, because ACTIVATE rests on the room its rank has. -/
theorem stepKeepsTheBounds : Obligations.StepKeepsTheBounds := by
  intro s t h
  refine ⟨fun hs => ?_, fun hs => ?_, fun hs => ?_, fun hs => ?_, fun hs => linkLaw_step h hs, fun hs => ?_,
    fun hs => ?_, fun hs => ?_, fun hs => ?_, fun hs => ?_, fun hs => ?_⟩
  · exact step_keeps_blocks h hs (fun _ hu => hu)
      (fun ht _ _ _ _ _ _ _ _ hu => by rw [slotsLaw, ht]; exact hu) fun c u hu _ => slotsLaw_effectOf c u hu
  · exact step_keeps_blocks h hs (fun _ hu => hu)
      (fun _ _ _ _ _ hr _ _ _ hu => by rw [debtLaw, hr]; exact hu) fun c u hu _ => debtLaw_effectOf c u hu
  · exact step_keeps_blocks h hs (fun _ hu => hu)
      (fun _ _ _ _ _ _ _ hm _ hu => by rw [alertLaw, hm]; exact hu) fun c u hu _ => alertLaw_effectOf c u hu
  · exact step_keeps_blocks h hs (fun _ hu => hu)
      (fun _ _ _ _ _ _ _ hm _ hu => by rw [replyLaw, hm]; exact hu) fun c u hu _ => replyLaw_effectOf c u hu
  · exact step_keeps_blocks h hs (fun _ hu => hu)
      (fun _ hx _ _ _ _ _ _ _ => tablesLaw_of_xlate hx) fun c u hu _ => tablesLaw_effectOf c u hu
  · exact step_keeps_blocks h hs (fun u => lockLaw_tick)
      (fun _ _ _ hl _ _ _ _ _ => lockLaw_of hl) fun c u hu _ => lockLaw_effectOf c u hu
  · exact step_keeps_blocks h hs (fun u => (targetsKeep_tick u).recentLaw)
      (fun _ _ _ _ hn _ _ _ _ => (targetsKeep_of hn).recentLaw)
      fun c u hu _ => targets_effectOf targetsKeep.recentLaw c u hu
  · exact step_keeps_blocks h hs (fun u => (targetsKeep_tick u).noticeLaw)
      (fun _ _ _ _ hn _ _ _ _ => (targetsKeep_of hn).noticeLaw)
      fun c u hu _ => targets_effectOf targetsKeep.noticeLaw c u hu
  · exact step_keeps_blocks h hs (fun _ hu => hu)
      (fun _ _ hsched _ _ _ _ _ _ hu => by rw [positionLaw, hsched]; exact hu)
      fun c u hu hg => positionLaw_effectOf c u hg hu
  · obtain ⟨hset, hbank, hopen⟩ := hs
    exact (rowsLaw_step h ⟨ranks_le_of_settingsLaw hset, hbank, hopen⟩).2

end Sys2Proof.Machine
end


section
/-! PROOFS. The cold reset: the values it gives, the laws that hold there, and the first request after it. Then
the arrival of a request (01 R1 to R4). -/

namespace Sys2Proof.Machine

/-! ## Arrival -/

/-- Settles O7: a packet within credit is accepted, and its record is set in the lowest FREE slot. -/
theorem requestTakesLowestFreeSlot : Obligations.RequestTakesLowestFreeSlot := by
  intro c r seq s i hr ha hl hi hfree hlow
  rw [exec_requestOf hr, receive_accepts ha]
  have hslot : freeSlot (accepted s r.link).table.slots = some i := by
    rw [(accepted_frame s r.link).1]
    exact freeSlot_eq_some.mpr ⟨hi, hfree, hlow⟩
  unfold arriveRequest
  rw [if_neg (by rw [currentLimit_accepted, liveOf_congr (accepted_frame s r.link).1]; omega), hslot]
  simp [setSlot, withSlots]

/-- A link that is DOWN or TRAINING accepts no request. -/
theorem receive_untrained {s : State} {x : Link} (seq : Byte) (f : State → State)
    (h : (linkOf s x).state = .down ∨ (linkOf s x).state = .training) : receive s x seq f = s := by
  unfold receive
  rcases h with e | e <;> rw [e]

/-- With every slot FREE the first request within credit takes slot 0. -/
theorem first_request {c : Instr} {r : Txn} {seq : Byte} {v : State} (hr : requestOf c = some (r, seq))
    (ha : accepts v r.link seq) (ht : v.table = emptyTable) (hl : 0 < (linkOf v r.link).currentLimit) :
    ∃ w, exec c v = .next w ∧ slotAt w 0 = some { r with arrival := 0 } ∧
      ∀ i, i ≠ 0 → slotAt w i = none := by
  have hnone : ∀ i, slotAt v i = none := table_empty v ht
  have hlive : liveOf v r.link = [] := by
    refine List.eq_nil_iff_forall_not_mem.mpr fun p hp => ?_
    have := (mem_liveOf.mp hp).1
    rw [hnone] at this; cases this
  have hlen : v.table.slots.length = 48 := by rw [ht]; rfl
  refine ⟨_, requestTakesLowestFreeSlot c r seq v 0 hr ha (by rw [hlive]; exact hl) (by omega) (hnone 0)
    (fun j hj => absurd hj (Nat.not_lt_zero j)), ?_, fun i hi => ?_⟩
  · rw [slotAt_of_set (s := v) rfl, if_pos ⟨rfl, by omega⟩, ht]; rfl
  · rw [slotAt_of_set (s := v) rfl, if_neg fun h => hi h.1, hnone]

/-! ## Cold reset -/

theorem exec_coldReset (s : State) : exec .coldReset s = .next (coldReset s) := rfl

/-- Settles O4: the table is empty after a cold reset and at power-up, so no request arrives before a link
has trained and the first one finds slot 0. -/
theorem coldResetEmptiesTheTable : Obligations.ColdResetEmptiesTheTable := by
  intro s
  refine ⟨coldReset s, exec_coldReset s, fun u hu => ?_⟩
  have ht : u.table = emptyTable := by rcases hu with rfl | rfl <;> rfl
  have hl : u.links = .both coldLink := by rcases hu with rfl | rfl <;> rfl
  have hnone := table_empty u ht
  have hlive : liveSlots u = [] := by
    refine List.eq_nil_iff_forall_not_mem.mpr fun p hp => ?_
    have := mem_liveSlots.mp hp
    rw [hnone] at this; cases this
  refine ⟨hnone, by rw [ht]; rfl, fun x => by rw [ht]; cases x <;> rfl, fun pos => ?_, by rw [ht]; rfl,
    by rw [ht]; rfl, fun x => by rw [linkOf, hl]; cases x <;> rfl, fun c r seq hr v => ⟨fun hst => ?_,
    fun ha hv hlim => first_request hr ha (hv.trans ht) hlim⟩⟩
  · unfold bankQueue; rw [hlive]; rfl
  · rw [exec_requestOf hr, receive_untrained seq _ hst]

/-- Settles O5: the cold reset is `State.reset` but for what goes on, whose values are read off. -/
theorem coldResetGivesTheColdValues : Obligations.ColdResetGivesTheColdValues := by
  intro s
  have htab : ∀ z, z = (coldReset s).xlate.active ∨ z = (coldReset s).xlate.shadow → z = coldTables := by
    rintro z (rfl | rfl) <;> rfl
  refine ⟨coldReset s, exec_coldReset s, rfl, fun x => ?_, fun z hz => ?_, ?_⟩
  · cases x <;> exact ⟨rfl, rfl, rfl, rfl, rfl⟩
  · rw [htab z hz]
    refine ⟨fun w hw => ?_, fun r hr => ?_, rfl, rfl⟩
    · rw [List.eq_of_mem_replicate hw]; rfl
    · rw [List.eq_of_mem_replicate hr]; rfl
  · refine ⟨rfl, rfl, rfl, rfl, rfl, rfl, rfl, fun y => ?_, ?_⟩
    · cases y <;> rfl
    · repeat' constructor

/-! ## The laws at reset -/

theorem settingsLaw_reset : settingsLaw State.reset := by
  intro f hf
  cases f
  case creditLimit x | quantum x | idleLimit x | caching x => cases x <;> decide
  case status => cases hf
  all_goals decide

theorem noTxn_reset {i : Nat} {t : Txn} : slotAt State.reset i ≠ some t := by
  rw [table_empty State.reset rfl]; exact fun h => by cases h

/-- Settles O53: at reset the table, the locks, the queues and the lists are empty and the settings are at
their defaults. -/
theorem resetSatisfiesTheLaws : Obligations.ResetSatisfiesTheLaws := by
  have hrows := rowsLaw_coldReset State.reset
  refine ⟨rfl, Nat.zero_le _, ⟨Nat.zero_le _, Nat.zero_le _⟩, ?_, ?_, ⟨⟨rfl, rfl⟩, rfl, rfl⟩, ?_, ?_, ?_,
    settingsLaw_reset, ?_,
    fun i t h => absurd h noTxn_reset, fun x i t _ h => absurd h noTxn_reset, fun _ => rfl, fun x => ?_,
    fun i j t u h => absurd h noTxn_reset, fun i t h => absurd h noTxn_reset,
    show 15 < 16 by decide, ?_, ?_, ?_⟩
  · intro x; cases x <;> decide
  · intro x; cases x <;> decide
  · exact lockLaw_nil rfl
  · exact fun y => by cases y <;> exact ⟨Nat.zero_le _, List.nodup_nil⟩
  · exact ⟨rfl, rfl⟩
  · unfold creditLaw; decide
  · have : liveOf State.reset x = [] := by
      refine List.eq_nil_iff_forall_not_mem.mpr fun p hp => ?_
      exact noTxn_reset (mem_liveOf.mp hp).1
    rw [this]; exact Nat.zero_le _
  · exact fun y => by cases y <;> exact queueOk_nil rfl
  · exact hrows.2.1
  · exact hrows.2.2

end Sys2Proof.Machine
end


section
/-! PROOFS. The record a request brings, and the credit that bounds requests (01 R1 to R4). -/

namespace Sys2Proof.Machine

/-! ## The record (01 R1, R3, R7) -/

theorem useOf_partial (m : Mask) : useOf (some m) = .partialBlock ↔ m ≠ 0 ∧ m ≠ BitVec.allOnes 32 := by
  unfold useOf
  dsimp only
  split_ifs with h1 h2
  · simp [h1]
  · simp [h2]
  · exact iff_of_true rfl ⟨h1, h2⟩

theorem someMerge_iff (masks : Option (List Mask)) : someMerge masks = true ↔
    ∃ ms, masks = some ms ∧ ∃ m ∈ ms, m ≠ 0 ∧ m ≠ BitVec.allOnes 32 := by
  cases masks with
  | none => simp [someMerge]
  | some ms => simp only [someMerge, List.any_eq_true, decide_eq_true_eq, useOf_partial, Option.some.injEq,
      exists_eq_left']

/-- A request's record holds nothing that is set later, whatever its kind. -/
theorem arrivalFields_requestOf {c : Instr} {r : Txn} {seq : Byte} (h : requestOf c = some (r, seq)) :
    r.state = .intake ∧ r.epoch = none ∧ r.phys = none ∧ r.loc = none ∧ r.transNo = none ∧
    r.statuses = [] ∧ r.lockWait = none ∧ r.pred = none ∧ r.bypass = 0 ∧ r.stale = false ∧
    r.status = none ∧ r.orphan = false ∧
    (r.addr = none ↔ r.kind = .fence) ∧ (r.count = none ↔ r.kind = .fence) ∧
    (r.kind = .lockDrop → r.count = some 1) := by
  cases c <;> simp [requestOf] at h <;> obtain ⟨rfl, rfl⟩ := h <;>
    simp [readRequest, writeRequest, dropRequest, arriving]

/-- Merge needed is judged on the masks of a write. -/
theorem mergeNeeded_requestOf {c : Instr} {r : Txn} {seq : Byte} (h : requestOf c = some (r, seq)) :
    r.mergeNeeded = true ↔ isWrite r = true ∧ someMerge r.masks = true := by
  cases c <;> simp [requestOf] at h <;> obtain ⟨rfl, rfl⟩ := h <;>
    simp [readRequest, writeRequest, dropRequest, arriving, isWrite]

/-- Settles O8: the record each request command brings is read off its row. -/
theorem arrivingRecordHoldsTheArrivalFields : Obligations.ArrivingRecordHoldsTheArrivalFields := by
  refine ⟨fun c r seq h => ?_, fun x seq tag count unused addr unused2 masks data => ?_⟩
  · obtain ⟨h1, h2, h3, h4, h5, h6, h7, h8, h9, h10, h11, h12, h13, h14, h15⟩ := arrivalFields_requestOf h
    exact ⟨h1, h2, h3, h4, h5, h6, h7, h8, h9, h10, h11, h12, h13, h14, h15,
      (mergeNeeded_requestOf h).trans (and_congr_right fun _ => someMerge_iff r.masks)⟩
  · intro brings plain carried
    have hread : ∀ k, plain (readRequest x k tag count unused addr) ∧
        ((readRequest x k tag count unused addr).unusedSet = true ↔ unused ≠ 0) :=
      fun k => ⟨⟨rfl, rfl, rfl⟩, by simp [readRequest]⟩
    have hwrite : ∀ k, carried (writeRequest x k tag count addr masks data) :=
      fun k => ⟨by simp [writeRequest], rfl, rfl⟩
    refine ⟨⟨_, ⟨rfl, rfl, rfl, rfl, rfl, rfl⟩, hread _⟩, ⟨_, ⟨rfl, rfl, rfl, rfl, rfl, rfl⟩, hread _⟩,
      ⟨_, ⟨rfl, rfl, rfl, rfl, rfl, rfl⟩, hwrite _⟩, ⟨_, ⟨rfl, rfl, rfl, rfl, rfl, rfl⟩, hwrite _⟩,
      ⟨_, ⟨rfl, rfl, rfl, rfl, rfl, rfl⟩, ⟨rfl, rfl, rfl⟩, by simp [dropRequest]⟩,
      ⟨_, ⟨rfl, rfl, rfl, rfl, rfl, rfl⟩, ⟨rfl, rfl, rfl⟩, rfl⟩⟩

/-! ## Credit (01 R3, R4) -/

/-- The live slots are shared out between the two links. -/
theorem length_liveSlots (s : State) :
    (liveSlots s).length = (liveOf s .a).length + (liveOf s .b).length := by
  have hb : liveOf s .b = (liveSlots s).filter fun p => !decide (p.2.link = .a) := by
    unfold liveOf
    congr 1
    funext p
    cases p.2.link <;> rfl
  rw [hb]
  exact List.length_eq_length_filter_add (fun p : Nat × Txn => decide (p.2.link = .a))

/-- Where every slot is live there are as many live slots as slots. -/
theorem length_liveSlots_of_full {s : State} (h : ∀ o ∈ s.table.slots, o ≠ none) :
    (liveSlots s).length = s.table.slots.length := by
  have hlen : s.table.slots.zipIdx.length = s.table.slots.length := by simp
  rw [← hlen]
  refine (List.filterMap_length_eq_length ..).mpr fun p hp => ?_
  rw [Option.isSome_map]
  exact Option.isSome_iff_ne_none.mpr (h p.1 (List.fst_mem_of_mem_zipIdx hp))

/-- With room left by the sum of the limits, some slot is FREE. -/
theorem exists_freeSlot {s : State} {x : Link} (hn : slotsLaw s) (hc : creditLaw s) (hl : liveLaw s)
    (hx : (liveOf s x).length < (linkOf s x).currentLimit) : ∃ i, freeSlot s.table.slots = some i := by
  cases hf : freeSlot s.table.slots with
  | some i => exact ⟨i, rfl⟩
  | none =>
    have hfull : ∀ o ∈ s.table.slots, o ≠ none := by
      intro o ho
      have := List.findIdx?_eq_none_iff.mp hf o ho
      rintro rfl; cases this
    have hsum := length_liveSlots s
    rw [length_liveSlots_of_full hfull, show s.table.slots.length = 48 from hn] at hsum
    have hlim := hc.1
    have hA := hl .a
    have hB := hl .b
    cases x <;> omega

/-- The Management Unit after an alert. -/
theorem raiseAlert_eq (s : State) (k : AlertKind) (x : Option Link) (a : Option Nat) (c : Option Cause)
    (v : Option Nat) : raiseAlert s k x a c v = { s with mgmt :=
      if s.mgmt.alerts.length < 16 then
        { s.mgmt with
          alerts := s.mgmt.alerts ++ [⟨k, x, a, c, v, s.mgmt.clock, s.mgmt.dropped, s.event⟩]
          dropped := 0 }
      else { s.mgmt with dropped := min 255 (s.mgmt.dropped + 1) } } := by
  unfold raiseAlert alertRoom; split_ifs <;> rfl

/-- Settles O9: by the sums of the limits a request within credit finds a FREE slot; one beyond it raises the
alert and takes none. -/
theorem requestCreditAndOverrun : Obligations.RequestCreditAndOverrun := by
  refine ⟨fun s x hn hc hl hx => ?_, fun c r seq s hr ha hover => ?_⟩
  · obtain ⟨i, hi⟩ := exists_freeSlot hn hc hl hx
    exact ⟨i, freeSlot_eq_some.mp hi⟩
  · rw [exec_requestOf hr, receive_accepts ha]
    unfold arriveRequest
    rw [if_pos (by rw [currentLimit_accepted, liveOf_congr (accepted_frame s r.link).1]; exact hover)]
    obtain ⟨-, -, -, -, -, -, -, -, -, hm, -, -, he, -, -⟩ := accepted_frame s r.link
    unfold raiseProtocol
    rw [raiseAlert_eq]
    refine congrArg Host.Outcome.next (congrArg (fun m => { accepted s r.link with mgmt := m }) ?_)
    rw [hm, he]

end Sys2Proof.Machine
end


section
/-! PROOFS. The intake step: its checks and what it does with each kind of request (01 R5 to R13; 05 R89, R91,
R93, R95). -/

namespace Sys2Proof.Machine

/-! ## Which step may be taken (01 R5) -/

theorem mem_intakeOrder {s : State} {x : Link} {p : Nat × Txn} : p ∈ intakeOrder s x ↔
    slotAt s p.1 = some p.2 ∧ p.2.link = x ∧ p.2.state = .intake := by
  unfold intakeOrder
  rw [mem_byArrival, List.mem_filter, mem_liveOf]
  simp [and_assoc]

theorem arrivedBefore_self (s : State) (t : Txn) : arrivedBefore s t t = false := by
  simp [arrivedBefore]

theorem fenceWaiting_iff {s : State} {x : Link} : fenceWaiting s x = true ↔
    ∃ i t, slotAt s i = some t ∧ t.link = x ∧ t.state = .fenceWait := by
  unfold fenceWaiting
  rw [List.any_eq_true]
  constructor
  · rintro ⟨p, hp, hst⟩
    obtain ⟨h1, h2⟩ := mem_liveOf.mp hp
    exact ⟨p.1, p.2, h1, h2, by simpa using hst⟩
  · rintro ⟨i, t, h1, h2, h3⟩
    exact ⟨(i, t), mem_liveOf.mpr ⟨h1, h2⟩, by simpa using h3⟩

theorem intakeReady_none_iff {s : State} {x : Link} : intakeReady s x = none ↔
    (s.xlate.commit = .draining ∨ s.chan.warm ≠ none ∨
      ∃ i t, slotAt s i = some t ∧ t.link = x ∧ t.state = .fenceWait) ∨
    ∀ i t, ¬ (slotAt s i = some t ∧ t.link = x ∧ t.state = .intake) := by
  have hwarm : warmReset s = true ↔ s.chan.warm ≠ none := by
    rw [warmReset, Option.isSome_iff_ne_none]
  have hhead : (intakeOrder s x).head? = none ↔
      ∀ i t, ¬ (slotAt s i = some t ∧ t.link = x ∧ t.state = .intake) := by
    rw [List.head?_eq_none_iff, List.eq_nil_iff_forall_not_mem]
    exact ⟨fun h i t ht => h (i, t) (mem_intakeOrder.mpr ht), fun h p hp => h p.1 p.2 (mem_intakeOrder.mp hp)⟩
  have hheld : (fenceWaiting s x || decide (s.xlate.commit = .draining) || warmReset s) = true ↔
      s.xlate.commit = .draining ∨ s.chan.warm ≠ none ∨
        ∃ i t, slotAt s i = some t ∧ t.link = x ∧ t.state = .fenceWait := by
    rw [Bool.or_eq_true, Bool.or_eq_true, fenceWaiting_iff, hwarm, decide_eq_true_eq, or_assoc, or_comm,
      or_assoc]
  unfold intakeReady
  split
  · rename_i h
    exact iff_of_true rfl (.inl (hheld.mp h))
  · rename_i h
    rw [hhead]
    exact ⟨.inr, fun h' => h'.resolve_left fun hh => h (hheld.mpr hh)⟩

/-- The oldest waits longest. -/
theorem intakeReady_oldest {s : State} {x : Link} {i : Nat} {t : Txn}
    (h : intakeReady s x = some (i, t)) {j : Nat} {u : Txn} (hu : slotAt s j = some u)
    (hl : u.link = x) (hst : u.state = .intake) : arrivedBefore s u t = false := by
  have hhead : (intakeOrder s x).head? = some (i, t) := by
    unfold intakeReady at h
    split at h
    · cases h
    · exact h
  have hm : (j, u) ∈ intakeOrder s x := mem_intakeOrder.mpr ⟨hu, hl, hst⟩
  have hs := sorted_byArrival s ((liveOf s x).filter fun p => p.2.state = .intake)
  change (intakeOrder s x).Pairwise _ at hs
  cases ho : intakeOrder s x with
  | nil => rw [ho] at hm; cases hm
  | cons a l =>
    rw [ho] at hhead hm hs
    cases hhead
    rcases List.mem_cons.mp hm with e | hm
    · cases e; exact arrivedBefore_self s _
    · exact (List.pairwise_cons.mp hs).1 _ hm

theorem idles_intakeStep {s : State} {x : Link} (h : intakeReady s x = none) :
    idles (.intakeStep x) s := idles_of rfl (by rw [h]; rfl)

/-! ## Tags (01 R8) -/

section
variable {s : State} {i : Nat} {t : Txn}

/-- Another live slot of the link holds the tag. -/
def sameTag (s : State) (i : Nat) (t : Txn) (j : Nat) (u : Txn) : Prop :=
  slotAt s j = some u ∧ j ≠ i ∧ u.link = t.link ∧ u.tag = t.tag

theorem mem_sameTag {p : Nat × Txn} :
    p ∈ ((liveOf s t.link).filter fun p => p.1 ≠ i && p.2.tag = t.tag) ↔ sameTag s i t p.1 p.2 := by
  rw [List.mem_filter, mem_liveOf]
  simp only [Bool.and_eq_true, decide_eq_true_eq, sameTag]
  tauto

theorem tagTaken_iff : tagTaken s i t = true ↔
    (∃ j u, sameTag s i t j u ∧ u.state ≠ .intake) ∨
      ((∃ j u, sameTag s i t j u) ∧ Config.youngerTagRefuses = true) := by
  unfold tagTaken
  rw [Bool.or_eq_true, List.any_eq_true, Bool.and_eq_true, Bool.not_eq_true', List.isEmpty_eq_false_iff_exists_mem]
  simp only [Prod.exists, mem_sameTag, decide_eq_true_eq]

end

/-! ## Checks (01 R7, R10) -/

theorem malformed_iff (t : Txn) : malformed t = true ↔
    (t.kind ≠ .fence ∧ t.kind ≠ .lockDrop ∧ (t.count.getD 0 < 1 ∨ 8 < t.count.getD 0)) ∨
    ((t.kind = .lockRead ∨ t.kind = .lockWrite) ∧ t.count.getD 0 ≠ 1) ∨
    (isWrite t = true ∧ t.data.length ≠ t.count.getD 0) ∨
    (isWrite t = true ∧ ∃ ms, t.masks = some ms ∧ ms.length ≠ t.count.getD 0) ∨
    ((t.kind = .read ∨ t.kind = .lockRead ∨ t.kind = .lockDrop) ∧ t.unusedSet = true) := by
  rw [← show spanCount t = t.count.getD 0 from rfl]
  unfold malformed
  dsimp only
  generalize spanCount t = n
  cases hk : t.kind with
  | lockDrop | fence => simp [isWrite, hk]
  | read => simp [isWrite, hk]
  | lockRead => simp [isWrite, hk]; grind
  | write =>
    cases t.masks with
    | none => simp [isWrite, hk]
    | some ms => simp [isWrite, hk]; omega
  | lockWrite =>
    cases t.masks with
    | none => simp [isWrite, hk]; omega
    | some ms => simp [isWrite, hk]; omega

theorem misaligned_iff {t : Txn} {a : LinkAddr} (ha : t.addr = some a) (hn : 1 ≤ t.count.getD 0) :
    misaligned t = true ↔ a.toNat % 32 ≠ 0 ∨
      a.toNat / 256 ≠ (a.toNat + 32 * t.count.getD 0 - 1) / 256 := by
  rw [← show spanCount t = t.count.getD 0 from rfl] at *
  unfold misaligned
  rw [ha]
  simp only [Bool.or_eq_true, decide_eq_true_eq]
  generalize spanCount t = n at hn
  omega

/-- The request is answered with a status at its intake step. -/
theorem answers_refused {s : State} {x : Link} {i : Nat} {t : Txn} {st : MemStatus}
    (h : intakeReady s x = some (i, t)) (hu : intakeStep (beginEvent s) i t = enterReply (beginEvent s) i st) :
    answers (.intakeStep x) s { beginEvent s with table := repliedTable s i t st } :=
  answers_intakeStep h (hu.trans (enterReply_beginEvent st (intakeReady_spec h).1))

/-- Settles O10: the checks in their order, the two conditions spelled out, and which step may be taken. -/
theorem intakeStepRefusals : Obligations.IntakeStepRefusals := by
  refine ⟨fun s x i t h => ?_, fun t => ⟨malformed_iff t, fun a => misaligned_iff⟩,
    fun s x i t st h hp he => answers_intakeStep h ((intakeStep_consults hp).trans
      (consult_error he (intakeReady_spec h).1)),
    fun s x => ⟨intakeReady_none_iff, fun i t h => ?_, idles_intakeStep⟩, fun s i t => ?_⟩
  · have htag : tagTaken (beginEvent s) i t = tagTaken s i t := rfl
    have hchan : (beginEvent s).chan = s.chan := rfl
    refine ⟨fun hm => ?_, fun hm hj => ?_, fun hm hn hf hc => ?_, fun hm hn hf hc ha => ?_⟩
    · exact answers_refused h (by simp [intakeStep, hm])
    · obtain ⟨j, u, h1, h2, h3, h4, h5⟩ := hj
      have ht : tagTaken s i t = true := tagTaken_iff.mpr (.inl ⟨j, u, ⟨h1, h2, h3, h4⟩, h5⟩)
      exact answers_refused h (by simp [intakeStep, hm, htag, ht])
    · exact answers_refused h (by simp [intakeStep, hm, htag, hn, hf, hc])
    · exact answers_refused h (by simp [intakeStep, hm, htag, hn, hf, hc, ha])
  · obtain ⟨h1, h2, h3, -⟩ := intakeReady_spec h
    exact ⟨⟨h1, h2, h3⟩, fun j u ⟨g1, g2, g3⟩ => intakeReady_oldest h g1 g2 g3⟩
  · intro same
    refine ⟨fun hno => ?_, fun ⟨j, u, h, hst⟩ => tagTaken_iff.mpr (.inl ⟨j, u, h, hst⟩),
      fun ⟨j, u, h⟩ hall => ?_⟩
    · rw [Bool.eq_false_iff, ne_eq, tagTaken_iff]
      rintro (⟨j, u, h, -⟩ | ⟨⟨j, u, h⟩, -⟩) <;> exact hno j u h
    · rw [Bool.eq_iff_iff, tagTaken_iff]
      refine ⟨?_, fun hc => .inr ⟨⟨j, u, h⟩, hc⟩⟩
      rintro (⟨k, v, hv, hst⟩ | ⟨-, hc⟩)
      · exact absurd (hall k v hv) hst
      · exact hc

/-! ## Fences (01 R11, R20) -/

theorem fenceCondition_iff {s : State} {t : Txn} :
    fenceCondition s t = true ↔ ∀ p ∈ liveOf s t.link, arrivedBefore s p.2 t = false := by
  simp [fenceCondition]

/-- The one FENCE of a link in FENCE-WAIT goes on exactly if its condition holds. -/
theorem settleFence_eq {s : State} {i : Nat} {t : Txn} (h : slotAt s i = some t)
    (hst : t.state = .fenceWait)
    (hone : ∀ j u, slotAt s j = some u → u.link = t.link → u.state = .fenceWait → j = i) :
    settleFence s t.link = if fenceCondition s t then enterReply s i .ok else s := by
  have hm : (i, t) ∈ liveOf s t.link := mem_liveOf.mpr ⟨h, rfl⟩
  unfold settleFence
  split
  · rename_i hf
    rw [if_neg]
    intro hc
    have := List.find?_eq_none.mp hf (i, t) hm
    simp [hst, hc] at this
  · rename_i p hf
    have hp := mem_liveOf.mp (List.mem_of_find?_eq_some hf)
    have hc := List.find?_some hf
    simp only [Bool.and_eq_true, decide_eq_true_eq] at hc
    have hpi : p.1 = i := hone p.1 p.2 hp.1 hp.2 hc.1
    have hpt : p.2 = t := by
      have := hp.1
      rw [hpi, h] at this
      exact (Option.some.inj this).symm
    rw [hpi, if_pos (hpt ▸ hc.2)]

/-- A FENCE that has just entered FENCE-WAIT: its condition is that of its record before. -/
theorem placeFence_eq {s : State} {x : Link} {i : Nat} {t : Txn} (h : intakeReady s x = some (i, t)) :
    placeFence (beginEvent s) i t =
      if ∀ p ∈ liveOf s x, arrivedBefore s p.2 t = false
      then { beginEvent s with table := repliedTable s i t .ok }
      else { beginEvent s with table := { s.table with
        slots := s.table.slots.set i (some { t with state := .fenceWait }) } } := by
  obtain ⟨hs, rfl, -, hno, -⟩ := intakeReady_spec h
  let w := setSlot (beginEvent s) i (some { t with state := .fenceWait })
  have hb : slotAt (beginEvent s) i = some t := hs
  have hw : slotAt w i = some { t with state := .fenceWait } := slotAt_setSlot_self hb _
  have hother : ∀ j ≠ i, slotAt w j = slotAt s j := fun j hj => slotAt_setSlot_ne _ hj _
  have hone : ∀ j u, slotAt w j = some u → u.link = t.link → u.state = .fenceWait → j = i := by
    intro j u hu hl hst
    by_contra hj
    rw [hother j hj] at hu
    exact Bool.eq_false_iff.mp hno (fenceWaiting_iff.mpr ⟨j, u, hu, hl, hst⟩)
  have hcond : fenceCondition w { t with state := .fenceWait } = true ↔
      ∀ p ∈ liveOf s t.link, arrivedBefore s p.2 t = false := by
    rw [fenceCondition_iff]
    constructor
    · intro hall p hp
      obtain ⟨h1, h2⟩ := mem_liveOf.mp hp
      by_cases hpi : p.1 = i
      · rw [hpi, hs] at h1
        cases h1; exact arrivedBefore_self s _
      · exact hall p (mem_liveOf.mpr ⟨(hother _ hpi).trans h1, h2⟩)
    · intro hall p hp
      obtain ⟨h1, h2⟩ := mem_liveOf.mp hp
      by_cases hpi : p.1 = i
      · rw [hpi, hw] at h1
        rw [← Option.some.inj h1]; exact arrivedBefore_self w _
      · exact hall p (mem_liveOf.mpr ⟨(hother _ hpi).symm.trans h1, h2⟩)
  show settleFence w t.link = _
  rw [show t.link = ({ t with state := .fenceWait } : Txn).link from rfl, settleFence_eq hw rfl hone]
  by_cases hc : ∀ p ∈ liveOf s t.link, arrivedBefore s p.2 t = false
  · rw [if_pos (hcond.mpr hc), if_pos hc]
    exact enterReply_setSlot .ok hs
  · rw [if_neg (fun h => hc (hcond.mp h)), if_neg hc]; rfl

theorem intakeStep_fence {s : State} {i : Nat} {t : Txn} (hk : t.kind = .fence)
    (ht : tagTaken s i t = false) : intakeStep (beginEvent s) i t = placeFence (beginEvent s) i t := by
  have hm : malformed t = false := by simp [malformed, hk]
  have ht' : tagTaken (beginEvent s) i t = false := ht
  simp [intakeStep, hm, ht', hk]

/-! ## Requests that pass the checks -/

/-- A request the Translation Unit passes is placed by its kind. -/
theorem answers_placed {s u : State} {x : Link} {i : Nat} {t : Txn} {p : Nat}
    (h : intakeReady s x = some (i, t)) (hp : passesTable s i t)
    (htr : Machine.translate s { t with epoch := some s.xlate.epoch } = .ok p)
    (hu : placeRequest (setSlot (beginEvent s) i (some (located s t p))) i (located s t p) p = u) :
    answers (.intakeStep x) s u :=
  answers_intakeStep h ((intakeStep_consults hp).trans ((consult_ok htr).trans hu))

/-- Settles O11: a READ or WRITE is blocked or takes its ordering point; a FENCE waits or goes on. -/
theorem intakeStepQueuesRequests : Obligations.IntakeStepQueuesRequests := by
  refine ⟨fun s x i t p h hp hk htr => ?_, fun s x i t h hk ht => ⟨fun hold => ?_, fun hold => ?_⟩⟩
  · have hs : slotAt (beginEvent s) i = some t := (intakeReady_spec h).1
    have hplace : ∀ w, placeRequest w i (located s t p) p = placeAccess w i (located s t p) := by
      intro w
      unfold placeRequest
      rcases hk with e | e <;> simp [located, e]
    have hb : blockingEntry (setSlot (beginEvent s) i (some (located s t p))) (located s t p) =
      blockingEntry s (located s t p) := rfl
    refine ⟨fun b hblock => answers_placed h hp htr ?_, fun hblock => answers_placed h hp htr ?_⟩
    · rw [hplace, placeAccess, hb, hblock]
      exact queueBlocked_eq hs
    · rw [hplace, placeAccess, hb, hblock]
      exact queueFree_eq hs
  · refine answers_intakeStep h ((intakeStep_fence hk ht).trans ((placeFence_eq h).trans (if_neg ?_)))
    obtain ⟨q, hq, ha⟩ := hold
    exact fun hall => absurd (hall q hq) (by rw [ha]; decide)
  · exact answers_intakeStep h ((intakeStep_fence hk ht).trans ((placeFence_eq h).trans (if_pos hold)))

/-! ## Lock requests (05 R89, R93, R95) -/

/-- Settles O12: each lock request is placed by the entries in use. -/
theorem intakeStepTakesLockRequests : Obligations.IntakeStepTakesLockRequests := by
  have heldIff : ∀ (s : State) (i : Nat) (r : Option Txn) (x : Link) (p : Nat),
      heldBy (setSlot (beginEvent s) i r) x p = true ↔
        ∃ e ∈ s.locks, e.block = p ∧ e.holder = x ∧ e.state = .held := fun s i r x p => heldBy_iff
  have heldNone : ∀ {s : State} {i : Nat} {r : Option Txn} {x : Link} {p : Nat},
      (∀ e ∈ s.locks, e.block = p → e.holder = x → e.state ≠ .held) →
      heldBy (setSlot (beginEvent s) i r) x p = false := by
    intro s i r x p h
    rw [Bool.eq_false_iff, ne_eq, heldIff]
    rintro ⟨e, he, h1, h2, h3⟩
    exact h e he h1 h2 h3
  refine ⟨fun s x i t p h hp hk htr => ?_, fun s x i t p h hp hk htr => ?_, fun s x i t p h hp hk htr => ?_⟩
  all_goals obtain ⟨hs, rfl, -⟩ := intakeReady_spec h
  · have hplace : ∀ w, placeRequest w i (located s t p) p = placeLockRead w t.link i p := fun w => by
      simp [placeRequest, located, hk]
    have hof : ∀ w : State, w.locks = s.locks → (locksOf w t.link).length = (locksOf s t.link).length ∧
        lockOn w p = lockOn s p := fun w hw => by simp [locksOf, lockOn, hw]
    obtain ⟨h1, h2⟩ := hof (setSlot (beginEvent s) i (some (located s t p))) rfl
    refine ⟨fun href => answers_placed h hp htr ?_, fun hfew e he hne => answers_placed h hp htr ?_,
      fun hfew hnone => answers_placed h hp htr ?_⟩
    · rw [hplace, placeLockRead, h1, h2]
      by_cases htwo : 2 ≤ (locksOf s t.link).length
      · rw [if_pos htwo]; exact enterReply_setSlot _ hs
      · obtain ⟨e, he, hx⟩ := href.resolve_left htwo
        rw [if_neg htwo, he]
        dsimp only
        rw [if_pos hx]; exact enterReply_setSlot _ hs
    · rw [hplace, placeLockRead, h1, h2, if_neg (not_le.mpr hfew), he]
      dsimp only
      rw [if_neg hne]; exact queueBlocked_eq (s := beginEvent s) hs
    · rw [hplace, placeLockRead, h1, h2, if_neg (not_le.mpr hfew), hnone]
      exact queueFree_eq (s := takeLock (beginEvent s) i t.link p) hs
  · have hplace : ∀ w, placeRequest w i (located s t p) p = placeLockWrite w t.link i p := fun w => by
      simp [placeRequest, located, hk]
    refine ⟨fun hheld => answers_placed h hp htr ?_, fun hno => answers_placed h hp htr ?_⟩
    · rw [hplace, placeLockWrite, if_pos ((heldIff s i _ _ _).mpr hheld)]
      exact queueFree_eq (s := modLock (beginEvent s) p fun e => { e with
        state := .writing, owner := some i, timer := .stopped }) hs
    · rw [hplace, placeLockWrite, heldNone hno]
      exact enterReply_setSlot _ hs
  · have hplace : ∀ w, placeRequest w i (located s t p) p = placeLockDrop w t.link i p := fun w => by
      simp [placeRequest, located, hk]
    refine ⟨fun hheld => answers_placed h hp htr ?_, fun hno => answers_placed h hp htr ?_⟩
    · rw [hplace, placeLockDrop, if_pos ((heldIff s i _ _ _).mpr hheld)]
    · rw [hplace, placeLockDrop, heldNone hno]
      exact enterReply_setSlot _ hs

end Sys2Proof.Machine
end


section
/-! PROOFS. Predecessors (01 R2, R14, R15) and the handing of responses (01 R20, R21). -/

namespace Sys2Proof.Machine

/-! ## Predecessors -/

theorem predCandidate_iff {s : State} {i : Nat} {t : Txn} {j : Nat} {u : Txn} :
    predCandidate s i t j u = true ↔ j ≠ i ∧ onChannelPath u = true ∧ conflict t u = true ∧
      ∃ n, u.transNo = some n ∧ ∀ m, t.transNo = some m → earlierTrans s n m = true := by
  unfold predCandidate
  cases u.transNo with
  | none => simp
  | some n => cases t.transNo <;> simp [and_assoc]

/-- How long ago a slot's translation number was drawn. -/
def transAge (s : State) (c : Nat × Txn) : Nat := age s.table.transCounter (c.2.transNo.getD 0)

/-- Of two numbered candidates the one whose number was drawn later is kept. -/
theorem laterTrans_some {s : State} {b c : Nat × Txn} (hb : b.2.transNo ≠ none)
    (hc : c.2.transNo ≠ none) :
    laterTrans s (some b) c = if transAge s c < transAge s b then some c else some b := by
  obtain ⟨n, hn⟩ := Option.ne_none_iff_exists'.mp hb
  obtain ⟨m, hm⟩ := Option.ne_none_iff_exists'.mp hc
  simp [laterTrans, transAge, earlierTrans, hn, hm]

/-- The candidate kept at the end was drawn last. -/
theorem foldl_laterTrans {s : State} : ∀ (l : List (Nat × Txn)) (b : Nat × Txn),
    (∀ c ∈ b :: l, c.2.transNo ≠ none) →
    ∃ r ∈ b :: l, l.foldl (laterTrans s) (some b) = some r ∧ ∀ c ∈ b :: l, transAge s r ≤ transAge s c
  | [], b, _ => ⟨b, List.mem_singleton_self b, rfl, by simp⟩
  | c :: l, b, h => by
    rw [List.foldl_cons, laterTrans_some (h b (by simp)) (h c (by simp))]
    split
    · rename_i hlt
      obtain ⟨r, hr, he, hmin⟩ := foldl_laterTrans l c fun d hd => h d (List.mem_cons_of_mem _ hd)
      refine ⟨r, List.mem_cons_of_mem _ hr, he, fun d hd => ?_⟩
      rcases List.mem_cons.mp hd with rfl | hd
      · exact (hmin c (by simp)).trans hlt.le
      · exact hmin d hd
    · rename_i hge
      obtain ⟨r, hr, he, hmin⟩ := foldl_laterTrans l b fun d hd => h d (by
        rcases List.mem_cons.mp hd with rfl | hd <;> simp [*])
      refine ⟨r, by rcases List.mem_cons.mp hr with rfl | hr <;> simp [*], he, fun d hd => ?_⟩
      rcases List.mem_cons.mp hd with rfl | hd
      · exact hmin d (by simp)
      · rcases List.mem_cons.mp hd with rfl | hd
        · exact (hmin b (by simp)).trans (not_lt.mp hge)
        · exact hmin d (List.mem_cons_of_mem _ hd)

/-- The candidates of slot `i`. -/
def candidates (s : State) (i : Nat) (t : Txn) : List (Nat × Txn) :=
  (liveSlots s).filter fun p => predCandidate s i t p.1 p.2

theorem mem_candidates {s : State} {i : Nat} {t : Txn} {c : Nat × Txn} :
    c ∈ candidates s i t ↔ slotAt s c.1 = some c.2 ∧ predCandidate s i t c.1 c.2 = true := by
  rw [candidates, List.mem_filter, mem_liveSlots]

theorem numbered_of_candidate {s : State} {i : Nat} {t : Txn} {c : Nat × Txn}
    (h : c ∈ candidates s i t) : c.2.transNo ≠ none := by
  obtain ⟨-, -, -, n, hn, -⟩ := predCandidate_iff.mp (mem_candidates.mp h).2
  rw [hn]; exact Option.some_ne_none n

/-- The predecessor chosen is the candidate drawn last; with no candidate there is none. -/
theorem choosePred_spec (s : State) (i : Nat) (t : Txn) :
    (candidates s i t = [] ∧ choosePred s i t = none) ∨
    ∃ r ∈ candidates s i t, choosePred s i t = some r.1 ∧
      ∀ c ∈ candidates s i t, transAge s r ≤ transAge s c := by
  have hnum : ∀ c ∈ candidates s i t, c.2.transNo ≠ none := fun c => numbered_of_candidate
  have he : choosePred s i t = ((candidates s i t).foldl (laterTrans s) none).map fun p => p.1 := rfl
  rw [he]
  cases hl : candidates s i t with
  | nil => exact .inl ⟨rfl, rfl⟩
  | cons b l =>
    rw [hl] at hnum
    obtain ⟨r, hr, hf, hmin⟩ := foldl_laterTrans (s := s) l b hnum
    exact .inr ⟨r, hr, by rw [List.foldl_cons]; exact congrArg (Option.map _) hf, hmin⟩

theorem earlierTrans_false {s : State} {b c : Nat × Txn} {n k : BitVec 32} (hb : b.2.transNo = some n)
    (hc : c.2.transNo = some k) (h : transAge s b ≤ transAge s c) : earlierTrans s n k = false := by
  simp only [transAge, hb, hc, Option.getD_some] at h
  simp [earlierTrans, h]

/-! ## Spans -/

theorem mem_spanBlocks {t : Txn} {b : Nat} :
    b ∈ spanBlocks t ↔ ∃ p, t.phys = some p ∧ ∃ m < t.count.getD 0, p + 32 * m = b := by
  unfold spanBlocks spanCount
  cases t.phys <;> simp

theorem conflict_iff (t u : Txn) : conflict t u = true ↔
    (t.kind = .write ∨ t.kind = .lockWrite ∨ u.kind = .write ∨ u.kind = .lockWrite) ∧
      ∃ p q, t.phys = some p ∧ u.phys = some q ∧
        ∃ m < t.count.getD 0, ∃ n < u.count.getD 0, p + 32 * m = q + 32 * n := by
  have hov : overlap t u = true ↔ ∃ p q, t.phys = some p ∧ u.phys = some q ∧
      ∃ m < t.count.getD 0, ∃ n < u.count.getD 0, p + 32 * m = q + 32 * n := by
    unfold overlap
    simp only [List.any_eq_true, List.contains_iff_mem, mem_spanBlocks]
    constructor
    · rintro ⟨b, ⟨p, hp, m, hm, rfl⟩, q, hq, n, hn, e⟩
      exact ⟨p, q, hp, hq, m, hm, n, hn, e.symm⟩
    · rintro ⟨p, q, hp, hq, m, hm, n, hn, e⟩
      exact ⟨_, ⟨p, hp, m, hm, rfl⟩, q, hq, n, hn, e.symm⟩
  unfold conflict
  rw [Bool.and_eq_true, hov, and_comm]
  simp [isWrite, or_assoc]

/-- Settles O13: the predecessor is the candidate whose number was drawn last, and the tests are spelled
out. -/
theorem predecessorIsLatestConflicting : Obligations.PredecessorIsLatestConflicting := by
  refine ⟨fun s i t => ⟨fun p hp => ?_, fun hnone q v k hq hne hpath hconf hk => ?_⟩,
    fun t u => ⟨by simp [onChannelPath, or_assoc], conflict_iff t u⟩, fun s t u m n => ?_⟩
  · rcases choosePred_spec s i t with ⟨-, h⟩ | ⟨r, hr, h, hmin⟩
    · rw [h] at hp; cases hp
    · rw [h] at hp
      cases hp
      obtain ⟨hs, hc⟩ := mem_candidates.mp hr
      obtain ⟨hne, hpath, hconf, n, hn, hlt⟩ := predCandidate_iff.mp hc
      refine ⟨r.2, n, hs, hne, hpath, hconf, hn, hlt, fun q v k hq hqi hvp hvc hvk hvm => ?_⟩
      have hm : (q, v) ∈ candidates s i t :=
        mem_candidates.mpr ⟨hq, predCandidate_iff.mpr ⟨hqi, hvp, hvc, k, hvk, hvm⟩⟩
      exact earlierTrans_false (c := (q, v)) hn hvk (hmin _ hm)
  · rcases choosePred_spec s i t with ⟨hnil, -⟩ | ⟨r, -, h, -⟩
    · have hm : (q, v) ∉ candidates s i t := by rw [hnil]; exact List.not_mem_nil
      by_contra hall
      push Not at hall
      exact hm (mem_candidates.mpr ⟨hq, predCandidate_iff.mpr ⟨hne, hpath, hconf, k, hk, fun m hm' => by
        simpa using hall m hm'⟩⟩)
    · rw [h] at hnone; cases hnone
  · intro since
    exact ⟨by simp [arrivedBefore, age, since], by simp [earlierTrans, age, since]⟩

/-! ## Responses -/

theorem sent_eq (l : LinkCtl) (p : HubPacket) : { l with
    nextSend := l.nextSend + 1
    replay := l.replay ++ [(l.nextSend, p)]
    replayTimer := if l.replay.isEmpty then loaded (usUnits 16) else l.replayTimer } = sent l p := by
  unfold sent
  cases l.replay <;> rfl

/-- What a sequenced packet sent as the first thing of an event leaves on the wire and in the link. -/
theorem sendSequenced_beginEvent (s : State) (x : Link) (p : HubPacket) :
    sendSequenced (beginEvent s) x p = { beginEvent s with
      wire := (PerLink.both []).set x [.sequenced (linkOf s x).nextSend p]
      links := s.links.set x (sent (linkOf s x) p) } := by
  have hw : ((PerLink.both []).get x : List WirePacket) = [] := by cases x <;> rfl
  rw [← sent_eq]
  unfold sendSequenced putOnWire modLink
  simp only [beginEvent, linkOf, hw, List.nil_append]
  rfl

/-- A request credit owed to a link from the event that begins. -/
theorem owe_request (n : Nat) (l : LinkCtl) : owe n 1 0 l = { l with
    owedRequests := l.owedRequests + 1
    owedSince := if l.owedRequests = 0 ∧ l.owedMgmt = 0 then n else l.owedSince } := by
  simp [owe]

theorem handResponse_eq {s : State} {x : Link} {i : Nat} {rest : List Nat} {t : Txn}
    (hq : s.table.responses.get x = i :: rest) (h : slotAt s i = some t) :
    handResponse x (beginEvent s) = settleFence { beginEvent s with
      wire := (PerLink.both []).set x [.sequenced (linkOf s x).nextSend (responseOf t)]
      table := { s.table with
        slots := s.table.slots.set i none, responses := s.table.responses.set x rest }
      links := s.links.set x (owe (s.event + 1) 1 0 (sent (linkOf s x) (responseOf t))) } x := by
  have hq' : (beginEvent s).table.responses.get x = i :: rest := hq
  have h' : slotAt (beginEvent s) i = some t := h
  unfold handResponse
  rw [hq']
  dsimp only
  rw [h']
  dsimp only
  rw [sendSequenced_beginEvent]
  congr 1
  unfold modLink freeTxn setSlot withSlots
  simp only [PerLink.get_set, PerLink.set_set]
  rfl

theorem responseOf_eq {t : Txn} {st : MemStatus} (h : t.status = some st) :
    responseOf t = match t.kind with
      | .read | .lockRead => .readData t.tag st (t.statuses.zip t.data)
      | .write | .lockWrite => .writeDone t.tag st
      | .lockDrop => .lockDone t.tag st
      | .fence => .fenceDone t.tag st := by
  unfold responseOf
  rw [h]
  cases t.kind <;> rfl

/-- Settles O14: the handing of a response, its contents, and the FENCE that waited for it. -/
theorem responsesAreHanded : Obligations.ResponsesAreHanded := by
  refine ⟨fun s x i rest t hm hq hs => ?_, fun t st => responseOf_eq, fun s x i t hs hx hst hlaw => ?_,
    fun s x h => idles_of rfl h⟩
  · have hlink : owe (s.event + 1) 1 0 (sent (linkOf s x) (responseOf t)) = { linkOf s x with
        nextSend := (linkOf s x).nextSend + 1
        replay := (linkOf s x).replay ++ [((linkOf s x).nextSend, responseOf t)]
        replayTimer := if (linkOf s x).replay = [] then .running 64 else (linkOf s x).replayTimer
        owedRequests := (linkOf s x).owedRequests + 1
        owedSince := if (linkOf s x).owedRequests = 0 ∧ (linkOf s x).owedMgmt = 0 then s.event + 1
          else (linkOf s x).owedSince } := owe_request _ _
    rw [← hlink]
    exact happens_of hm (handResponse_eq hq hs)
  · subst hx
    have he : settleFence s t.link = if fenceCondition s t then enterReply s i .ok else s :=
      settleFence_eq hs hst fun j u hu hl hst' => hlaw j i u t hu hs hst' hst hl
    refine ⟨fun hall => he.trans (if_pos (fenceCondition_iff.mpr hall)), fun ⟨p, hp, ha⟩ =>
      he.trans (if_neg fun hc => ?_)⟩
    rw [fenceCondition_iff.mp hc p hp] at ha
    cases ha

end Sys2Proof.Machine
end


section
/-! PROOFS. The reset point (09 R163, R164). -/

namespace Sys2Proof.Machine

theorem warmToInit_iff (s : State) :
    warmToInit s = true ↔ s.chan.state = .init ∨ s.chan.state = .starting := by
  simp [warmToInit]

/-- The entry of HUB-RESET stands undecided in the reply list of a link. -/
theorem resetEntryOf_iff (s : State) (x : Link) : resetEntryOf s x = true ↔
    s.mgmt.longOp = some (.hubReset, x) ∧
      ∃ e ∈ s.mgmt.replies.get x, e.kind = .hubReset ∧ e.status = none := by
  simp [resetEntryOf]

theorem warmWorkDone_iff (s : State) : warmWorkDone s = true ↔ ∃ sent, s.chan.warm = some sent ∧
    (s.chan.state = .init ∨ s.chan.state = .starting ∨ s.chan.state = .quiesced ∨
      ∀ r < s.settings.geometry.ranks, r ∈ sent) := by
  have hall : ∀ sent : List Nat, ((installedRanks s).all fun r => sent.contains r) = true ↔
      ∀ r < s.settings.geometry.ranks, r ∈ sent := by
    intro sent; simp [installedRanks]
  have hidle : (!(channelServes s || decide (s.chan.state = .resuming))) = true ↔
      s.chan.state = .init ∨ s.chan.state = .starting ∨ s.chan.state = .quiesced := by
    unfold channelServes
    cases s.chan.state <;> simp
  unfold warmWorkDone
  cases s.chan.warm with
  | none => simp
  | some sent =>
    dsimp only
    rw [Bool.or_eq_true, hidle, hall]
    simp [or_assoc]

/-! ## The links and the replies at the reset point -/

theorem linkOf_takeResetPoint (s : State) (x : Link) : linkOf (takeResetPoint s) x = warmLink s x := by
  cases x <;> rfl

theorem replies_takeResetPoint (s : State) (x : Link) :
    (takeResetPoint s).mgmt.replies.get x = warmReplies s x := by
  cases x <;> rfl

theorem warmLink_in_service {s : State} {x : Link} (h : inService s x = true) : warmLink s x =
    { linkOf s x with
      notices := [], restartDue := true, resetReplyDue := resetEntryOf s x
      owedRequests := (linkOf s x).owedRequests + (liveOf s x).length
      owedMgmt := (linkOf s x).owedMgmt + discardedReplies s x
      owedSince := if (linkOf s x).owedRequests = 0 ∧ (linkOf s x).owedMgmt = 0 then s.event
        else (linkOf s x).owedSince } := by
  unfold warmLink owe
  rw [if_pos h]
  simp

theorem warmLink_out_of_service {s : State} {x : Link} (h : inService s x = false) :
    warmLink s x = { linkOf s x with notices := [] } := by
  unfold warmLink
  rw [if_neg (by rw [h]; decide)]

/-- Settles O46: the values of the reset point are read off, link by link and block by block, and the
condition of the event is spelled out. -/
theorem resetPointIsTaken : Obligations.ResetPointIsTaken := by
  refine ⟨fun s h => ⟨takeResetPoint (beginEvent s), happens_of h rfl, ?_⟩, fun s =>
    ⟨by rw [warmReset, Option.isSome_iff_ne_none], warmWorkDone_iff s, fun h => idles_of rfl h⟩⟩
  intro init
  have hinit : warmToInit (beginEvent s) = true ↔ init := warmToInit_iff s
  have hstate : (takeResetPoint (beginEvent s)).chan.state =
    if warmToInit (beginEvent s) then .init else .quiesced := rfl
  have hbanks : (takeResetPoint (beginEvent s)).sched.banks =
    if warmToInit (beginEvent s) then [] else s.sched.banks.map fun _ => freshBank := rfl
  refine ⟨fun i => table_empty _ rfl i, fun x => by cases x <;> rfl, rfl, rfl, rfl,
    fun hi => by rw [hbanks, if_pos (hinit.mpr hi)], fun hi => by rw [hbanks, if_neg (mt hinit.mp hi)]; rfl,
    rfl, rfl, rfl, fun y => by cases y <;> rfl, rfl, fun hi => by rw [hstate, if_pos (hinit.mpr hi)],
    fun hi => by rw [hstate, if_neg (mt hinit.mp hi)], ?_, rfl, rfl, rfl, rfl, rfl, rfl, rfl, rfl, rfl,
    fun x => ?_⟩
  · have hclock : (decide ((takeResetPoint (beginEvent s)).chan.state ≠ .init)) =
        !warmToInit (beginEvent s) := by
      rw [hstate]
      cases warmToInit (beginEvent s) <;> rfl
    rw [hclock]; rfl
  · intro own
    have hown : resetEntryOf (beginEvent s) x = true ↔ own := resetEntryOf_iff s x
    have hd : discardedReplies (beginEvent s) x =
      (s.mgmt.replies.get x).length - (if resetEntryOf (beginEvent s) x then 1 else 0) := rfl
    refine ⟨fun ho => ?_, fun ho => ?_, fun hs => ?_, fun hs => ?_⟩
    · rw [replies_takeResetPoint, warmReplies, if_pos (hown.mpr ho)]; rfl
    · rw [replies_takeResetPoint, warmReplies, if_neg (mt hown.mp ho)]
    · rw [linkOf_takeResetPoint]
      exact warmLink_out_of_service (s := beginEvent s) hs
    · rw [linkOf_takeResetPoint, warmLink_in_service (s := beginEvent s) hs]
      refine ⟨rfl, hown, rfl, fun ho => ?_, fun ho => ?_, rfl⟩
      · dsimp only; rw [hd, if_pos (hown.mpr ho)]; rfl
      · dsimp only; rw [hd, if_neg (mt hown.mp ho)]; rfl

end Sys2Proof.Machine
end


section
/-! PROOFS. What a merge writes and what a stored block leaves in the DRAM (08 R138, R140, R143). -/

namespace Sys2Proof.Machine

/-! ## Merged blocks -/

theorem getLsbD_maskBits (m : Mask) {i : Nat} (hi : i < 256) :
    (maskBits m).getLsbD i = m.getLsbD (i / 8) := by
  have hk : i / 8 < 32 := by omega
  have hb : ∀ n < 8, (0xFF#8).getLsbD n = true := by decide
  unfold maskBits
  rw [bits_blockOfBytes _ (by simp) i hi, List.getD_eq_getElem?_getD]
  simp only [List.getElem?_map, List.getElem?_range hk, Option.map_some, Option.getD_some]
  cases m.getLsbD (i / 8)
  · simp
  · exact hb _ (Nat.mod_lt _ (by decide))

/-- A merged block takes the new bytes where the mask selects and the old ones where it does not. -/
theorem getLsbD_mergeBlock (m : Mask) (old new : Block) {i : Nat} (hi : i < 256) :
    (mergeBlock m old new).getLsbD i =
      if m.getLsbD (i / 8) then new.getLsbD i else old.getLsbD i := by
  unfold mergeBlock
  simp only [BitVec.getLsbD_or, BitVec.getLsbD_and, BitVec.getLsbD_not, getLsbD_maskBits m hi, hi,
    decide_true, Bool.true_and]
  cases m.getLsbD (i / 8) <;> simp

theorem eq_mergeBlock_iff {m : Mask} {old new data : Block} : data = mergeBlock m old new ↔
    ∀ i < 256, data.getLsbD i = if m.getLsbD (i / 8) then new.getLsbD i else old.getLsbD i := by
  constructor
  · rintro rfl i hi; exact getLsbD_mergeBlock m old new hi
  · exact fun h => BitVec.eq_of_getLsbD_eq fun i hi => (h i hi).trans (getLsbD_mergeBlock m old new hi).symm

theorem mem_mergeWrites {t : Txn} {got : List (Nat × BlockStatus × Block)} {k : Nat} {data : Block} :
    (k, data) ∈ mergeWrites t got ↔ k < t.count.getD 0 ∧
      ((blockUse t k = .full ∧ data = t.data.getD k 0) ∨
        (blockUse t k = .partialBlock ∧ ∃ g, (got.find? fun g => g.1 = k) = some g ∧
          data = mergeBlock ((maskAt t k).getD 0) g.2.2 (t.data.getD k 0))) := by
  unfold mergeWrites
  rw [List.mem_filterMap]
  constructor
  · rintro ⟨i, hi, h⟩
    have hi' : i < t.count.getD 0 := List.mem_range.mp hi
    split at h
    · cases h
    · rename_i hu; cases h; exact ⟨hi', .inl ⟨hu, rfl⟩⟩
    · rename_i hu
      obtain ⟨g, hg, e⟩ := Option.map_eq_some_iff.mp h
      cases e; exact ⟨hi', .inr ⟨hu, g, hg, rfl⟩⟩
  · rintro ⟨hk, ⟨hu, rfl⟩ | ⟨hu, g, hg, rfl⟩⟩
    · exact ⟨k, List.mem_range.mpr hk, by rw [hu]⟩
    · exact ⟨k, List.mem_range.mpr hk, by rw [hu]; dsimp only; rw [hg]; rfl⟩

/-! ## Masks -/

theorem maskAt_of {t : Txn} {ms : List Mask} {m : Mask} {k : Nat} (h : t.masks = some ms)
    (hk : ms[k]? = some m) : maskAt t k = some m := by
  simp [maskAt, h, hk]

theorem useOf_untouched (m : Mask) : useOf (some m) = .untouched ↔ m = 0 := by
  unfold useOf
  dsimp only
  split_ifs with h1 h2
  · exact iff_of_true rfl h1
  · exact iff_of_false (by simp) h1
  · exact iff_of_false (by simp) h1

theorem useOf_full (m : Mask) : useOf (some m) = .full ↔ ∀ i < 32, m.getLsbD i = true := by
  have hall : m = BitVec.allOnes 32 ↔ ∀ i < 32, m.getLsbD i = true := by
    constructor
    · rintro rfl i hi; rw [BitVec.getLsbD_allOnes]; simpa using hi
    · exact fun h => BitVec.eq_of_getLsbD_eq fun i hi => by rw [h i hi, BitVec.getLsbD_allOnes]; simpa using hi
  rw [← hall]
  unfold useOf
  dsimp only
  split_ifs with h1 h2
  · subst h1; exact iff_of_false (by simp) (by decide)
  · exact iff_of_true rfl h2
  · exact iff_of_false (by simp) h2

/-! ## Stored blocks -/

theorem readBlock_writeBlock (d : Dram) (base : Nat) (data : Block) :
    readBlock (writeBlock d base data) base = data := by
  have h : ((List.range 32).map fun k => readCell (writeBlock d base data) (base + k)) =
      blockBytes data := by
    refine List.map_congr_left fun k hk => ?_
    rw [readCell_writeBlock, if_pos ⟨by omega, by simpa using List.mem_range.mp hk⟩,
      Nat.add_sub_cancel_left]
  unfold readBlock
  rw [h, blockOf_blockBytes]

/-- Settles O26: the writes of a merge bit by bit, the cells and words of a stored block, and the masks. -/
theorem mergedAndStoredBlocks : Obligations.MergedAndStoredBlocks := by
  refine ⟨fun t got k data => ?_, fun d base data he => ⟨fun k hk => ?_, fun c hc => ?_,
    readBlock_writeBlock d base data, fun k hk => ?_, fun w hw => ?_, by simp only [writeBlock]⟩,
    fun t k => ⟨fun h => ?_, fun ms m h hk => ?_⟩, fun l k => by simp [blockCell, cellOf]⟩
  · simp only [mem_mergeWrites, eq_mergeBlock_iff]
  · rw [readCell_writeBlock, if_pos ⟨by omega, by omega⟩, Nat.add_sub_cancel_left]
  · rw [readCell_writeBlock, if_neg (by omega)]
  · rw [errorOf_writeBlock d base data _ he, if_pos ⟨by omega, by omega⟩]
  · rw [errorOf_writeBlock d base data _ he, if_neg (by omega)]
  · have hm : maskAt t k = none := by simp [maskAt, h]
    exact ⟨hm, by rw [blockUse, hm]; rfl⟩
  · have hm := maskAt_of h hk
    rw [blockUse, hm]
    exact ⟨rfl, useOf_untouched m, useOf_full m⟩

end Sys2Proof.Machine
end


section
/-! PROOFS. The arrival of read data (08 R138 to R145; 01 R21). -/

namespace Sys2Proof.Machine

/-! ## Errors that are found -/

theorem errorOf_damage_above {d : Dram} {base : Nat} {es : List ErrMask} {w : Nat}
    (he : Errors.wf d.errors = true) (hes : es.length = 4) (hw : base / 8 + 4 ≤ w) :
    errorOf (damage d base es) w = errorOf d w := by
  obtain ⟨j, rfl⟩ := Nat.exists_eq_add_of_le (show base / 8 ≤ w by omega)
  rw [errorOf_damage base es j d he, List.getD_eq_getElem?_getD, List.getElem?_eq_none (by omega)]
  simp

/-! ## The words of a checked block -/

theorem blockClasses_getElem? (d : Dram) (base : Nat) {k : Nat} (hk : k < 4) :
    (blockClasses d base)[k]? =
      some (classOfWord (blockWord (readBlock d base) k) (errorOf d (base / 8 + k))) := by
  unfold blockClasses blockWords blockErrors
  rw [List.getElem?_zipWith]
  simp [List.getElem?_range hk]

/-- The word passed on for a word of a block, by the status of the block. -/
theorem blockWord_blockPassedOn (d : Dram) (base : Nat) {k : Nat} (hk : k < 4) :
    blockWord (blockPassedOn d base) k =
      (if blockStatusOf (blockClasses d base) = .poison then asRead else passedOn)
        (blockWord (readBlock d base) k) (errorOf d (base / 8 + k)) := by
  unfold blockPassedOn
  generalize (if blockStatusOf (blockClasses d base) = .poison then asRead else passedOn) = f
  have hw : List.zipWith f (blockWords (readBlock d base)) (blockErrors d base) =
      [f (blockWord (readBlock d base) 0) (errorOf d (base / 8 + 0)),
        f (blockWord (readBlock d base) 1) (errorOf d (base / 8 + 1)),
        f (blockWord (readBlock d base) 2) (errorOf d (base / 8 + 2)),
        f (blockWord (readBlock d base) 3) (errorOf d (base / 8 + 3))] := rfl
  rw [hw]
  obtain ⟨h0, h1, h2, h3⟩ := blockWord_blockOfWords
    (f (blockWord (readBlock d base) 0) (errorOf d (base / 8 + 0)))
    (f (blockWord (readBlock d base) 1) (errorOf d (base / 8 + 1)))
    (f (blockWord (readBlock d base) 2) (errorOf d (base / 8 + 2)))
    (f (blockWord (readBlock d base) 3) (errorOf d (base / 8 + 3)))
  unfold joinWords
  dsimp only
  interval_cases k
  · exact h0
  · exact h1
  · exact h2
  · exact h3

theorem blockStatusOf_poison (classes : List WordClass) :
    blockStatusOf classes = .poison ↔ .uncorrectable ∈ classes := by
  unfold blockStatusOf
  simp only [List.contains_iff_mem]
  split_ifs with h1 h2
  · exact iff_of_true rfl h1
  · exact iff_of_false (by simp) h1
  · exact iff_of_false (by simp) h1

theorem getLsbD_asRead (w : Word64) (e : ErrMask) {i : Nat} (hi : i < 64) :
    (asRead w e).getLsbD i = (w.getLsbD i ^^ e.getLsbD i) := by
  simp [asRead, dataErrors, hi]

/-! ## The arrival -/

section
variable {s : State} {r : ReadDue} {rest : List ReadDue} {b : Bank} {v : Service} {t : Txn} {l : Location}

theorem dataDue_eq (hr : s.chan.readsDue = r :: rest) (hb : bankAt s r.pos = some b)
    (hv : b.serving = some v) (ht : slotAt s v.slot = some t) :
    dataDue (beginEvent s) = some (r, v, t) := by
  have hb' : bankAt (beginEvent s) r.pos = some b := hb
  have ht' : slotAt (beginEvent s) v.slot = some t := ht
  unfold dataDue
  rw [show (beginEvent s).chan.readsDue = r :: rest from hr]
  dsimp only
  rw [hb', Option.bind_some, hv, Option.bind_some, ht']
  rfl

/-- The state once the data of a block are checked, with the service they leave. -/
def checkedState (s : State) (es : List ErrMask) (r : ReadDue) (rest : List ReadDue) (t : Txn)
    (l : Location) (w : Service) : State :=
  let base := blockCell l r.index
  let d := damage s.dram base es
  let checked := takeWords t.link (t.phys.getD 0 + 32 * r.index)
    (if isRead t then .read else .merge) { beginEvent s with dram := d } false (blockClasses d base)
  { checked with
    chan := { checked.chan with readsDue := rest }
    sched := { s.sched with banks := s.sched.banks.modify r.pos fun b =>
      { b with serving := some w } } }

theorem dataTaken_eq (es : List ErrMask) (hr : s.chan.readsDue = r :: rest)
    (ht : slotAt s v.slot = some t) (hl : t.loc = some l) :
    let d := damage s.dram (blockCell l r.index) es
    let v' : Service := { v with
      due := v.due - 1
      got := v.got ++ [(r.index, blockStatusOf (blockClasses d (blockCell l r.index)),
        blockPassedOn d (blockCell l r.index))] }
    dataTaken es (beginEvent s) r v t = (checkedState s es r rest t l v', v') := by
  intro d v'
  have hbase : cellOfBlock (beginEvent s) v.slot r.index = blockCell l r.index := by
    have ht' : slotAt (beginEvent s) v.slot = some t := ht
    simp [cellOfBlock, ht', hl]
  unfold dataTaken
  rw [hbase]
  let u := takeWords t.link (t.phys.getD 0 + 32 * r.index) (readCause t) { beginEvent s with dram := d }
    false (blockClasses d (blockCell l r.index))
  have hsched : u.sched = s.sched := by simp [u]
  have hdue : u.chan.readsDue.drop 1 = rest := by
    rw [show u.chan.readsDue = s.chan.readsDue by simp [u], hr]; rfl
  refine Prod.ext ?_ rfl
  show modBank { u with chan := { u.chan with readsDue := u.chan.readsDue.drop 1 } } r.pos _ =
    { u with chan := { u.chan with readsDue := rest }, sched := { s.sched with banks := _ } }
  unfold modBank
  rw [hdue]
  dsimp only
  rw [hsched]
  rfl

theorem warmReset_checkedState (s : State) (es : List ErrMask) (r : ReadDue) (rest : List ReadDue)
    (t : Txn) (l : Location) (w : Service) :
    warmReset (checkedState s es r rest t l w) = warmReset s := by
  simp [checkedState, warmReset]

theorem answers_arrival (e0 e1 e2 e3 : ErrMask) (hr : s.chan.readsDue = r :: rest)
    (hb : bankAt s r.pos = some b) (hv : b.serving = some v) (ht : slotAt s v.slot = some t)
    {w : State} {v' : Service}
    (hd : dataTaken [e0, e1, e2, e3] (beginEvent s) r v t = (w, v')) :
    answers (.readColumnDataArrival e0 e1 e2 e3) s
      (if v'.due = 0 && v'.toRead.isEmpty then afterLastRead w r.pos v' t else w) := by
  have hdue := dataDue_eq hr hb hv ht
  have hdue' : (dataDue s).isSome = true := by
    rw [show dataDue s = dataDue (beginEvent s) from rfl, hdue]; rfl
  refine answers_of rfl hdue' ?_
  unfold arriveData
  rw [hdue]
  show settle (if (dataTaken [e0, e1, e2, e3] (beginEvent s) r v t).2.due = 0 &&
    (dataTaken [e0, e1, e2, e3] (beginEvent s) r v t).2.toRead.isEmpty then
      afterLastRead (dataTaken [e0, e1, e2, e3] (beginEvent s) r v t).1 r.pos
        (dataTaken [e0, e1, e2, e3] (beginEvent s) r v t).2 t
    else (dataTaken [e0, e1, e2, e3] (beginEvent s) r v t).1) = _
  rw [hd]

end

/-- Settles O24: the data of the oldest READ-COLUMN are taken, and what follows is judged by the service they
leave; the errors found and the words passed on are given word by word. -/
theorem readDataArrive : Obligations.ReadDataArrive := by
  refine ⟨fun s e0 e1 e2 e3 r rest b v t l hr hb hv ht hl => ?_, fun d base es he hes => ?_,
    fun s e0 e1 e2 e3 hr => idles_of rfl (by rw [dataDue, hr]; rfl), fun s pos => rfl⟩
  · intro base d checked got u v' c
    have hd := dataTaken_eq (s := s) (r := r) (v := v) [e0, e1, e2, e3] hr ht hl
    have ha := answers_arrival e0 e1 e2 e3 hr hb hv ht hd
    have hwarm : warmReset (u v') = warmReset s := warmReset_checkedState s [e0, e1, e2, e3] r rest t l v'
    change answers c s (if v'.due = 0 && v'.toRead.isEmpty then afterLastRead (u v') r.pos v' t else u v') at ha
    refine ⟨fun hmore => ?_, fun hdue hread => ?_⟩
    · rwa [if_neg (by
        rw [Bool.and_eq_true, decide_eq_true_eq, List.isEmpty_iff]
        exact fun h => hmore.elim (fun h' => h' h.1) fun h' => h' h.2)] at ha
    · rw [if_pos (by
        rw [Bool.and_eq_true, decide_eq_true_eq, List.isEmpty_iff]
        exact ⟨hdue, hread⟩)] at ha
      unfold afterLastRead at ha
      rw [hwarm] at ha
      refine ⟨fun hw => ?_, fun hw hi => ?_, fun hw hi hp => ?_, fun hw hi hp => ?_⟩
      · rwa [if_pos hw] at ha
      · rwa [if_neg (by rw [hw]; decide), if_pos hi] at ha
      · obtain ⟨g, hg, hgp⟩ := hp
        rwa [if_neg (by rw [hw]; decide), if_neg (by rw [hi]; decide),
          if_pos (List.any_eq_true.mpr ⟨g, hg, by simpa using hgp⟩)] at ha
      · rw [if_neg (by rw [hw]; decide), if_neg (by rw [hi]; decide), if_neg (by
          rw [List.any_eq_true]
          rintro ⟨g, hg, hgp⟩
          exact hp g hg (by simpa using hgp))] at ha
        have hmod : modBank (u v') r.pos (fun b => { b with
            serving := some { v' with toWrite := mergeWrites t got } }) = { u v' with
              sched := { s.sched with banks := s.sched.banks.modify r.pos fun b =>
                { b with serving := some { v' with toWrite := mergeWrites t got } } } } := by
          unfold modBank
          simp only [u, List.modify_modify_eq]
          rfl
        rwa [← hmod]
  · refine ⟨rfl, rfl, fun k hk e hke => ?_, fun w hw => ?_, fun k hk => ?_⟩
    · rw [errorOf_damage base es k d he, List.getD_eq_getElem?_getD, hke]; rfl
    · rcases hw with hw | hw
      · exact errorOf_damage_below base es w hw d he
      · exact errorOf_damage_above he hes hw
    · intro word found
      refine ⟨blockClasses_getElem? d base hk, fun hp i hi => ?_, fun hp => ?_⟩
      · rw [blockWord_blockPassedOn d base hk, if_pos ((blockStatusOf_poison _).mpr hp)]
        exact getLsbD_asRead _ _ hi
      · rw [blockWord_blockPassedOn d base hk, if_neg (mt (blockStatusOf_poison _).mp hp)]

end Sys2Proof.Machine
end


section
/-! PROOFS. Completed reads, performed writes and failed merges (01 R17, R18, R24; 05 R90, R94; 06 R106 to
R109). -/

namespace Sys2Proof.Machine

/-! ## Lines -/

theorem mem_distinct {x : Nat} : ∀ {l : List Nat}, x ∈ distinct l ↔ x ∈ l
  | [] => by simp [distinct]
  | y :: l => by
    unfold distinct
    rw [List.mem_cons, List.mem_cons, List.mem_filter, mem_distinct]
    by_cases h : x = y <;> simp [h]

theorem mem_linesTouched {t : Txn} {l : Nat} : l ∈ linesTouched t ↔
    ∃ p, t.phys = some p ∧ ∃ k < t.count.getD 0, l = (p + 32 * k) / 64 * 64 := by
  unfold linesTouched
  rw [mem_distinct, List.mem_map]
  constructor
  · rintro ⟨b, hb, rfl⟩
    obtain ⟨p, hp, k, hk, rfl⟩ := mem_spanBlocks.mp hb
    exact ⟨p, hp, k, hk, rfl⟩
  · rintro ⟨p, hp, k, hk, rfl⟩
    exact ⟨_, mem_spanBlocks.mpr ⟨p, hp, k, hk, rfl⟩, rfl⟩

/-! ## A slot decided after other changes -/

/-- A slot whose record was changed and is decided: the table is that of the deciding alone. -/
theorem finish_changed {s w : State} {i : Nat} {t' : Txn} (st : MemStatus) (hi : slotAt w i = some t')
    (ht : w.table = { s.table with slots := s.table.slots.set i (some t') }) (he : w.event = s.event) :
    finish w i st = { w with table := decidedTable s i t' st } := by
  rw [finish_eq st hi, decidedTable_set s w i t' st _ ht he]

theorem table_modSlot {s w : State} {i : Nat} {t : Txn} (f : Txn → Txn) (h : slotAt s i = some t)
    (hw : w.table = s.table) :
    (modSlot w i f).table = { s.table with slots := s.table.slots.set i (some (f t)) } := by
  rw [modSlot_eq f ((slotAt_congr hw i).trans h)]
  simp [setSlot, withSlots, hw]

theorem slotAt_modSlot_self {s : State} {i : Nat} {t : Txn} (f : Txn → Txn) (h : slotAt s i = some t) :
    slotAt (modSlot s i f) i = some (f t) := by
  rw [slotAt_modSlot, if_pos rfl, h]; rfl

/-! ## Reads -/

/-- A read that completes, up to its lock entry. -/
def readDecided (s : State) (pos i : Nat) (t : Txn) (got : List (Nat × BlockStatus × Block)) : State :=
  { unserved s pos with
    table := decidedTable s i { t with
      data := got.map fun g => g.2.2, statuses := got.map fun g => g.2.1 }
      (readOutcome (got.map fun g => g.2.1))
    notices := s.notices.set t.link { targetOf s t.link with
      recent := (targetOf s t.link).recent.filter fun l => l ∉ linesTouched t } }

theorem completeRead_eq {s : State} {pos i : Nat} {t : Txn} (got : List (Nat × BlockStatus × Block))
    (h : slotAt s i = some t) : completeRead s pos i t got =
      closeService (settleLockRead (readDecided s pos i t got) i
        (readOutcome (got.map fun g => g.2.1))) pos i := by
  let f : Txn → Txn := fun t => { t with
    data := got.map fun g => g.2.2, statuses := got.map fun g => g.2.1 }
  let w := forgetRecent (modSlot (stopServing s pos) i f) t.link (linesTouched t)
  have hw : slotAt w i = some (f t) := slotAt_modSlot_self (s := stopServing s pos) f h
  have ht : w.table = { s.table with slots := s.table.slots.set i (some (f t)) } :=
    table_modSlot (w := stopServing s pos) f h rfl
  have hnot : w.notices = s.notices.set t.link { targetOf s t.link with
      recent := (targetOf s t.link).recent.filter fun l => l ∉ linesTouched t } := by
    have hf : (fun l => !(linesTouched t).contains l) = fun l => decide (l ∉ linesTouched t) := by
      funext l; simp
    rw [← hf]
    rfl
  have hfin : finish w i (readOutcome (got.map fun g => g.2.1)) = readDecided s pos i t got := by
    rw [finish_changed (s := s) _ hw ht rfl]
    unfold readDecided
    rw [← hnot]
    rfl
  show closeService (settleLockRead (finish w i _) i _) pos i = _
  rw [hfin]

/-- Settles O27: the state a read leaves, with its lock entry settled, and the lines of a span. -/
theorem readsComplete : Obligations.ReadsComplete := by
  refine ⟨fun s pos i t got h => ?_, fun t l => mem_linesTouched⟩
  intro st u
  have hst : readOutcome (got.map fun g => g.2.1) = st := readOutcome_eq got
  have hu : readDecided s pos i t got = u := by unfold readDecided; rw [hst]
  rw [completeRead_eq got h, hst, hu]
  refine ⟨fun hn => ?_, fun e ho => ⟨fun hok => ?_, fun hp => ?_⟩⟩
  · unfold settleLockRead
    rw [ownedLock_none (s := u) hn]
    exact closeService_ends u pos i
  · unfold settleLockRead
    rw [ownedLock_some (s := u) ho, hok]
    exact closeService_ends _ pos i
  · unfold settleLockRead
    rw [ownedLock_some (s := u) ho, hp]
    exact closeService_ends _ pos i

/-! ## Writes -/

/-- A LOCK-WRITE's entry is removed, and the service ends. -/
theorem write_ends {s u : State} (pos i : Nat) (hl : u.locks = s.locks) :
    (ownsNone s i .writing → serviceEnds u (closeService (settleLockWrite u i) pos i) pos i) ∧
    ∀ e, ownsEntry s i .writing e →
      serviceEnds (removeLock u e.block) (closeService (settleLockWrite u i) pos i) pos i := by
  refine ⟨fun hn => ?_, fun e ho => ?_⟩
  · have hn' : ownsNone u i .writing := by unfold ownsNone; rw [hl]; exact hn
    unfold settleLockWrite
    rw [ownedLock_none hn']
    exact closeService_ends u pos i
  · have ho' : ownsEntry u i .writing e := by unfold ownsEntry; rw [hl]; exact ho
    unfold settleLockWrite
    rw [ownedLock_some ho']
    exact closeService_ends _ pos i

theorem waitsLeft_iff {s : State} {y : Link} {i : Nat} :
    waitsLeft s y i = true ↔ ∃ e ∈ (targetOf s y).queue, i ∈ e.waiters := by
  simp [waitsLeft]

/-- A performed write leaves the channel for NOTIFY or is decided. -/
theorem leaveChannel_eq {s u : State} {y : Link} {i : Nat} {t : Txn} (h : slotAt s i = some t)
    (ht : u.table = s.table) (he : u.event = s.event) : leaveChannel u y i =
      if waitsLeft u y i then { u with table := { s.table with
        slots := s.table.slots.set i (some { t with state := .notify, stale := false }) } }
      else { u with table := decidedTable s i t .ok } := by
  have hu : slotAt u i = some t := (slotAt_congr ht i).trans h
  unfold leaveChannel
  split
  · rw [modSlot_eq _ hu]
    unfold setSlot withSlots
    rw [ht]
  · rw [finish_eq .ok hu]
    unfold decidedTable
    rw [ht, he]

theorem failMerge_eq {s : State} {pos i : Nat} {t : Txn} (h : slotAt s i = some t) :
    failMerge s pos i t = closeService (settleLockWrite { unserved s pos with
      table := decidedTable s i { t with data := [], masks := none } .poison
      notices := s.notices.set (otherLink t.link) { targetOf s (otherLink t.link) with
        queue := ((targetOf s (otherLink t.link)).queue.map fun e =>
          { e with claimants := e.claimants.filter fun j => j ≠ i }).filter fun e =>
            ¬ (e.state = .reserved ∧ e.claimants = []) } } i) pos i := by
  let f : Txn → Txn := fun t => { t with data := [], masks := none }
  let w := modSlot (giveUpClaims (stopServing s pos) i t) i f
  have hg : (giveUpClaims (stopServing s pos) i t).table = s.table := rfl
  have hw : slotAt w i = some (f t) := slotAt_modSlot_self f ((slotAt_congr hg i).trans h)
  have ht : w.table = { s.table with slots := s.table.slots.set i (some (f t)) } := table_modSlot f h hg
  have hf : (fun e : NoticeEntry => !(e.state = .reserved && e.claimants.isEmpty)) =
      fun e => decide ¬ (e.state = .reserved ∧ e.claimants = []) := by
    funext e
    rw [Bool.eq_iff_iff]
    simp
  have hfin : finish w i .poison = { unserved s pos with
      table := decidedTable s i (f t) .poison
      notices := s.notices.set (otherLink t.link) { targetOf s (otherLink t.link) with
        queue := ((targetOf s (otherLink t.link)).queue.map fun e =>
          { e with claimants := e.claimants.filter fun j => j ≠ i }).filter fun e =>
            ¬ (e.state = .reserved ∧ e.claimants = []) } } := by
    rw [finish_changed (s := s) _ hw ht rfl, ← hf]
    rfl
  show closeService (settleLockWrite (finish w i .poison) i) pos i = _
  rw [hfin]

/-- Settles O28: the notices of a performed write, then its slot, its lock entry and the end of its service;
a failed merge gives up its claims instead. -/
theorem writesArePerformed : Obligations.WritesArePerformed := by
  intro s pos i t h y ends u
  have hu : u = performNotices (stopServing s pos) i t := rfl
  have hl : u.locks = s.locks := by rw [hu]; simp
  have ht : u.table = s.table := by rw [hu]; simp
  have he : u.event = s.event := by rw [hu]; simp
  have hc : completeWrite s pos i t = closeService (settleLockWrite (leaveChannel u y i) i) pos i := rfl
  rw [hc, leaveChannel_eq h ht he, failMerge_eq h]
  refine ⟨fun hw => ?_, fun hw => ?_, write_ends pos i rfl⟩
  · rw [if_pos (waitsLeft_iff.mpr hw)]
    exact write_ends pos i hl
  · rw [if_neg (by rw [waitsLeft_iff]; push Not; exact hw)]
    exact write_ends pos i hl

end Sys2Proof.Machine
end


section
/-! PROOFS. The choice of a bank, the room rule and the issue arbiter (03 R48 to R56). -/

namespace Sys2Proof.Machine

/-! ## Bank queues (01 R12) -/

theorem mem_bankQueue {s : State} {pos : Nat} {p : Nat × Txn} : p ∈ bankQueue s pos ↔
    slotAt s p.1 = some p.2 ∧ p.2.state = .queued ∧ posOf s p.2 = some pos := by
  unfold bankQueue
  rw [mem_byArrival, List.mem_filter, mem_liveSlots]
  simp

theorem queued_of_eligible {s : State} {t : Txn} (h : eligible s t = true) : t.state = .queued := by
  simp only [eligible, Bool.and_eq_true, decide_eq_true_eq] at h
  exact h.1.1.1.1.1

/-- The eligible transactions of a bank's queue, oldest first. -/
def eligibleQueue (s : State) (pos : Nat) : List (Nat × Txn) :=
  (bankQueue s pos).filter fun p => eligible s p.2

theorem mem_eligibleQueue {s : State} {pos : Nat} {p : Nat × Txn} : p ∈ eligibleQueue s pos ↔
    slotAt s p.1 = some p.2 ∧ posOf s p.2 = some pos ∧ eligible s p.2 = true := by
  rw [eligibleQueue, List.mem_filter, mem_bankQueue]
  exact ⟨fun ⟨⟨h1, _, h3⟩, h4⟩ => ⟨h1, h3, h4⟩, fun ⟨h1, h3, h4⟩ => ⟨⟨h1, queued_of_eligible h4, h3⟩, h4⟩⟩

theorem sorted_eligibleQueue (s : State) (pos : Nat) : (eligibleQueue s pos).Pairwise (notAfter s) :=
  (sorted_byArrival s _).filter _

/-- The first that passes a test in a sorted list is before every other that passes it. -/
theorem find?_least {α : Type} {R : α → α → Prop} {P : α → Bool} {a : α} {l : List α}
    (hr : ∀ a, R a a) (hs : l.Pairwise R) (h : l.find? P = some a) : ∀ c ∈ l, P c = true → R a c := by
  obtain ⟨-, as, bs, rfl, has⟩ := List.find?_eq_some_iff_append.mp h
  intro c hc hP
  rcases List.mem_append.mp hc with hc | hc
  · simpa [hP] using has c hc
  · rcases List.mem_cons.mp hc with rfl | hc
    · exact hr _
    · exact (List.pairwise_cons.mp (List.pairwise_append.mp hs).2.1).1 c hc

theorem head?_least {α : Type} {R : α → α → Prop} {a : α} {l : List α} (hr : ∀ a, R a a)
    (hs : l.Pairwise R) (h : l.head? = some a) : ∀ c ∈ l, R a c := by
  obtain ⟨l', rfl⟩ := List.head?_eq_some_iff.mp h
  intro c hc
  rcases List.mem_cons.mp hc with rfl | hc
  · exact hr _
  · exact (List.pairwise_cons.mp hs).1 c hc

/-! ## The choice (03 R55) -/

theorem bankReady_iff (b : Bank) : bankReady b = true ↔
    (b.state = .closed ∨ b.state = .openRow) ∧ b.serving = none ∧ b.closePending = false := by
  simp [bankReady, and_assoc]

/-- The transaction hits the row that its bank keeps open. -/
def hitsOpen (s : State) (b : Bank) (t : Txn) : Prop :=
  b.state = .openRow ∧ behaviourOf s b = .keep ∧ rowOf t = b.row

/-- What a choice is: the oldest urgent one, or else the oldest hit, or else the oldest. -/
inductive Chosen (s : State) (b : Bank) (q : List (Nat × Txn)) (p : Nat × Txn) : Prop
  | urgent (hp : p ∈ q) (hu : urgent s p.2 = true)
      (hold : ∀ c ∈ q, Machine.urgent s c.2 = true → arrivedBefore s c.2 p.2 = false) : Chosen s b q p
  | hit (hp : p ∈ q) (hu : ∀ c ∈ q, Machine.urgent s c.2 = false) (hh : hitsOpen s b p.2)
      (hold : ∀ c ∈ q, hitsOpen s b c.2 → arrivedBefore s c.2 p.2 = false) : Chosen s b q p
  | oldest (hp : p ∈ q) (hu : ∀ c ∈ q, Machine.urgent s c.2 = false) (hh : ∀ c ∈ q, ¬ hitsOpen s b c.2)
      (hold : ∀ c ∈ q, arrivedBefore s c.2 p.2 = false) : Chosen s b q p

theorem choice_chosen {s : State} {pos : Nat} {b : Bank} {p : Nat × Txn} (hb : bankAt s pos = some b)
    (h : choice s pos = some p) : bankReady b = true ∧ Chosen s b (eligibleQueue s pos) p := by
  unfold choice at h
  rw [hb] at h
  dsimp only at h
  change (if bankReady b = true then
    match (eligibleQueue s pos).find? fun p => Machine.urgent s p.2 with
    | some p => some p
    | none =>
      match if b.state = .openRow && behaviourOf s b = .keep then
          (eligibleQueue s pos).find? fun p => rowOf p.2 = b.row else none with
      | some p => some p
      | none => (eligibleQueue s pos).head?
    else none) = some p at h
  have hs := sorted_eligibleQueue s pos
  have hr₀ : ∀ a, notAfter s a a := fun a => arrivedBefore_self s a.2
  split at h
  · rename_i hr
    refine ⟨hr, ?_⟩
    split at h
    · rename_i hf
      cases h
      exact .urgent (List.mem_of_find?_eq_some hf) (by simpa using List.find?_some hf) (find?_least hr₀ hs hf)
    · rename_i hf
      have hnone : ∀ c ∈ eligibleQueue s pos, Machine.urgent s c.2 = false := by
        simpa using List.find?_eq_none.mp hf
      split at h
      · rename_i hhit
        cases h
        split at hhit
        · rename_i hk
          simp only [Bool.and_eq_true, decide_eq_true_eq] at hk
          refine .hit (List.mem_of_find?_eq_some hhit) hnone
            ⟨hk.1, hk.2, by simpa using List.find?_some hhit⟩ fun c hc hh => ?_
          exact find?_least hr₀ hs hhit c hc (by simpa using hh.2.2)
        · cases hhit
      · rename_i hhit
        refine .oldest (List.mem_of_head? h) hnone (fun c hc hh => ?_) (head?_least hr₀ hs h)
        rw [if_pos (by simp [hh.1, hh.2.1])] at hhit
        exact List.find?_eq_none.mp hhit c hc (by simpa using hh.2.2)
  · cases h

theorem choice_none_iff {s : State} {pos : Nat} {b : Bank} (hb : bankAt s pos = some b) :
    choice s pos = none ↔ bankReady b = false ∨ eligibleQueue s pos = [] := by
  constructor
  · intro h
    by_contra hc
    rw [not_or, Bool.not_eq_false] at hc
    unfold choice at h
    rw [hb] at h
    dsimp only at h
    rw [if_pos hc.1] at h
    split at h
    · cases h
    · split at h
      · cases h
      · exact hc.2 (List.head?_eq_none_iff.mp h)
  · intro h
    cases hch : choice s pos with
    | none => rfl
    | some p =>
      obtain ⟨hr, hc⟩ := choice_chosen hb hch
      rcases h with h | h
      · rw [hr] at h; cases h
      · rw [h] at hc
        cases hc with
        | urgent hp _ _ => cases hp
        | hit hp _ _ _ => cases hp
        | oldest hp _ _ _ => cases hp

/-! ## Commands that are ready (03 R56; 08 R138, R145) -/

theorem mayContinue_iff {s : State} {v : Service} :
    mayContinue s v = true ↔ (warmReset s = true → v.wrote = true) := by
  unfold mayContinue
  cases warmReset s <;> simp

theorem commandReady_iff {s : State} {pos : Nat} {b : Bank} : commandReady s pos b = true ↔
    ∃ v, b.serving = some v ∧ (warmReset s = true → v.wrote = true) ∧
      ((b.state = .closed ∧ (s.chan.state = .run ∨ s.chan.state = .quiescing) ∧
          (v.reserved = true ∨ hasRoom s (rankOf s pos) = true)) ∨
        (b.state = .openRow ∧ b.row = slotRow s v.slot ∧
          (v.toRead ≠ [] ∨ (v.toWrite ≠ [] ∧ s.chan.readsDue = []))) ∨
        (b.state = .openRow ∧ b.row ≠ slotRow s v.slot ∧
          b.activatedAt ≤ s.sched.openedBy ∧ b.writtenAt ≤ s.sched.writtenBy)) := by
  unfold commandReady
  cases b.serving with
  | none => simp
  | some v =>
    simp only [Option.some.injEq, exists_eq_left', Bool.and_eq_true, mayContinue_iff]
    refine and_congr_right fun _ => ?_
    cases b.state with
    | closed => simp [channelServes]
    | openRow =>
      by_cases hrow : b.row = slotRow s v.slot <;> simp [hrow, clocksPassed]
    | activating | precharging | refreshing => simp

theorem exists_bank {s : State} {P : Nat → Bank → Bool} :
    ((positions s).any fun p => (bankAt s p).any fun b => P p b) = true ↔
      ∃ p b, bankAt s p = some b ∧ P p b = true := by
  rw [List.any_eq_true]
  constructor
  · rintro ⟨p, -, h⟩
    obtain ⟨b, hb, hP⟩ := (Option.any_eq_true ..).mp h
    exact ⟨p, b, hb, hP⟩
  · rintro ⟨p, b, hb, hP⟩
    exact ⟨p, List.mem_range.mpr (List.getElem?_eq_some_iff.mp hb).1, by rw [hb]; exact hP⟩

theorem closeDue_iff {s : State} {b : Bank} : closeDue s b = true ↔ b.state = .openRow ∧
    b.closePending = true ∧ b.serving = none ∧ b.activatedAt ≤ s.sched.openedBy ∧
      b.writtenAt ≤ s.sched.writtenBy := by
  simp [closeDue, wantsClose, clocksPassed, and_assoc]

theorem anyCloseDue_iff {s : State} : anyCloseDue s = true ↔ ∃ pos b, bankAt s pos = some b ∧
    b.state = .openRow ∧ b.closePending = true ∧ b.serving = none ∧
      b.activatedAt ≤ s.sched.openedBy ∧ b.writtenAt ≤ s.sched.writtenBy := by
  unfold anyCloseDue
  rw [List.any_eq_true]
  constructor
  · rintro ⟨b, hb, hd⟩
    obtain ⟨p, hp⟩ := List.mem_iff_getElem?.mp hb
    exact ⟨p, b, hp, closeDue_iff.mp hd⟩
  · rintro ⟨p, b, hb, hd⟩
    exact ⟨b, List.mem_of_getElem? hb, closeDue_iff.mpr hd⟩

end Sys2Proof.Machine
end


section
/-! PROOFS. What the issue arbiter grants (03 R48 to R56; O20). -/

namespace Sys2Proof.Machine

/-! ## The search order (03 R56) -/

/-- How far a position is behind the one last granted, in search order. -/
def searchDistance (s : State) (pos : Nat) : Nat := (pos + 15 - s.sched.lastGranted) % 16

theorem mem_searchOrder {s : State} (hs : positionLaw s) {q : Nat} : q ∈ searchOrder s ↔ q < 16 := by
  have hlast : s.sched.lastGranted < 16 := hs
  simp only [searchOrder, List.mem_map, List.mem_range]
  refine ⟨?_, fun h => ⟨(q + 15 - s.sched.lastGranted) % 16, by omega, by omega⟩⟩
  rintro ⟨k, -, rfl⟩
  omega

theorem sorted_searchOrder {s : State} (hs : positionLaw s) :
    (searchOrder s).Pairwise fun p q => searchDistance s p ≤ searchDistance s q := by
  have hlast : s.sched.lastGranted < 16 := hs
  refine List.pairwise_map.mpr (List.pairwise_lt_range.imp_of_mem fun hj hk hjk => ?_)
  rw [List.mem_range] at hj hk
  unfold searchDistance
  omega

/-! ## The grant (03 R56) -/

/-- What keeps the arbiter from granting anything. -/
def grantBarred (s : State) : Prop := s.refresh.episode ≠ .none ∨ warmReset s = true ∨
  anyCommandReady s = true ∨ anyCloseDue s = true

/-- The positions that request, in search order. -/
def requesting (s : State) : List Nat := (searchOrder s).filter (requests s)

theorem mem_requesting {s : State} (hs : positionLaw s) {q : Nat} :
    q ∈ requesting s ↔ q < 16 ∧ requests s q = true := by
  rw [requesting, List.mem_filter, mem_searchOrder hs]

theorem grantee_of_barred {s : State} (h : grantBarred s) : grantee s = none := by
  refine if_pos ?_
  rcases h with h | h | h | h <;> simp [h]

theorem grantee_of_not_barred {s : State} (h : ¬ grantBarred s) : grantee s =
    match (requesting s).find? (urgentChoice s) with
    | some p => some p
    | none => (requesting s).head? := by
  refine if_neg ?_
  simp only [grantBarred, not_or] at h
  obtain ⟨h1, h2, h3, h4⟩ := h
  simp [h1, h2, h3, h4]

theorem grantee_none_iff {s : State} (hs : positionLaw s) :
    grantee s = none ↔ grantBarred s ∨ ∀ q < 16, requests s q = false := by
  by_cases hb : grantBarred s
  · simp [grantee_of_barred hb, hb]
  · have hempty : (∀ q < 16, requests s q = false) ↔ requesting s = [] := by
      rw [List.eq_nil_iff_forall_not_mem]
      simp [mem_requesting hs]
    rw [grantee_of_not_barred hb, hempty]
    cases hf : (requesting s).find? (urgentChoice s) with
    | none => simp [hb]
    | some p => simp [hb, List.ne_nil_of_mem (List.mem_of_find?_eq_some hf)]

theorem grantee_some {s : State} (hs : positionLaw s) {pos : Nat} (h : grantee s = some pos) :
    ¬ grantBarred s ∧ pos < 16 ∧ requests s pos = true ∧
      (urgentChoice s pos = true → ∀ q < 16, requests s q = true → urgentChoice s q = true →
        searchDistance s pos ≤ searchDistance s q) ∧
      (urgentChoice s pos = false → ∀ q < 16, requests s q = true →
        urgentChoice s q = false ∧ searchDistance s pos ≤ searchDistance s q) := by
  have hb : ¬ grantBarred s := fun hb => by rw [grantee_of_barred hb] at h; cases h
  have hsorted := (sorted_searchOrder hs).filter (requests s)
  have hrefl : ∀ p, searchDistance s p ≤ searchDistance s p := fun _ => Nat.le_refl _
  refine ⟨hb, ?_⟩
  rw [grantee_of_not_barred hb] at h
  split at h
  · rename_i hf
    cases h
    obtain ⟨hlt, hreq⟩ := (mem_requesting hs).mp (List.mem_of_find?_eq_some hf)
    have hurgent : urgentChoice s pos = true := List.find?_some hf
    refine ⟨hlt, hreq, fun _ q hq hr hu => ?_, fun hn => ?_⟩
    · exact find?_least hrefl hsorted hf q ((mem_requesting hs).mpr ⟨hq, hr⟩) hu
    · rw [hurgent] at hn; cases hn
  · rename_i hf
    obtain ⟨hlt, hreq⟩ := (mem_requesting hs).mp (List.mem_of_head? h)
    have hcalm : ∀ q ∈ requesting s, urgentChoice s q = false := by
      simpa using List.find?_eq_none.mp hf
    refine ⟨hlt, hreq, fun hu => ?_, fun _ q hq hr => ?_⟩
    · rw [hcalm pos (List.mem_of_head? h)] at hu; cases hu
    · have hmem := (mem_requesting hs).mpr ⟨hq, hr⟩
      exact ⟨hcalm q hmem, head?_least hrefl hsorted h q hmem⟩

/-! ## Room and the victim (03 R52) -/

theorem requests_iff {s : State} {p : Nat} {b : Bank} (hb : bankAt s p = some b) : requests s p = true ↔
    choice s p ≠ none ∧ (b.state = .closed → hasRoom s (rankOf s p) = true) := by
  simp only [requests, needsRoom, hb, Option.any_some, Bool.and_eq_true, Bool.or_eq_true,
    Bool.not_eq_true', Bool.and_eq_false_iff, decide_eq_false_iff_not, ← Option.isSome_iff_ne_none]
  constructor
  · rintro ⟨hc, (hn | hn) | hr⟩
    · exact ⟨hc, fun h => absurd h hn⟩
    · rw [hc] at hn; cases hn
    · exact ⟨hc, fun _ => hr⟩
  · rintro ⟨hc, hr⟩
    by_cases h : b.state = .closed
    · exact ⟨hc, .inr (hr h)⟩
    · exact ⟨hc, .inl (.inl h)⟩

/-- A listed bank that a rank short of room may close: OPEN, not busy, and hit by nothing eligible. -/
def mayBeVictim (s : State) (p : Nat) : Bool := (bankAt s p).any fun b =>
  b.state = .openRow && b.serving.isNone &&
    !((bankQueue s p).any fun q => eligible s q.2 && rowOf q.2 = b.row)

theorem mayBeVictim_iff {s : State} {p : Nat} : mayBeVictim s p = true ↔
    ∃ b, bankAt s p = some b ∧ b.state = .openRow ∧ b.serving = none ∧
      ∀ i t, slotAt s i = some t → posOf s t = some p → eligible s t = true → rowOf t ≠ b.row := by
  unfold mayBeVictim
  rw [Option.any_eq_true]
  refine exists_congr fun b => and_congr_right fun _ => ?_
  simp only [Bool.and_eq_true, decide_eq_true_eq, Option.isNone_iff_eq_none, Bool.not_eq_true',
    List.any_eq_false, and_assoc, not_and]
  refine and_congr_right fun _ => and_congr_right fun _ => ?_
  constructor
  · intro h i t ht hpos he
    exact h (i, t) (mem_bankQueue.mpr ⟨ht, queued_of_eligible he, hpos⟩) he
  · rintro h ⟨i, t⟩ hm he
    obtain ⟨ht, -, hpos⟩ := mem_bankQueue.mp hm
    exact h i t ht hpos he

/-- The rank lacks room that a choice of one of its CLOSED banks needs, and closes no bank yet. -/
def shortOfRoom (s : State) (rank : Nat) : Prop :=
  (∃ p b, (bankAt s p = some b ∧ rankOf s p = rank) ∧ b.state = .closed ∧ choice s p ≠ none) ∧
    hasRoom s rank = false ∧ ∀ p b, bankAt s p = some b ∧ rankOf s p = rank → b.closePending = false

theorem bankAt_lt {s : State} {p : Nat} {b : Bank} (h : bankAt s p = some b) : p < s.sched.banks.length :=
  (List.getElem?_eq_some_iff.mp h).1

theorem shortOfRoom_iff {s : State} {rank : Nat} : shortOfRoom s rank ↔
    ((positionsOf s rank).any (needsRoom s) && !hasRoom s rank &&
      !((positionsOf s rank).any fun p => (bankAt s p).any fun b => b.closePending)) = true := by
  simp only [shortOfRoom, Bool.and_eq_true, Bool.not_eq_true', List.any_eq_true, List.any_eq_false,
    mem_positionsOf, needsRoom, Option.any_eq_true, decide_eq_true_eq, ← Option.isSome_iff_ne_none,
    and_assoc]
  refine and_congr ?_ (and_congr_right fun _ => ?_)
  · constructor
    · rintro ⟨p, b, hb, hr, hst, hc⟩
      exact ⟨p, bankAt_lt hb, hr, ⟨b, hb, hst⟩, hc⟩
    · rintro ⟨p, -, hr, ⟨b, hb, hst⟩, hc⟩
      exact ⟨p, b, hb, hr, hst, hc⟩
  · constructor
    · rintro h p ⟨-, hr⟩ ⟨b, hb, hp⟩
      rw [h p b ⟨hb, hr⟩] at hp; cases hp
    · rintro h p b ⟨hb, hr⟩
      exact Bool.eq_false_iff.mpr fun hp => h p ⟨bankAt_lt hb, hr⟩ ⟨b, hb, hp⟩

theorem victimClose_of_not_short {s : State} {rank : Nat} (h : ¬ shortOfRoom s rank) :
    victimClose s rank = s := if_neg (mt shortOfRoom_iff.mpr h)

theorem victimClose_of_short {s : State} {rank : Nat} (h : shortOfRoom s rank) : victimClose s rank =
    match (openRowList s rank).find? (mayBeVictim s) with
    | none => s
    | some p => requestClose s p := if_pos (shortOfRoom_iff.mp h)

theorem victimClose_of_no_victim {s : State} {rank : Nat}
    (h : ∀ p ∈ openRowList s rank, ¬ mayBeVictim s p = true) : victimClose s rank = s := by
  by_cases hs : shortOfRoom s rank
  · rw [victimClose_of_short hs, List.find?_eq_none.mpr h]
  · exact victimClose_of_not_short hs

/-- The close of an OPEN bank that serves nothing is pending at once (03 R50). -/
theorem requestClose_idle {s : State} {p : Nat} {b : Bank} (hb : bankAt s p = some b)
    (hst : b.state = .openRow) (hv : b.serving = none) : requestClose s p =
      { s with sched := { s.sched with
        banks := s.sched.banks.modify p fun b => { b with closePending := true } } } := by
  have hmod : (s.sched.banks.modify p fun b => if b.serving.isSome then { b with closeAfter := true }
      else if b.state = .openRow then { b with closePending := true } else b) =
        s.sched.banks.modify p fun b => { b with closePending := true } := by
    refine List.ext_getElem? fun q => ?_
    rw [List.getElem?_modify, List.getElem?_modify]
    by_cases hq : p = q
    · subst hq
      rw [show s.sched.banks[p]? = some b from hb]
      simp [hst, hv]
    · simp [hq]
  unfold requestClose modBank
  rw [hmod]

theorem victimClose_of_victim {s : State} {rank p : Nat} {before after : List Nat}
    (hs : shortOfRoom s rank) (hl : openRowList s rank = before ++ p :: after)
    (hno : ∀ q ∈ before, ¬ mayBeVictim s q = true) (hp : mayBeVictim s p = true) :
    victimClose s rank = { s with sched := { s.sched with
      banks := s.sched.banks.modify p fun b => { b with closePending := true } } } := by
  have hfind : (openRowList s rank).find? (mayBeVictim s) = some p :=
    List.find?_eq_some_iff_append.mpr ⟨hp, before, after, hl, fun q hq => by simpa using hno q hq⟩
  obtain ⟨b, hb, hst, hv, -⟩ := mayBeVictim_iff.mp hp
  rw [victimClose_of_short hs, hfind]
  exact requestClose_idle hb hst hv

/-! ## The obligation -/

/-- The choice of a bank is none, or the one that 03 R55 describes. -/
theorem choice_cases (s : State) (pos : Nat) (b : Bank) (hb : bankAt s pos = some b) :
    let candidate (i : Nat) (t : Txn) : Prop :=
      slotAt s i = some t ∧ posOf s t = some pos ∧ eligible s t = true
    let hits (t : Txn) : Prop := b.state = .openRow ∧ behaviourOf s b = .keep ∧ rowOf t = b.row
    (choice s pos = none ↔ bankReady b = false ∨ ∀ i t, ¬ candidate i t) ∧
    ∀ i t, choice s pos = some (i, t) → bankReady b = true ∧ candidate i t ∧
      (urgent s t = true → ∀ j u, candidate j u → urgent s u = true → arrivedBefore s u t = false) ∧
      (urgent s t = false → (∀ j u, candidate j u → urgent s u = false) ∧
        (hits t → ∀ j u, candidate j u → hits u → arrivedBefore s u t = false) ∧
        (¬ hits t → ∀ j u, candidate j u → ¬ hits u ∧ arrivedBefore s u t = false)) := by
  intro candidate hits
  have hmem : ∀ i t, candidate i t ↔ (i, t) ∈ eligibleQueue s pos :=
    fun i t => (mem_eligibleQueue (p := (i, t))).symm
  refine ⟨?_, fun i t hc => ?_⟩
  · rw [choice_none_iff hb, List.eq_nil_iff_forall_not_mem]
    simp only [hmem, Prod.forall]
  · obtain ⟨hready, hchosen⟩ := choice_chosen hb hc
    refine ⟨hready, (hmem i t).mpr (by cases hchosen <;> assumption), fun hu j u hj hju => ?_,
      fun hu => ⟨fun j u hj => ?_, fun hh j u hj hju => ?_, fun hh j u hj => ?_⟩⟩ <;>
      rw [hmem] at hj
    · cases hchosen with
      | urgent _ _ hold => exact hold (j, u) hj hju
      | hit hp hcalm _ _ | oldest hp hcalm _ _ => exact absurd hu (by simp [hcalm (i, t) hp])
    · cases hchosen with
      | urgent _ hu' _ => exact absurd hu (by simp [hu'])
      | hit _ hcalm _ _ | oldest _ hcalm _ _ => exact hcalm (j, u) hj
    · cases hchosen with
      | urgent _ hu' _ => exact absurd hu (by simp [hu'])
      | hit _ _ _ hold => exact hold (j, u) hj hju
      | oldest hp _ hno _ => exact absurd hh (hno (i, t) hp)
    · cases hchosen with
      | urgent _ hu' _ => exact absurd hu (by simp [hu'])
      | hit _ _ hh' _ => exact absurd hh' hh
      | oldest _ _ hno hold => exact ⟨hno (j, u) hj, hold (j, u) hj⟩

theorem anyCommandReady_iff {s : State} : anyCommandReady s = true ↔
    ∃ pos b, bankAt s pos = some b ∧ commandReady s pos b = true := exists_bank

theorem earlierCommandReady_iff {s : State} {issued : Nat} : earlierCommandReady s issued = true ↔
    ∃ pos b, bankAt s pos = some b ∧ commandReady s pos b = true ∧
      ∃ v, b.serving = some v ∧ v.issued < issued := by
  unfold earlierCommandReady
  rw [exists_bank]
  simp only [Bool.and_eq_true, Option.any_eq_true, decide_eq_true_eq]

/-- Settles O20: the choice and the grant are the first that pass a test in a list sorted by arrival and by
search distance. -/
theorem arbiterGrants : Obligations.ArbiterGrants := by
  unfold Obligations.ArbiterGrants
  refine ⟨choice_cases, fun s hs => ⟨?_, fun issued => ?_, anyCloseDue_iff, grantee_none_iff hs,
    fun pos h => grantee_some hs h⟩, fun s rank => ⟨hasRoom_iff s rank, fun p b hb => requests_iff hb,
    ?_, fun hshort before p after hl hno hp => ?_, rfl⟩, bankReady_iff, fun s pos i t => ⟨?_, ?_, ?_,
    fun l hl => ?_, rfl, mem_bankQueue, sorted_byArrival s _⟩⟩
  · rw [anyCommandReady_iff]
    refine exists_congr fun pos => exists_congr fun b => ?_
    rw [commandReady_iff, ← exists_and_left]
  · rw [earlierCommandReady_iff]
    constructor
    · rintro ⟨pos, b, hb, hready, v, hv, hlt⟩
      obtain ⟨v', hv', hr⟩ := commandReady_iff.mp hready
      cases hv.symm.trans hv'
      exact ⟨pos, b, v, hb, hv, hr, hlt⟩
    · rintro ⟨pos, b, v, hb, hv, hr, hlt⟩
      exact ⟨pos, b, hb, commandReady_iff.mpr ⟨v, hv, hr⟩, v, hv, hlt⟩
  · rintro (hshort | hno)
    · exact victimClose_of_not_short hshort
    · exact victimClose_of_no_victim fun p hp hv => hno p hp (mayBeVictim_iff.mp hv)
  · exact victimClose_of_victim hshort hl (fun q hq hv => hno q hq (mayBeVictim_iff.mp hv))
      (mayBeVictim_iff.mpr hp)
  · simp [urgent]
  · unfold urgentChoice
    rw [Option.any_eq_true, Prod.exists]
  · intro hl
    simp [posOf, rowOf, hl]
  · simp [posOf, rowOf, hl]

end Sys2Proof.Machine
end


section
/-! SUPPORT. The Notice Unit: the entry of a number, the end of an entry, the performed write's entries, and the
lookups by which lines are notified (06 R103 to R113). -/

namespace Sys2Proof.Machine

/-! ## The entry of a number (06 R110, R111) -/

/-- A queue with at most one entry for a line has no other entry of the line of one of them. -/
theorem other_lines {s : State} {y : Link} {before after : List NoticeEntry} {e : NoticeEntry}
    (hl : noticeLaw s) (hq : (targetOf s y).queue = before ++ e :: after) :
    ∀ d ∈ before ++ after, d.line ≠ e.line := by
  obtain ⟨-, hp, -⟩ := hl y
  rw [hq, List.pairwise_append, List.pairwise_cons] at hp
  obtain ⟨-, ⟨hafter, -⟩, hbefore⟩ := hp
  intro d hd
  rcases List.mem_append.mp hd with hd | hd
  · exact (hbefore d hd e (List.mem_cons_self ..)).1
  · exact (hafter d hd).1.symm

theorem waiters_nodup {s : State} {y : Link} {before after : List NoticeEntry} {e : NoticeEntry}
    (hl : noticeLaw s) (hq : (targetOf s y).queue = before ++ e :: after) : e.waiters.Nodup :=
  (hl y).2.2 e (by rw [hq]; simp)

/-- The entry is SENT and holds the number. -/
def holdsNumber (k : Byte) (e : NoticeEntry) : Bool := match e.state with
  | .sent m _ => m = k
  | .reserved => false

theorem holdsNumber_iff {k : Byte} {e : NoticeEntry} :
    holdsNumber k e = true ↔ ∃ a, e.state = .sent k a := by
  unfold holdsNumber
  cases e.state <;> simp

theorem lineOfNumber_eq (n : NoticeTarget) (k : Byte) :
    lineOfNumber n k = (n.queue.find? (holdsNumber k)).map fun e => e.line := rfl

theorem runningNotice_eq (n : NoticeTarget) (k : Byte) : runningNotice n k =
    (n.queue.find? fun e => timerRuns e.timer && holdsNumber k e).map fun e => e.line := rfl

/-- No other entry holds the number of a SENT entry. -/
theorem holdsNumber_before {s : State} {y : Link} {before after : List NoticeEntry} {e : NoticeEntry}
    {k : Byte} {a : LinkAddr} (hl : noticeLaw s) (hq : (targetOf s y).queue = before ++ e :: after)
    (he : e.state = .sent k a) : ∀ d ∈ before, holdsNumber k d = false := by
  obtain ⟨-, hp, -⟩ := hl y
  rw [hq, List.pairwise_append] at hp
  obtain ⟨-, -, hbefore⟩ := hp
  intro d hd
  refine Bool.eq_false_iff.mpr fun hk => ?_
  obtain ⟨b, hb⟩ := holdsNumber_iff.mp hk
  exact (hbefore d hd e (List.mem_cons_self ..)).2 k b a hb he

theorem lineOfNumber_sent {s : State} {y : Link} {before after : List NoticeEntry} {e : NoticeEntry}
    {k : Byte} {a : LinkAddr} (hl : noticeLaw s) (hq : (targetOf s y).queue = before ++ e :: after)
    (he : e.state = .sent k a) : lineOfNumber (targetOf s y) k = some e.line := by
  have hfind : (targetOf s y).queue.find? (holdsNumber k) = some e :=
    List.find?_eq_some_iff_append.mpr ⟨holdsNumber_iff.mpr ⟨a, he⟩, before, after, hq,
      fun d hd => by simp [holdsNumber_before hl hq he d hd]⟩
  rw [lineOfNumber_eq, hfind]; rfl

theorem runningNotice_sent {s : State} {y : Link} {before after : List NoticeEntry} {e : NoticeEntry}
    {k : Byte} {a : LinkAddr} {n : Nat} (hl : noticeLaw s)
    (hq : (targetOf s y).queue = before ++ e :: after) (he : e.state = .sent k a)
    (ht : e.timer = .running n) : runningNotice (targetOf s y) k = some e.line := by
  have hfind : ((targetOf s y).queue.find? fun e => timerRuns e.timer && holdsNumber k e) = some e :=
    List.find?_eq_some_iff_append.mpr ⟨by simp [ht, timerRuns, holdsNumber_iff.mpr ⟨a, he⟩], before, after,
      hq, fun d hd => by simp [holdsNumber_before hl hq he d hd]⟩
  rw [runningNotice_eq, hfind]; rfl

theorem lineOfNumber_none {n : NoticeTarget} {k : Byte} (h : ∀ e ∈ n.queue, ∀ a, e.state ≠ .sent k a) :
    lineOfNumber n k = none := by
  rw [lineOfNumber_eq, List.find?_eq_none.mpr fun e he hk => ?_]
  · rfl
  · obtain ⟨a, ha⟩ := holdsNumber_iff.mp hk
    exact h e he a ha

theorem runningNotice_none {t : NoticeTarget} {k : Byte}
    (h : ∀ e ∈ t.queue, ∀ a n, e.state = .sent k a → e.timer ≠ .running n) : runningNotice t k = none := by
  rw [runningNotice_eq, List.find?_eq_none.mpr fun e he hk => ?_]
  · rfl
  · rw [Bool.and_eq_true] at hk
    obtain ⟨hrun, hnum⟩ := hk
    obtain ⟨a, ha⟩ := holdsNumber_iff.mp hnum
    cases ht : e.timer with
    | running n => exact h e he a n ha ht
    | stopped | paused n => rw [ht] at hrun; cases hrun

/-! ## The end of an entry (06 R110, R111, R113) -/

/-- The waiters of an entry have dropped their waits, and it is gone or RESERVED again. -/
def noticeEnded (y : Link) (before after : List NoticeEntry) (e : NoticeEntry) (s t : State)
    (late : Bool) : Prop :=
  (targetOf t y).queue = before ++ (if e.claimants = [] then [] else
    [{ e with state := .reserved, timer := .stopped, waiters := [] }]) ++ after ∧
  (∀ i u, slotAt s i = some u →
    (i ∉ e.waiters → slotAt t i = some u) ∧
    (i ∈ e.waiters → (∃ d ∈ before ++ after, i ∈ d.waiters) →
      slotAt t i = some { u with stale := late || u.stale }) ∧
    (i ∈ e.waiters → ¬ (∃ d ∈ before ++ after, i ∈ d.waiters) → u.orphan = true → slotAt t i = none) ∧
    (i ∈ e.waiters → ¬ (∃ d ∈ before ++ after, i ∈ d.waiters) → u.orphan = false →
      slotAt t i = some { u with
        stale := late || u.stale
        state := .reply
        status := some (if late || u.stale then .staleNotice else .ok)
        replySince := s.event })) ∧
  (∀ i, slotAt s i = none → slotAt t i = none) ∧
  (∀ z, ∃ l : List Nat, t.table.responses.get z = s.table.responses.get z ++ l ∧
    l.Sublist e.waiters ∧ ∀ i, i ∈ l ↔ i ∈ e.waiters ∧ ¬ (∃ d ∈ before ++ after, i ∈ d.waiters) ∧
      ∃ u, slotAt s i = some u ∧ u.orphan = false ∧ u.link = z) ∧
  t = { s with
    table := { s.table with slots := t.table.slots, responses := t.table.responses }
    notices := s.notices.set y { targetOf s y with
      queue := (targetOf t y).queue, recent := (targetOf t y).recent }
    mgmt := t.mgmt }

/-- A list of entries of other lines passes the removal of a line unchanged. -/
theorem filter_other_lines (l : List NoticeEntry) (n : Nat) (P : NoticeEntry → Bool)
    (h : ∀ d ∈ l, d.line ≠ n) : l.filter (fun d => !(decide (d.line = n) && P d)) = l := by
  refine List.filter_eq_self.mpr fun d hd => ?_
  simp [h d hd]

/-- The entry of a line is removed, or with claimants RESERVED again; the others stay. -/
theorem state_removeOrRearm {s : State} {y : Link} {before after : List NoticeEntry} {e : NoticeEntry}
    (hq : (targetOf s y).queue = before ++ e :: after) (hb : ∀ d ∈ before ++ after, d.line ≠ e.line) :
    removeOrRearm s y e.line = { s with notices := s.notices.set y { targetOf s y with
      queue := before ++ (if e.claimants = [] then [] else
        [{ e with state := .reserved, timer := .stopped, waiters := [] }]) ++ after } } := by
  have hb₁ : ∀ d ∈ before, d.line ≠ e.line := fun d hd => hb d (List.mem_append_left _ hd)
  have hb₂ : ∀ d ∈ after, d.line ≠ e.line := fun d hd => hb d (List.mem_append_right _ hd)
  have hq' : (s.notices.get y).queue = before ++ e :: after := hq
  unfold removeOrRearm modTarget
  simp only [hq', List.filter_append, List.filter_cons, filter_other_lines before e.line _ hb₁,
    filter_other_lines after e.line _ hb₂]
  by_cases hc : e.claimants = []
  · simp only [hc, decide_true, List.isEmpty_nil, Bool.and_self, Bool.not_true, Bool.false_eq_true,
      if_false, if_true, List.map_append, map_other_lines before e.line _ hb₁,
      map_other_lines after e.line _ hb₂, List.append_nil]
    rfl
  · simp only [hc, decide_true, List.isEmpty_eq_false_iff.mpr hc, Bool.and_false, Bool.not_false,
      if_false, if_true, List.map_append, List.map_cons, map_other_lines before e.line _ hb₁,
      map_other_lines after e.line _ hb₂, List.append_assoc, List.cons_append, List.nil_append]
    rfl

/-- The end of an entry: its waiters drop their waits, its line may leave the Recent Line List, an alert may be
raised, and it is removed or RESERVED again. -/
theorem noticeEnded_remove {s m : State} {y : Link} {before after : List NoticeEntry} {e : NoticeEntry}
    {late : Bool} {r : List Nat} {g : Mgmt} (hl : noticeLaw s)
    (hq : (targetOf s y).queue = before ++ e :: after)
    (hm : m = { dropWaiters s y e.line late with
      notices := s.notices.set y { targetOf s y with
        queue := before ++ { e with waiters := [], timer := .stopped } :: after, recent := r }
      mgmt := g }) :
    noticeEnded y before after e s (removeOrRearm m y e.line) late ∧
      (targetOf (removeOrRearm m y e.line) y).recent = r ∧ (removeOrRearm m y e.line).mgmt = g := by
  have hb := other_lines hl hq
  obtain ⟨hslot, hresp, hframe⟩ := dropWaiters_spec s y late before after e hq hb (waiters_nodup hl hq)
  beta_reduce at hslot hresp
  have hqm : (targetOf m y).queue = before ++ { e with waiters := [], timer := .stopped } :: after := by
    rw [hm, targetOf, PerLink.get_set]
  have heq := state_removeOrRearm hqm hb
  have hslots : ∀ j, slotAt (removeOrRearm m y e.line) j = slotAt (dropWaiters s y e.line late) j := by
    intro j
    rw [heq, hm]; rfl
  have hresps : (removeOrRearm m y e.line).table.responses =
      (dropWaiters s y e.line late).table.responses := by
    rw [heq, hm]
  have hqueue : (targetOf (removeOrRearm m y e.line) y).queue =
      before ++ (if e.claimants = [] then [] else
        [{ e with state := .reserved, timer := .stopped, waiters := [] }]) ++ after := by
    rw [heq, targetOf, PerLink.get_set]
  have hrecent : (targetOf (removeOrRearm m y e.line) y).recent = r := by
    rw [heq, targetOf, PerLink.get_set]
    dsimp only
    rw [hm, targetOf, PerLink.get_set]
  refine ⟨⟨hqueue, fun i u hu => ?_, fun i hi => ?_, fun z => ?_, ?_⟩, hrecent, by rw [heq, hm]⟩
  · rw [hslots, hslot i, hu]
    refine ⟨fun hw => if_neg hw, fun hw ho => ?_, fun hw ho hor => ?_, fun hw ho hor => ?_⟩ <;>
      rw [if_pos hw, Option.bind_some]
    · rw [decide_eq_true ho]; rfl
    · rw [decide_eq_false ho]; simp [dropped, hor]
    · rw [decide_eq_false ho]; simp [dropped, hor]
  · rw [hslots, hslot i, hi]
    simp
  · refine ⟨_, by rw [hresps]; exact hresp z, List.filter_sublist, fun i => ?_⟩
    rw [List.mem_filter]
    simp only [Bool.and_eq_true, Bool.not_eq_true', decide_eq_false_iff_not, Option.any_eq_true,
      decide_eq_true_eq]
  · rw [hqueue, hrecent]
    conv_lhs => rw [heq, hm, hframe]
    simp only [PerLink.set_set, targetOf, PerLink.get_set]
    rw [heq, hm]

end Sys2Proof.Machine
end


section
/-! SUPPORT. The notices of a performed write, the lines that are notified, and the lookups (06 R103 to R109). -/

namespace Sys2Proof.Machine

/-! ## Places in order of arrival -/

/-- A slot is placed behind the slots it did not arrive before, and in front of one it did. -/
theorem placeSlot_between {s : State} {i : Nat} {t : Txn} (ht : slotAt s i = some t) : ∀ l : List Nat,
    ∃ a b, l = a ++ b ∧ placeSlot s i l = a ++ i :: b ∧
      (∀ j ∈ a, ∀ u, slotAt s j = some u → arrivedBefore s t u = false) ∧
      (∀ j, b.head? = some j → ∃ u, slotAt s j = some u ∧ arrivedBefore s t u = true)
  | [] => ⟨[], [], rfl, rfl, by simp, by simp⟩
  | j :: l => by
    obtain ⟨a, b, hl, hp, ha, hb⟩ := placeSlot_between ht l
    have hlater (hj : ∀ u, slotAt s j = some u → arrivedBefore s t u = false)
        (heq : placeSlot s i (j :: l) = j :: placeSlot s i l) : ∃ a b, j :: l = a ++ b ∧
          placeSlot s i (j :: l) = a ++ i :: b ∧
          (∀ j ∈ a, ∀ u, slotAt s j = some u → arrivedBefore s t u = false) ∧
          (∀ j, b.head? = some j → ∃ u, slotAt s j = some u ∧ arrivedBefore s t u = true) :=
      ⟨j :: a, b, by rw [hl]; rfl, by rw [heq, hp]; rfl, List.forall_mem_cons.mpr ⟨hj, ha⟩, hb⟩
    cases hj : slotAt s j with
    | none => exact hlater (fun u hu => by rw [hj] at hu; cases hu) (by simp [placeSlot, ht, hj])
    | some u =>
      cases hlt : arrivedBefore s t u with
      | true =>
        refine ⟨[], j :: l, rfl, by simp [placeSlot, ht, hj, hlt], by simp, fun k hk => ?_⟩
        cases hk
        exact ⟨u, hj, hlt⟩
      | false =>
        refine hlater (fun u' hu' => ?_) (by simp [placeSlot, ht, hj, hlt])
        rw [hj] at hu'
        cases hu'
        exact hlt

theorem insertSlot_of_mem {s : State} {i : Nat} {l : List Nat} (h : i ∈ l) : insertSlot s i l = l :=
  if_pos (List.contains_iff_mem.mpr h)

theorem insertSlot_of_not_mem {s : State} {i : Nat} {l : List Nat} (h : i ∉ l) :
    insertSlot s i l = placeSlot s i l := if_neg (mt List.contains_iff_mem.mp h)

/-! ## The Recent Line List (06 R109) -/

theorem placeRecent_of_room {recent : List Nat} {line : Nat}
    (h : (recent.filter fun l => l ≠ line).length < 8) :
    placeRecent recent line = (recent.filter fun l => l ≠ line) ++ [line] := by
  unfold placeRecent recentRoom
  dsimp only
  rw [if_pos h]

theorem placeRecent_of_full {recent : List Nat} {line : Nat}
    (h : 8 ≤ (recent.filter fun l => l ≠ line).length) :
    placeRecent recent line = (recent.filter fun l => l ≠ line).drop 1 ++ [line] := by
  unfold placeRecent recentRoom
  dsimp only
  rw [if_neg (Nat.not_lt.mpr h)]

/-! ## The entries of a performed write (06 R106, R107) -/

/-- The performed write waits on the entry and claims it no more. -/
def waitingOn (s : State) (i : Nat) (e : NoticeEntry) : NoticeEntry :=
  { e with claimants := e.claimants.filter fun j => j ≠ i, waiters := insertSlot s i e.waiters }

/-- The entry of the line is RESERVED. -/
theorem anyReserved_iff {s : State} {y : Link} {before after : List NoticeEntry} {e : NoticeEntry}
    (hl : noticeLaw s) (hq : (targetOf s y).queue = before ++ e :: after) :
    ((targetOf s y).queue.any fun d => d.line = e.line && d.state = .reserved) = true ↔
      e.state = .reserved := by
  rw [List.any_eq_true]
  simp only [Bool.and_eq_true, decide_eq_true_eq]
  constructor
  · rintro ⟨d, hd, hline, hres⟩
    rw [hq, List.mem_append, List.mem_cons] at hd
    rcases hd with hd | rfl | hd
    · exact absurd hline (other_lines hl hq d (List.mem_append_left _ hd))
    · exact hres
    · exact absurd hline (other_lines hl hq d (List.mem_append_right _ hd))
  · exact fun h => ⟨e, by rw [hq]; simp, rfl, h⟩

/-- The write waits on the one entry of a line. -/
theorem waits_eq {s : State} {y : Link} {i : Nat} {before after : List NoticeEntry} {e : NoticeEntry}
    (hl : noticeLaw s) (hq : (targetOf s y).queue = before ++ e :: after) :
    (modEntry s y e.line fun e => { e with
      claimants := e.claimants.filter fun j => j ≠ i, waiters := insertSlot s i e.waiters }) =
    { s with notices := s.notices.set y { targetOf s y with
      queue := before ++ waitingOn s i e :: after } } :=
  modEntry_eq s y e.line _ before after e hq rfl (other_lines hl hq)

theorem performEntry_sent {s : State} {y : Link} {i : Nat} {before after : List NoticeEntry}
    {e : NoticeEntry} (hl : noticeLaw s) (hq : (targetOf s y).queue = before ++ e :: after)
    (he : e.state ≠ .reserved) : performEntry y i s e.line =
      { s with notices := s.notices.set y { targetOf s y with
        queue := before ++ waitingOn s i e :: after } } := by
  unfold performEntry
  dsimp only
  rw [if_neg (mt (anyReserved_iff hl hq).mp he), waits_eq hl hq]

/-- A RESERVED entry is sent with the number and the address given. -/
theorem sendEntry_eq {s : State} {y : Link} {before after : List NoticeEntry} {e : NoticeEntry}
    (hq : (targetOf s y).queue = before ++ e :: after) (hb : ∀ d ∈ before ++ after, d.line ≠ e.line) :
    let k := pickNumber (targetOf s y) noticeRoom (targetOf s y).counter
    let addr := (reverseLookup s.xlate.active y e.line).getD 0
    sendEntry s y e.line = { s with
      notices := s.notices.set y { targetOf s y with
        queue := before ++ { e with
          state := .sent k addr, timer := .running (4 * s.settings.notices.limit) } :: after
        counter := k + 1 }
      links := s.links.set y { linkOf s y with
        notices := (linkOf s y).notices ++ [⟨k, addr, s.event⟩] } } := by
  intro k addr
  unfold sendEntry
  dsimp only
  rw [modEntry_eq s y e.line _ before after e hq rfl hb]
  simp only [modTarget, modLink, PerLink.get_set, PerLink.set_set]
  rfl

/-- A number is taken exactly if an entry beside the RESERVED one holds it. -/
theorem numberTaken_beside {n : NoticeTarget} {before after : List NoticeEntry} {e : NoticeEntry}
    (hq : n.queue = before ++ e :: after) (he : e.state = .reserved) (k : Byte) :
    numberTaken n k = true ↔ ∃ d ∈ before ++ after, ∃ a, d.state = .sent k a := by
  rw [show numberTaken n k = n.queue.any (holdsNumber k) from rfl, List.any_eq_true]
  simp only [holdsNumber_iff]
  constructor
  · rintro ⟨d, hd, a, ha⟩
    rw [hq, List.mem_append, List.mem_cons] at hd
    rcases hd with hd | rfl | hd
    · exact ⟨d, List.mem_append_left _ hd, a, ha⟩
    · rw [he] at ha; cases ha
    · exact ⟨d, List.mem_append_right _ hd, a, ha⟩
  · rintro ⟨d, hd, h⟩
    refine ⟨d, ?_, h⟩
    rw [hq, List.mem_append, List.mem_cons]
    rcases List.mem_append.mp hd with hd | hd
    · exact .inl hd
    · exact .inr (.inr hd)

/-- While an entry is RESERVED, fewer numbers are held than the queue has places. -/
theorem numbers_lt {n : NoticeTarget} {before after : List NoticeEntry} {e : NoticeEntry}
    (hq : n.queue = before ++ e :: after) (he : e.state = .reserved) (hlen : n.queue.length ≤ noticeRoom) :
    (n.queue.filterMap numberOf).length < noticeRoom := by
  have hnone : numberOf e = none := by unfold numberOf; rw [he]
  have h1 := List.length_filterMap_le numberOf before
  have h2 := List.length_filterMap_le numberOf after
  rw [hq] at hlen ⊢
  simp only [List.length_append, List.length_cons, List.filterMap_append,
    List.filterMap_cons_none hnone] at hlen ⊢
  omega

theorem performEntry_reserved {s : State} {y : Link} {i : Nat} {before after : List NoticeEntry}
    {e : NoticeEntry} (hl : noticeLaw s) (hq : (targetOf s y).queue = before ++ e :: after)
    (he : e.state = .reserved) :
    let taken (k : Byte) : Prop := ∃ d ∈ before ++ after, ∃ a, d.state = .sent k a
    ∃ k n addr, n < 16 ∧ k = (targetOf s y).counter + BitVec.ofNat 8 n ∧ ¬ taken k ∧
      (∀ m < n, taken ((targetOf s y).counter + BitVec.ofNat 8 m)) ∧
      (∀ a, reverseLookup s.xlate.active y e.line = some a → addr = a) ∧
      performEntry y i s e.line = { s with
        notices := s.notices.set y { targetOf s y with
          queue := before ++ { waitingOn s i e with
            state := .sent k addr, timer := .running (4 * s.settings.notices.limit) } :: after
          counter := k + 1 }
        links := s.links.set y { linkOf s y with
          notices := (linkOf s y).notices ++ [⟨k, addr, s.event⟩] } } := by
  intro taken
  let w : NoticeTarget := { targetOf s y with queue := before ++ waitingOn s i e :: after }
  have hw : w.queue = before ++ waitingOn s i e :: after := rfl
  have hres : (waitingOn s i e).state = .reserved := he
  have hlen : w.queue.length ≤ noticeRoom := by
    obtain ⟨h, -, -⟩ := hl y
    rw [hq] at h
    simpa [hw] using h
  obtain ⟨n, hn, hk, hfree, hleast⟩ := pickNumber_least w noticeRoom w.counter (by decide)
    (numbers_lt hw hres hlen)
  refine ⟨_, n, (reverseLookup s.xlate.active y e.line).getD 0, hn, hk, ?_, fun m hm => ?_, fun a ha => ?_,
    ?_⟩
  · rw [hk]
    exact fun ht => Bool.eq_false_iff.mp hfree ((numberTaken_beside hw hres _).mpr ht)
  · exact (numberTaken_beside hw hres _).mp (hleast m hm)
  · rw [ha]; rfl
  · unfold performEntry
    dsimp only
    rw [if_pos ((anyReserved_iff hl hq).mpr he), waits_eq hl hq]
    let s₁ : State := { s with notices := s.notices.set y w }
    have ht₁ : targetOf s₁ y = w := PerLink.get_set ..
    have hsend := sendEntry_eq (s := s₁) (y := y) (e := waitingOn s i e) (by rw [ht₁])
      (show ∀ d ∈ before ++ after, d.line ≠ e.line from other_lines hl hq)
    rw [ht₁] at hsend
    refine hsend.trans ?_
    simp only [s₁, PerLink.set_set]
    rfl

/-- The notices of a performed write: its entries in queue order, then their lines into the Recent Line
List. -/
theorem performNotices_eq (s : State) (i : Nat) (t : Txn) : ∃ u : State,
    let y := otherLink t.link
    let claimed := (targetOf s y).queue.filter fun e => i ∈ e.claimants
    u = (claimed.map fun e => e.line).foldl (performEntry y i) s ∧
    performNotices s i t = { u with notices := u.notices.set y { targetOf u y with
      recent := (claimed.map fun e => e.line).foldl placeRecent (targetOf u y).recent } } := by
  have hclaimed : claimedLines (targetOf s (otherLink t.link)) i =
      ((targetOf s (otherLink t.link)).queue.filter fun e => i ∈ e.claimants).map fun e => e.line := by
    simp only [claimedLines, List.contains_eq_mem]
  refine ⟨_, rfl, ?_⟩
  rw [← hclaimed]
  rfl

/-! ## The lines that are notified (06 R103 to R105) -/

theorem mem_linesWritten {t : Txn} {l : Nat} : l ∈ linesWritten t ↔
    ∃ p, t.phys = some p ∧ ∃ k < t.count.getD 0, blockUse t k ≠ .untouched ∧ l = (p + 32 * k) / 64 * 64 := by
  unfold linesWritten
  cases t.phys with
  | none => simp
  | some p =>
    simp only [mem_distinct, List.mem_map, List.mem_filter, List.mem_range, decide_eq_true_eq,
      Option.some.injEq, exists_eq_left', spanCount, and_assoc, lineOf]
    exact exists_congr fun k => and_congr_right fun _ => and_congr_right fun _ => eq_comm

theorem isWrite_iff {t : Txn} : isWrite t = true ↔ t.kind = .write ∨ t.kind = .lockWrite := by
  simp [isWrite]

theorem needsNotices_iff {s : State} {t : Txn} : needsNotices s t = true ↔
    (t.kind = .write ∨ t.kind = .lockWrite) ∧
      (∃ p, t.phys = some p ∧ (regionOf s.xlate.active p).notify = true) ∧
      s.settings.notices.caching.get (otherLink t.link) = true ∧
      inService s (otherLink t.link) = true := by
  unfold needsNotices
  simp only [Bool.and_eq_true, isWrite_iff, and_assoc]
  cases t.phys <;> simp

theorem mem_notifiedSet {s : State} {t : Txn} {l : Nat} : l ∈ notifiedSet s t ↔
    (t.kind = .write ∨ t.kind = .lockWrite) ∧
      (∃ p, t.phys = some p ∧ (regionOf s.xlate.active p).notify = true ∧
        ∃ k < t.count.getD 0, blockUse t k ≠ .untouched ∧ l = (p + 32 * k) / 64 * 64) ∧
      s.settings.notices.caching.get (otherLink t.link) = true ∧
      inService s (otherLink t.link) = true ∧
      ∃ a, reverseLookup s.xlate.active (otherLink t.link) l = some a := by
  have hmem : l ∈ notifiedSet s t ↔ needsNotices s t = true ∧ l ∈ linesWritten t ∧
      ∃ a, reverseLookup s.xlate.active (otherLink t.link) l = some a := by
    unfold notifiedSet
    by_cases h : needsNotices s t = true
    · simp [h, Option.isSome_iff_exists]
    · simp [h]
  rw [hmem, needsNotices_iff, mem_linesWritten]
  constructor
  · rintro ⟨⟨hk, ⟨p, hp, hn⟩, hc, hs⟩, ⟨q, hq, hl⟩, ha⟩
    cases hp.symm.trans hq
    exact ⟨hk, ⟨p, hp, hn, hl⟩, hc, hs, ha⟩
  · rintro ⟨hk, ⟨p, hp, hn, hl⟩, hc, hs, ha⟩
    exact ⟨⟨hk, ⟨p, hp, hn⟩, hc, hs⟩, ⟨p, hp, hl⟩, ha⟩

theorem hasEntry_iff {n : NoticeTarget} {l : Nat} :
    hasEntry n l = true ↔ ∃ e ∈ n.queue, e.line = l := by
  simp [hasEntry]

theorem mem_newLines {s : State} {t : Txn} {l : Nat} : l ∈ newLines s t ↔ l ∈ notifiedSet s t ∧
    (∀ e ∈ (targetOf s (otherLink t.link)).queue, e.line ≠ l) ∧
    (s.settings.notices.filter = true → l ∉ (targetOf s (otherLink t.link)).recent) := by
  unfold newLines
  rw [List.mem_filter]
  refine and_congr_right fun _ => ?_
  cases s.settings.notices.filter <;> simp [hasEntry]

/-! ## Lookups by lowest index (02 R31; 06 R104) -/

/-- The first that passes a test, by its index. -/
theorem find?_some_iff {α : Type} {P : α → Bool} {l : List α} {a : α} : l.find? P = some a ↔
    ∃ k : Nat, l[k]? = some a ∧ P a = true ∧ ∀ j < k, ∀ b, l[j]? = some b → ¬ P b = true := by
  rw [List.find?_eq_some_iff_getElem]
  constructor
  · rintro ⟨hP, k, hk, rfl, hlt⟩
    refine ⟨k, List.getElem?_eq_getElem hk, hP, fun j hj b hb => ?_⟩
    obtain ⟨hj', rfl⟩ := List.getElem?_eq_some_iff.mp hb
    simpa using hlt j hj
  · rintro ⟨k, hk, hP, hlt⟩
    obtain ⟨hk', rfl⟩ := List.getElem?_eq_some_iff.mp hk
    exact ⟨hP, k, hk', rfl, fun j hj => by
      simpa using hlt j hj _ (List.getElem?_eq_getElem (hj.trans hk'))⟩

/-- The window maps a line for a link. -/
theorem mapsLine_iff {w : Window} {y : Link} {l : Nat} :
    (w.valid && servesLink w y && coversPhys w l) = true ↔ w.valid = true ∧
      (w.links = .both ∨ (w.links = .a ∧ y = .a) ∨ (w.links = .b ∧ y = .b)) ∧
      w.physBase.toNat ≤ l ∧ l < w.physBase.toNat + 65536 * 2 ^ w.sizeCode := by
  have hserves : servesLink w y = true ↔
      w.links = .both ∨ (w.links = .a ∧ y = .a) ∨ (w.links = .b ∧ y = .b) := by
    unfold servesLink
    cases w.links <;> cases y <;> decide
  have hcovers : coversPhys w l = true ↔
      w.physBase.toNat ≤ l ∧ l < w.physBase.toNat + 65536 * 2 ^ w.sizeCode := by
    change (decide (w.physBase.toNat ≤ l) && decide (l < w.physBase.toNat + windowSize w)) = true ↔ _
    rw [Bool.and_eq_true, decide_eq_true_eq, decide_eq_true_eq]
    rfl
  simp only [Bool.and_eq_true, hserves, hcovers, and_assoc]

theorem containsPhys_iff {r : Region} {p : Nat} : containsPhys r p = true ↔ regionHolds r p := by
  simp [containsPhys, regionHolds, and_assoc]

theorem regionOf_governs (t : TableSet) (p : Nat) : rightsGoverning t p (regionOf t p) := by
  unfold regionOf rightsGoverning
  cases h : t.regions.find? fun r => containsPhys r p with
  | none =>
    refine .inr ⟨fun r hr hh => ?_, rfl⟩
    exact List.find?_eq_none.mp h r hr (containsPhys_iff.mpr hh)
  | some r =>
    obtain ⟨k, hk, hP, hlt⟩ := find?_some_iff.mp h
    exact .inl ⟨k, r, hk, containsPhys_iff.mp hP,
      fun j hj q hq hh => hlt j hj q hq (containsPhys_iff.mpr hh), rfl⟩

end Sys2Proof.Machine
end


section
/-! PROOFS. The notices that are sent and settled (06 R103 to R113; O33). -/

namespace Sys2Proof.Machine

/-- A NOTICE-ACK whose number a SENT entry holds ends the entry. -/
theorem noticeAck_ends {s : State} {y : Link} {number seq : Byte} {before after : List NoticeEntry}
    {e : NoticeEntry} {a : LinkAddr} (hl : noticeLaw s)
    (hq : (targetOf s y).queue = before ++ e :: after) (he : e.state = .sent number a)
    (hacc : accepts s y seq) : ∃ t, answers (.noticeAck y seq number) s t ∧
      noticeEnded y before after e (accepted s y) t false ∧
      (targetOf t y).recent = (targetOf s y).recent ∧ t.mgmt = s.mgmt := by
  obtain ⟨-, -, -, -, -, hn, -, -, -, hmgmt, -⟩ := accepted_frame s y
  have ht : ∀ z, targetOf (accepted s y) z = targetOf s z := fun z => by unfold targetOf; rw [hn]
  have hl' : noticeLaw (accepted s y) := fun z => by rw [ht]; exact hl z
  have hq' : (targetOf (accepted s y) y).queue = before ++ e :: after := by rw [ht]; exact hq
  obtain ⟨-, -, hframe⟩ := dropWaiters_spec (accepted s y) y false before after e hq' (other_lines hl' hq')
    (waiters_nodup hl' hq')
  obtain ⟨hend, hrecent, hm⟩ := noticeEnded_remove (late := false)
    (m := dropWaiters (accepted s y) y e.line false) (r := (targetOf (accepted s y) y).recent)
    (g := (accepted s y).mgmt) hl' hq' (by rw [hframe])
  refine ⟨_, answers_next (v := takeNoticeAck y number (accepted s y)) ?_ ?_, hend, ?_, ?_⟩
  · exact congrArg Host.Outcome.next (receive_accepts hacc (takeNoticeAck y number))
  · unfold takeNoticeAck
    rw [lineOfNumber_sent hl' hq' he]
  · rw [hrecent, ht]
  · rw [hm, hmgmt]

/-- The expiry of the timer of a SENT entry ends the entry, late. -/
theorem noticeTimer_ends {s : State} {y : Link} {number : Byte} {before after : List NoticeEntry}
    {e : NoticeEntry} {a : LinkAddr} {n : Nat} (hl : noticeLaw s)
    (hq : (targetOf s y).queue = before ++ e :: after) (he : e.state = .sent number a)
    (htimer : e.timer = .running n) : ∃ t, answers (.noticeTimerExpiry y number) s t ∧
      noticeEnded y before after e (beginEvent s) t true ∧
      (targetOf t y).recent = (targetOf s y).recent.filter (fun l => l ≠ e.line) ∧
      t.mgmt = (raiseAlert (beginEvent s) .noticeTimeout (some y) (some e.line) none
        (some number.toNat)).mgmt := by
  have hrun := runningNotice_sent hl hq he htimer
  have hl' : noticeLaw (beginEvent s) := hl
  have hq' : (targetOf (beginEvent s) y).queue = before ++ e :: after := hq
  obtain ⟨-, -, hframe⟩ := dropWaiters_spec (beginEvent s) y true before after e hq' (other_lines hl' hq')
    (waiters_nodup hl' hq')
  let d := dropWaiters (beginEvent s) y e.line true
  let m := raiseAlert (forgetRecent d y [e.line]) .noticeTimeout (some y) (some e.line) none
    (some number.toNat)
  have hm : m = { d with
      notices := (beginEvent s).notices.set y { targetOf (beginEvent s) y with
        queue := before ++ { e with waiters := [], timer := .stopped } :: after
        recent := (targetOf s y).recent.filter fun l => l ≠ e.line }
      mgmt := (raiseAlert (beginEvent s) .noticeTimeout (some y) (some e.line) none
        (some number.toNat)).mgmt } := by
    simp only [m, raiseAlert_eq, forgetRecent, modTarget]
    rw [show d = _ from hframe]
    simp only [PerLink.get_set, PerLink.set_set, List.contains_cons, List.contains_nil, Bool.or_false]
    congr 5
    funext l
    simp [beq_eq_decide]
  obtain ⟨hend, hrecent, hg⟩ := noticeEnded_remove (late := true) hl' hq' hm
  refine ⟨_, answers_of rfl (by rw [hrun]; rfl) ?_, hend, hrecent, hg⟩
  unfold expireNotice
  rw [show runningNotice (targetOf (beginEvent s) y) number = some e.line from hrun]

/-- Settles O33: the entry of a line is one of a list with other lines before and after it, so each change of the
queue is a change of that one place. -/
theorem noticesAreSentAndSettled : Obligations.NoticesAreSentAndSettled := by
  unfold Obligations.NoticesAreSentAndSettled
  refine ⟨fun s y number before after e a hl hq he => ⟨fun seq hacc => noticeAck_ends hl hq he hacc,
      fun n ht => noticeTimer_ends hl hq he ht⟩, fun s x seq number hacc hno => ?_,
    fun s t l => ⟨mem_notifiedSet, mem_newLines⟩,
    ⟨performNotices_eq, fun s y i before after e hl hq => ⟨fun k a he => ?_, fun he => ?_⟩,
      fun recent line => ⟨placeRecent_of_room, placeRecent_of_full⟩, fun s i l t ht => ⟨insertSlot_of_mem,
        fun hi => ?_⟩⟩,
    ⟨fun t y l => ⟨fun hno => ?_, fun k w hk hw hlt => ?_⟩, regionOf_governs, fun s y number hno => ?_⟩⟩
  · obtain ⟨-, -, -, -, -, hn, -⟩ := accepted_frame s x
    have hnone : lineOfNumber (targetOf (accepted s x) x) number = none := by
      refine lineOfNumber_none fun e he => hno e ?_
      unfold targetOf at he
      rwa [hn] at he
    change Host.Outcome.next (receive s x seq (takeNoticeAck x number)) = _
    rw [receive_accepts hacc, takeNoticeAck, hnone]
    rfl
  · exact performEntry_sent hl hq (by rw [he]; exact NoticeState.noConfusion)
  · exact performEntry_reserved hl hq he
  · rw [insertSlot_of_not_mem hi]
    exact placeSlot_between ht l
  · unfold reverseLookup
    rw [List.find?_eq_none.mpr fun w hw hm => hno w hw (mapsLine_iff.mp hm)]
    rfl
  · unfold reverseLookup
    rw [find?_some_iff.mpr ⟨k, hk, mapsLine_iff.mpr hw, fun j hj v hv hm => hlt j hj v hv (mapsLine_iff.mp hm)⟩]
    rfl
  · refine idles_of rfl ?_
    rw [runningNotice_none hno]
    rfl

end Sys2Proof.Machine
end


section
/-! PROOFS. LINK-RESET and a link reset at the blocks (10 R179, R180; O51). -/

namespace Sys2Proof.Machine

/-! ## The Notice Unit (06 R114) -/

/-- A slot waits on one of the entries. -/
def waitsIn (q : List NoticeEntry) (i : Nat) : Prop := ∃ e ∈ q, i ∈ e.waiters

theorem waitsIn_cons {e : NoticeEntry} {q : List NoticeEntry} {i : Nat} :
    waitsIn (e :: q) i ↔ i ∈ e.waiters ∨ waitsIn q i := by
  simp [waitsIn]

/-- The waits on a list of entries of target `y` have ended, and the entries are gone. -/
structure Discarded (y : Link) (q : List NoticeEntry) (s t : State) : Prop where
  slots_of_wait : ∀ i, waitsIn q i → slotAt t i = (slotAt s i).bind (dropped s false false)
  slots_else : ∀ i, ¬ waitsIn q i → slotAt t i = slotAt s i
  responses : ∀ z, ∃ l : List Nat, t.table.responses.get z = s.table.responses.get z ++ l ∧ l.Nodup ∧
    ∀ i, i ∈ l ↔ waitsIn q i ∧ ∃ u, slotAt s i = some u ∧ u.orphan = false ∧ u.link = z
  frame : t = { s with
    table := { s.table with slots := t.table.slots, responses := t.table.responses }
    notices := s.notices.set y { targetOf s y with queue := [] } }

/-- The first entry is discarded: the waits on it end, and it goes. -/
theorem discardEntry_spec {y : Link} {s : State} {e : NoticeEntry} {q : List NoticeEntry}
    (hq : (targetOf s y).queue = e :: q) (hb : ∀ d ∈ q, d.line ≠ e.line) (hn : e.waiters.Nodup) :
    let t := discardEntry y s e.line
    (∀ i, i ∈ e.waiters → ¬ waitsIn q i → slotAt t i = (slotAt s i).bind (dropped s false false)) ∧
    (∀ i, i ∉ e.waiters ∨ waitsIn q i → slotAt t i = slotAt s i) ∧
    (∀ z, ∃ l : List Nat, t.table.responses.get z = s.table.responses.get z ++ l ∧ l.Nodup ∧
      ∀ i, i ∈ l ↔ (i ∈ e.waiters ∧ ¬ waitsIn q i) ∧
        ∃ u, slotAt s i = some u ∧ u.orphan = false ∧ u.link = z) ∧
    t = { s with
      table := { s.table with slots := t.table.slots, responses := t.table.responses }
      notices := s.notices.set y { targetOf s y with queue := q } } := by
  intro t
  obtain ⟨hslot, hresp, hframe⟩ := dropWaiters_spec s y false [] q e hq hb hn
  replace hslot : ∀ i, slotAt (dropWaiters s y e.line false) i = if i ∈ e.waiters
      then (slotAt s i).bind (dropped s false (decide (∃ d ∈ q, i ∈ d.waiters)))
      else slotAt s i := hslot
  beta_reduce at hresp
  have hslots : ∀ i, slotAt t i = slotAt (dropWaiters s y e.line false) i := fun _ => rfl
  have hsame (u : Txn) : dropped s false true u = some u := by simp [dropped]
  refine ⟨fun i hw ho => ?_, fun i hi => ?_, fun z => ⟨_, hresp z, hn.filter _, fun i => ?_⟩, ?_⟩
  · rw [hslots, hslot i, if_pos hw, decide_eq_false (show ¬ ∃ d ∈ q, i ∈ d.waiters from ho)]
  · rw [hslots, hslot i]
    split
    · rename_i hw
      have hw' : ∃ d ∈ q, i ∈ d.waiters := hi.resolve_left fun h => h hw
      rw [decide_eq_true hw', funext hsame, Option.bind_fun_some]
    · rfl
  · rw [List.mem_filter]
    simp only [Bool.and_eq_true, Bool.not_eq_true', decide_eq_false_iff_not, Option.any_eq_true,
      decide_eq_true_eq, and_assoc]
    rfl
  · have hfilter : (e :: q).filter (fun d => d.line ≠ e.line) = q := by
      rw [List.filter_cons_of_neg (by simp)]
      exact List.filter_eq_self.mpr fun d hd => by simpa using hb d hd
    change discardEntry y s e.line = _
    conv_lhs => unfold discardEntry
    simp only [modTarget]
    conv_lhs => rw [hframe]
    simp only [PerLink.get_set, PerLink.set_set, List.nil_append]
    refine congrArg (fun q => { s with
      table := { s.table with slots := t.table.slots, responses := t.table.responses }
      notices := s.notices.set y { targetOf s y with queue := q } }) ?_
    rw [← hfilter]
    simp

/-- The entries of a queue are discarded one after another. -/
theorem foldl_discardEntry (y : Link) : ∀ (q : List NoticeEntry) (s : State),
    (targetOf s y).queue = q → q.Pairwise (fun e f => e.line ≠ f.line) → (∀ e ∈ q, e.waiters.Nodup) →
    Discarded y q s ((q.map fun e => e.line).foldl (discardEntry y) s)
  | [], s, hq, _, _ => {
      slots_of_wait := fun i h => absurd h (by simp [waitsIn])
      slots_else := fun i _ => rfl
      responses := fun z => ⟨[], by simp, by simp, by simp [waitsIn]⟩
      frame := by
        have hsame : ({ targetOf s y with queue := [] } : NoticeTarget) = s.notices.get y := by
          rw [← hq]; rfl
        rw [hsame, PerLink.set_get]
        rfl }
  | e :: q, s, hq, hp, hn => by
    rw [List.pairwise_cons] at hp
    obtain ⟨hfirst, hp⟩ := hp
    rw [List.forall_mem_cons] at hn
    obtain ⟨hne, hnq⟩ := hn
    obtain ⟨hend, hstay, hresp, hframe⟩ :=
      discardEntry_spec hq (fun d hd => (hfirst d hd).symm) hne
    rw [List.map_cons, List.foldl_cons]
    generalize discardEntry y s e.line = s₁ at *
    have hq₁ : (targetOf s₁ y).queue = q := by rw [hframe, targetOf, PerLink.get_set]
    have hdropped : dropped s₁ false false = dropped s false false := by rw [hframe]; rfl
    have ih := foldl_discardEntry y q s₁ hq₁ hp hnq
    exact {
      slots_of_wait := fun i hi => by
        by_cases hw : waitsIn q i
        · rw [ih.slots_of_wait i hw, hstay i (.inr hw), hdropped]
        · rw [ih.slots_else i hw, hend i ((waitsIn_cons.mp hi).resolve_right hw) hw]
      slots_else := fun i hi => by
        rw [waitsIn_cons, not_or] at hi
        rw [ih.slots_else i hi.2, hstay i (.inl hi.1)]
      responses := fun z => by
        obtain ⟨l₁, h₁, hn₁, hm₁⟩ := hresp z
        obtain ⟨l₂, h₂, hn₂, hm₂⟩ := ih.responses z
        have hm₂' : ∀ i, i ∈ l₂ ↔ waitsIn q i ∧
            ∃ u, slotAt s i = some u ∧ u.orphan = false ∧ u.link = z := fun i => by
          rw [hm₂]
          exact and_congr_right fun hw => by rw [hstay i (.inr hw)]
        refine ⟨l₁ ++ l₂, by rw [h₂, h₁, List.append_assoc], ?_, fun i => ?_⟩
        · refine List.nodup_append.mpr ⟨hn₁, hn₂, fun i hi j hj hij => ?_⟩
          subst hij
          exact ((hm₁ i).mp hi).1.2 ((hm₂' i).mp hj).1
        · rw [List.mem_append, hm₁, hm₂', waitsIn_cons]
          by_cases hw : waitsIn q i <;> simp [hw]
      frame := by
        refine ih.frame.trans ?_
        rw [hframe]
        simp only [targetOf, PerLink.get_set, PerLink.set_set] }

end Sys2Proof.Machine
end


section
/-! PROOFS. A link reset at the Transaction Table and at the other blocks (10 R179, R180; O51). -/

namespace Sys2Proof.Machine

/-! ## The blocks (10 R180) -/

theorem linkResetEvent_eq (s : State) (x : Link) (cause : Cause) :
    linkResetEvent s x cause = settle (resetAt s x cause) := by
  unfold linkResetEvent resetAt
  simp only [raiseAlert_eq]
  rfl

theorem exec_linkReset (s : State) (x : Link) : exec (.linkReset x) s =
    happens (inService s x) s fun s => linkResetEvent s x .partnerReset := rfl

theorem answers_linkReset {s : State} {x : Link} (h : inService s x = true) :
    answers (.linkReset x) s (resetAt (beginEvent s) x .partnerReset) :=
  answers_of (exec_linkReset s x) h (linkResetEvent_eq (beginEvent s) x .partnerReset)

theorem removeLocks_holder (s : State) (x : Link) : removeLocks s (fun e => e.holder = x) =
    ((locksOf s x).flatMap fun e => (waitList s e.block).map fun p => p.1).foldl reexamineWaiter
      { s with locks := s.locks.filter fun e => e.holder ≠ x } := by
  have hfilter : (fun e : LockEntry => !decide (e.holder = x)) = fun e => decide (e.holder ≠ x) := by
    funext e
    rw [decide_not]
  unfold removeLocks
  rw [hfilter]
  rfl

theorem mgmtLinkReset_of_ne {s : State} {x : Link} (h : s.mgmt.claim ≠ some x) :
    mgmtLinkReset s x = { s with mgmt := { s.mgmt with replies := s.mgmt.replies.set x [] } } := by
  unfold mgmtLinkReset
  exact if_neg h

theorem mgmtLinkReset_of_eq {s : State} {x : Link} (h : s.mgmt.claim = some x) :
    mgmtLinkReset s x = { s with
      mgmt := { s.mgmt with replies := s.mgmt.replies.set x [], claim := none, lease := .stopped }
      xlate := if s.xlate.commit = .draining then { s.xlate with heldRevert := true }
        else { s.xlate with shadow := s.xlate.active } } := by
  unfold mgmtLinkReset
  refine (if_pos h).trans ?_
  unfold revertAtFreeing
  dsimp only
  split_ifs
  · rfl
  · rfl

theorem tenureLinkReset_of_ne {s : State} {x : Link} (h : s.tenure.holder ≠ some x) :
    tenureLinkReset s x = s := if_neg h

theorem tenureLinkReset_of_eq {s : State} {x : Link} (h : s.tenure.holder = some x) :
    let u : State := { s with tenure := { s.tenure with due := .toNone, idle := .stopped } }
    tenureLinkReset s x = { u with tenure := { u.tenure with idleNow := holderIdle u x } } := by
  unfold tenureLinkReset setDue withTenure
  simp only [h, if_true]

/-! ## The Notice Unit (06 R114) -/

/-- The whole queue of a target is discarded. -/
theorem discardTarget_spec {s : State} (hl : noticeLaw s) (x : Link) :
    Discarded x (targetOf s x).queue s
      (((targetOf s x).queue.map fun e => e.line).foldl (discardEntry x) s) := by
  obtain ⟨-, hp, hn⟩ := hl x
  exact foldl_discardEntry x _ s rfl (hp.imp fun h => h.1) hn

theorem discardTarget_ends {s : State} (hl : noticeLaw s) (x : Link) :
    let waits (i : Nat) : Prop := ∃ e ∈ (targetOf s x).queue, i ∈ e.waiters
    ∃ t, discardTarget s x = t ∧
      (∀ i u, slotAt s i = some u →
        (¬ waits i → slotAt t i = some u) ∧
        (waits i → u.orphan = true → slotAt t i = none) ∧
        (waits i → u.orphan = false → slotAt t i = some { u with
          state := .reply
          status := some (if u.stale then .staleNotice else .ok)
          replySince := s.event })) ∧
      (∀ i, slotAt s i = none → slotAt t i = none) ∧
      (∀ z, ∃ l : List Nat, t.table.responses.get z = s.table.responses.get z ++ l ∧ l.Nodup ∧
        ∀ i, i ∈ l ↔ waits i ∧ ∃ u, slotAt s i = some u ∧ u.orphan = false ∧ u.link = z) ∧
      t = { s with
        table := { s.table with slots := t.table.slots, responses := t.table.responses }
        notices := s.notices.set x ⟨[], [], 0⟩ } := by
  intro waits
  have hd := discardTarget_spec hl x
  have hslots : ∀ i, slotAt (discardTarget s x) i =
      slotAt (((targetOf s x).queue.map fun e => e.line).foldl (discardEntry x) s) i := fun _ => rfl
  refine ⟨_, rfl, fun i u hu => ⟨fun hw => ?_, fun hw ho => ?_, fun hw ho => ?_⟩, fun i hi => ?_,
    hd.responses, ?_⟩
  · rw [hslots, hd.slots_else i hw, hu]
  · rw [hslots, hd.slots_of_wait i hw, hu]
    simp [dropped, ho]
  · rw [hslots, hd.slots_of_wait i hw, hu]
    simp [dropped, ho]
  · rw [hslots]
    by_cases hw : waits i
    · rw [hd.slots_of_wait i hw, hi]; rfl
    · rw [hd.slots_else i hw, hi]
  · conv_lhs => unfold discardTarget modTarget
    dsimp only
    conv_lhs => rw [hd.frame]
    simp only [PerLink.set_set]
    rfl

/-! ## The Transaction Table (01 R15, R23) -/

/-- A slot of the reset link that is freed. -/
def freedBy (x : Link) (t : Txn) : Prop := t.link = x ∧
  (t.state = .intake ∨ t.state = .queued ∨ t.state = .fenceWait ∨ t.state = .reply)

theorem freedAtReset_iff {t : Txn} : freedAtReset t = true ↔
    t.state = .intake ∨ t.state = .queued ∨ t.state = .fenceWait ∨ t.state = .reply := by
  simp [freedAtReset, or_assoc]

/-- The table with the slots of the link freed or marked orphan, before predecessors are chosen again. -/
def slotsReset (s : State) (x : Link) : State :=
  { s with table := { s.table with
    slots := s.table.slots.map (resetSlot x), responses := s.table.responses.set x [] } }

/-- The slots that a link reset frees. -/
def goneSlots (s : State) (x : Link) : List Nat :=
  ((liveOf s x).filter fun p => freedAtReset p.2).map fun p => p.1

theorem tableLinkReset_eq (s : State) (x : Link) :
    tableLinkReset s x = reexamine (slotsReset s x) (goneSlots s x) := rfl

theorem slotAt_slotsReset (s : State) (x : Link) (i : Nat) :
    slotAt (slotsReset s x) i = resetSlot x (slotAt s i) := by
  simp only [slotAt, slotsReset, List.getD_eq_getElem?_getD, List.getElem?_map]
  cases s.table.slots[i]? <;> rfl

theorem mem_goneSlots {s : State} {x : Link} {p : Nat} :
    p ∈ goneSlots s x ↔ ∃ u, slotAt s p = some u ∧ freedBy x u := by
  simp only [goneSlots, List.mem_map, List.mem_filter, mem_liveOf, freedAtReset_iff, freedBy]
  constructor
  · rintro ⟨⟨p, u⟩, ⟨⟨hu, hx⟩, hf⟩, rfl⟩
    exact ⟨u, hu, hx, hf⟩
  · rintro ⟨u, hu, hx, hf⟩
    exact ⟨(p, u), ⟨⟨hu, hx⟩, hf⟩, rfl⟩

theorem slotAt_slotsReset_some {s : State} {x : Link} {i : Nat} {t : Txn} (h : slotAt s i = some t) :
    (freedBy x t → slotAt (slotsReset s x) i = none) ∧
    (t.link = x → t.state = .access ∨ t.state = .merge ∨ t.state = .notify →
      slotAt (slotsReset s x) i = some { t with orphan := true }) ∧
    (t.link ≠ x → slotAt (slotsReset s x) i = some t) := by
  rw [slotAt_slotsReset, h]
  refine ⟨fun ⟨hx, hf⟩ => ?_, fun hx hstate => ?_, fun hx => if_neg hx⟩
  · exact (if_pos hx).trans (if_pos (freedAtReset_iff.mpr hf))
  · refine (if_pos hx).trans (if_neg fun hf => ?_)
    rcases freedAtReset_iff.mp hf with hf | hf | hf | hf <;>
      rcases hstate with hs | hs | hs <;> rw [hf] at hs <;> cases hs

/-- A slot that is left chooses its predecessor again exactly if that is freed. -/
theorem slotAt_tableLinkReset {s : State} {x : Link} {i : Nat} {t : Txn}
    (h : slotAt (slotsReset s x) i = some t) :
    (∀ p, t.pred = some p → (∃ u, slotAt s p = some u ∧ freedBy x u) →
      slotAt (tableLinkReset s x) i = some { t with pred := choosePred (slotsReset s x) i t }) ∧
    ((∀ p, t.pred = some p → ¬ ∃ u, slotAt s p = some u ∧ freedBy x u) →
      slotAt (tableLinkReset s x) i = some t) := by
  rw [tableLinkReset_eq, slotAt_reexamine, h, Option.map_some]
  refine ⟨fun p hp hgone => ?_, fun hno => ?_⟩
  · simp only [hp, List.contains_eq_mem, decide_eq_true (mem_goneSlots.mpr hgone), if_true]
  · cases hp : t.pred with
    | none => rfl
    | some p =>
      simp only [List.contains_eq_mem, decide_eq_false (mt mem_goneSlots.mp (hno p hp)),
        Bool.false_eq_true, if_false]

/-- Settles O51: each block's part of the reset is said once, and the discarded queue is followed entry by
entry. -/
theorem linkResetIsTaken : Obligations.LinkResetIsTaken := by
  unfold Obligations.LinkResetIsTaken
  refine ⟨fun s x => ⟨fun h => answers_linkReset h, fun h => idles_of (exec_linkReset s x) h,
    removeLocks_holder s x, fun hl => discardTarget_ends hl x, mgmtLinkReset_of_ne, mgmtLinkReset_of_eq,
    tenureLinkReset_of_ne, tenureLinkReset_of_eq⟩, fun s x => ⟨slotsReset s x, ?_⟩⟩
  refine ⟨fun i t h => slotAt_slotsReset_some h, fun i h => ?_, rfl, fun i t h => slotAt_tableLinkReset h,
    fun i h => ?_, rfl⟩
  · rw [slotAt_slotsReset, h]; rfl
  · rw [tableLinkReset_eq, slotAt_reexamine, h]; rfl

end Sys2Proof.Machine
end


section
/-! SUPPORT. The parts of an issue: the transactions passed over, the reservation of notices, the open-row lists,
and the plan of the DRAM work (03 R57 to R60; 06 R105; 08 R139, R143). -/

namespace Sys2Proof.Machine

/-! ## The transactions passed over (03 R57) -/

theorem perm_insertByArrival (s : State) (p : Nat × Txn) : ∀ l : List (Nat × Txn),
    (insertByArrival s p l).Perm (p :: l)
  | [] => List.Perm.refl _
  | q :: l => by
    unfold insertByArrival
    split
    · exact List.Perm.refl _
    · exact ((perm_insertByArrival s p l).cons q).trans (List.Perm.swap p q l)

theorem perm_byArrival (s : State) : ∀ l : List (Nat × Txn), (byArrival s l).Perm l
  | [] => List.Perm.refl _
  | p :: l => (perm_insertByArrival s p (byArrival s l)).trans ((perm_byArrival s l).cons p)

theorem nodup_liveSlots (s : State) : ((liveSlots s).map fun p => p.1).Nodup :=
  List.pairwise_map.mpr ((liveSlots_sorted s).imp fun h => Nat.ne_of_lt h)

theorem nodup_passedOver (s : State) (pos : Nat) (t : Txn) : (passedOver s pos t).Nodup := by
  refine ((List.filter_sublist).map _).nodup ?_
  unfold bankQueue
  rw [((perm_byArrival s _).map _).nodup_iff]
  exact (List.filter_sublist.map _).nodup (nodup_liveSlots s)

theorem mem_passedOver {s : State} {pos j : Nat} {t : Txn} : j ∈ passedOver s pos t ↔
    ∃ w, slotAt s j = some w ∧ eligible s w = true ∧ posOf s w = some pos ∧
      arrivedBefore s w t = true := by
  simp only [passedOver, List.mem_map, List.mem_filter, Bool.and_eq_true, mem_bankQueue]
  constructor
  · rintro ⟨⟨k, w⟩, ⟨⟨hw, -, hpos⟩, he, ha⟩, rfl⟩
    exact ⟨w, hw, he, hpos, ha⟩
  · rintro ⟨w, hw, he, hpos, ha⟩
    exact ⟨(j, w), ⟨⟨hw, queued_of_eligible he, hpos⟩, he, ha⟩, rfl⟩

theorem not_mem_passedOver_self {s : State} {pos i : Nat} {t : Txn} (h : slotAt s i = some t) :
    i ∉ passedOver s pos t := by
  rw [mem_passedOver]
  rintro ⟨w, hw, -, -, ha⟩
  cases h.symm.trans hw
  rw [arrivedBefore_self] at ha
  cases ha

/-- The bypass count raised by one, below the limit. -/
def bypassed (limit : Nat) (t : Txn) : Txn :=
  { t with bypass := if t.bypass < limit then t.bypass + 1 else t.bypass }

theorem slotAt_raiseBypass (limit : Nat) (s : State) (i j : Nat) : slotAt (raiseBypass limit s i) j =
    if j = i then (slotAt s i).map (bypassed limit) else slotAt s j := slotAt_modSlot s i j _

/-- Each slot of a list is raised once, and nothing else changes. -/
theorem foldl_raiseBypass (limit : Nat) : ∀ (ps : List Nat), ps.Nodup → ∀ s : State,
    (∀ j, slotAt (ps.foldl (raiseBypass limit) s) j =
      if j ∈ ps then (slotAt s j).map (bypassed limit) else slotAt s j) ∧
    ps.foldl (raiseBypass limit) s = { s with table := { s.table with
      slots := (ps.foldl (raiseBypass limit) s).table.slots } }
  | [], _, s => ⟨fun j => by simp, rfl⟩
  | p :: ps, hn, s => by
    rw [List.nodup_cons] at hn
    obtain ⟨hp, hn⟩ := hn
    obtain ⟨hslot, hframe⟩ := foldl_raiseBypass limit ps hn (raiseBypass limit s p)
    refine ⟨fun j => ?_, hframe⟩
    rw [List.foldl_cons, hslot, slotAt_raiseBypass]
    by_cases hj : j = p
    · subst hj; simp [hp]
    · simp [hj]

/-! ## The reservation of notices (06 R105) -/

/-- The slot claims the entry. -/
def claimedBy (s : State) (i : Nat) (e : NoticeEntry) : NoticeEntry :=
  { e with claimants := insertSlot s i e.claimants }

theorem claimedBy_congr {s u : State} (h : u.table = s.table) (i : Nat) (e : NoticeEntry) :
    claimedBy u i e = claimedBy s i e := by
  unfold claimedBy
  rw [insertSlot_congr h]

theorem foldl_claim (y : Link) (i : Nat) : ∀ (ls : List Nat), ls.Nodup → ∀ s : State,
    ls.foldl (fun st l => modEntry st y l (claimedBy st i)) s = { s with
      notices := s.notices.set y { targetOf s y with
        queue := (targetOf s y).queue.map fun e => if e.line ∈ ls then claimedBy s i e else e } }
  | [], _, s => by
    simp only [List.foldl_nil, List.not_mem_nil, if_false, List.map_id']
    exact congrArg (fun n => { s with notices := n }) (PerLink.set_get s.notices y).symm
  | l :: ls, hn, s => by
    rw [List.nodup_cons] at hn
    obtain ⟨hl, hn⟩ := hn
    have hclaim : ∀ e, claimedBy (modEntry s y l (claimedBy s i)) i e = claimedBy s i e := fun e =>
      claimedBy_congr (show (modEntry s y l (claimedBy s i)).table = s.table from rfl) i e
    have hmap : ∀ e : NoticeEntry,
        (if (if e.line = l then claimedBy s i e else e).line ∈ ls
          then claimedBy s i (if e.line = l then claimedBy s i e else e)
          else if e.line = l then claimedBy s i e else e) =
        if e.line ∈ l :: ls then claimedBy s i e else e := fun e => by
      by_cases he : e.line = l
      · have hnot : (claimedBy s i e).line ∉ ls := by
          rw [show (claimedBy s i e).line = l from he]; exact hl
        simp [he, hnot]
      · simp [he]
    rw [List.foldl_cons, foldl_claim y i ls hn]
    simp only [hclaim]
    simp only [modEntry, modTarget, targetOf, PerLink.get_set, PerLink.set_set, List.map_map]
    refine congrArg (fun q => { s with notices := s.notices.set y { s.notices.get y with queue := q } })
      (List.map_congr_left fun e _ => ?_)
    exact hmap e

theorem nodup_joinLines (s : State) (t : Txn) : (joinLines s t).Nodup := by
  refine List.Nodup.filter _ ?_
  unfold notifiedSet
  split
  · exact (nodup_linesWritten t).filter _
  · exact List.nodup_nil

/-- A write claims the entries of its notified lines, and has a RESERVED entry for each new one. -/
theorem reserveNotices_eq (s : State) (i : Nat) (t : Txn) : reserveNotices s i t = { s with
    notices := s.notices.set (otherLink t.link) { targetOf s (otherLink t.link) with
      queue := ((targetOf s (otherLink t.link)).queue.map fun e => if e.line ∈ notifiedSet s t
          then { e with claimants := insertSlot s i e.claimants } else e) ++
        (newLines s t).map fun l => ⟨l, .reserved, .stopped, [i], []⟩ } } := by
  have hjoin : ∀ e ∈ (targetOf s (otherLink t.link)).queue,
      (if e.line ∈ joinLines s t then claimedBy s i e else e) =
        if e.line ∈ notifiedSet s t then claimedBy s i e else e := fun e he => by
    have hiff : e.line ∈ joinLines s t ↔ e.line ∈ notifiedSet s t := by
      rw [joinLines, List.mem_filter, hasEntry_iff]
      exact and_iff_left ⟨e, he, rfl⟩
    by_cases h : e.line ∈ notifiedSet s t
    · rw [if_pos h, if_pos (hiff.mpr h)]
    · rw [if_neg h, if_neg (mt hiff.mp h)]
  have hjoined : reserveNotices s i t = modTarget ((joinLines s t).foldl
      (fun st l => modEntry st (otherLink t.link) l (claimedBy st i)) s) (otherLink t.link) fun n =>
        { n with queue := n.queue ++ (newLines s t).map fun l => ⟨l, .reserved, .stopped, [i], []⟩ } := rfl
  rw [hjoined, foldl_claim _ i _ (nodup_joinLines s t), List.map_congr_left hjoin]
  simp only [modTarget, PerLink.get_set, PerLink.set_set]
  rfl

/-! ## The open-row lists (03 R57) -/

theorem openRowList_touch (s : State) (pos : Nat) : openRowList (touchOpenRows s pos) (rankOf s pos) =
    if pos ∈ openRowList s (rankOf s pos)
      then (openRowList s (rankOf s pos)).filter (· ≠ pos) ++ [pos]
      else openRowList s (rankOf s pos) := by
  unfold touchOpenRows modOpenRows
  by_cases h : rankOf s pos = 0 <;> simp [openRowList, h]

theorem openRowList_touch_ne (s : State) (pos : Nat) {r : Nat} (h : r = 0 ↔ rankOf s pos ≠ 0) :
    openRowList (touchOpenRows s pos) r = openRowList s r := by
  unfold touchOpenRows modOpenRows
  by_cases h0 : rankOf s pos = 0
  · have hr : r ≠ 0 := fun hr => h.mp hr h0
    simp [openRowList, h0, hr]
  · have hr : r = 0 := h.mpr h0
    simp [openRowList, h0, hr]

theorem touchOpenRows_eq (s : State) (pos : Nat) : touchOpenRows s pos = { s with sched := { s.sched with
    openRows0 := (touchOpenRows s pos).sched.openRows0
    openRows1 := (touchOpenRows s pos).sched.openRows1 } } := by
  unfold touchOpenRows modOpenRows
  split <;> rfl

/-! ## The plan of the work (08 R139, R143) -/

theorem planService_read {i n : Nat} {t : Txn} (h : t.kind = .read ∨ t.kind = .lockRead) :
    (planService i t n).toRead = List.range (t.count.getD 0) ∧ (planService i t n).toWrite = [] := by
  have hr : isRead t = true := by simpa [isRead] using h
  exact ⟨if_pos hr, if_pos (by rw [hr]; rfl)⟩

theorem not_isRead_of_write {t : Txn} (h : t.kind = .write ∨ t.kind = .lockWrite) : isRead t = false := by
  rcases h with h | h <;> simp [isRead, h]

theorem planService_write {i n : Nat} {t : Txn} (h : t.kind = .write ∨ t.kind = .lockWrite) :
    (t.mergeNeeded = false → (planService i t n).toRead = [] ∧ (planService i t n).toWrite =
      ((List.range (t.count.getD 0)).filter fun k => blockUse t k = .full).map fun k =>
        (k, t.data.getD k 0)) ∧
    (t.mergeNeeded = true → (planService i t n).toWrite = [] ∧ (planService i t n).toRead =
      (List.range (t.count.getD 0)).filter fun k => blockUse t k = .partialBlock) := by
  have hr := not_isRead_of_write h
  refine ⟨fun hm => ?_, fun hm => ?_⟩ <;> simp only [planService, hr, hm]
  · exact ⟨rfl, rfl⟩
  · exact ⟨rfl, rfl⟩

/-! ## The classification (03 R58 to R60) -/

theorem classify_of_not_adaptive {s : State} {b : Bank} {row : Option Nat}
    (h : s.settings.rows.policy ≠ .adaptive) : classify s b row = b := by
  unfold classify
  split
  · rfl
  · rfl
  · rename_i hp; exact absurd hp h

theorem classify_keep {s : State} {b : Bank} {row : Option Nat} (hp : s.settings.rows.policy = .adaptive)
    (hk : b.behaviour = .keep) : classify s b row =
      if b.state = .openRow then
        if b.row = row then { b with streak := 0 }
        else if s.settings.rows.missStreak ≤ min 7 (b.streak + 1) then
          { b with behaviour := .close, streak := 0 }
        else { b with streak := min 7 (b.streak + 1) }
      else b := by
  unfold classify
  rw [hp, hk]
  rfl

theorem classify_close {s : State} {b : Bank} {row : Nat} (hp : s.settings.rows.policy = .adaptive)
    (hk : b.behaviour = .close) : classify s b (some row) =
      if b.lastRow = some row then
        if s.settings.rows.hitStreak ≤ min 7 (b.streak + 1) then
          { b with behaviour := .keep, streak := 0 }
        else { b with streak := min 7 (b.streak + 1) }
      else { b with streak := 0 } := by
  have hhit : (b.lastRow.isSome && decide (b.lastRow = some row)) = decide (b.lastRow = some row) := by
    cases b.lastRow <;> rfl
  unfold classify
  rw [hp, hk]
  dsimp only
  rw [hhit]
  simp only [decide_eq_true_eq]
  rfl

end Sys2Proof.Machine
end


section
/-! PROOFS. The issue of a transaction starts its service (03 R57; O21). -/

namespace Sys2Proof.Machine

/-! ## Up to the transactions passed over -/

/-- The state of an issue once its notices are reserved. -/
def issueReserved (s : State) (i : Nat) (t : Txn) : State := if isWrite t then reserveNotices s i t else s

theorem issueReserved_eq (s : State) (i : Nat) (t : Txn) :
    issueReserved s i t = { s with notices := (issueReserved s i t).notices } := by
  unfold issueReserved
  split
  · rw [reserveNotices_eq]
  · rfl

theorem issuePassed_spec (s : State) (pos i : Nat) (t : Txn) :
    (∀ j, slotAt (issuePassed s pos i t) j = if j ∈ passedOver s pos t
      then (slotAt s j).map (bypassed s.settings.rows.bypassLimit) else slotAt s j) ∧
    issuePassed s pos i t = { s with
      table := { s.table with slots := (issuePassed s pos i t).table.slots }
      notices := (issueReserved s i t).notices } := by
  have hr := issueReserved_eq s i t
  have hlimit : (issueReserved s i t).settings = s.settings := by rw [hr]
  have heq : issuePassed s pos i t = (passedOver s pos t).foldl
      (raiseBypass (issueReserved s i t).settings.rows.bypassLimit) (issueReserved s i t) := rfl
  obtain ⟨hslot, hframe⟩ := foldl_raiseBypass s.settings.rows.bypassLimit _ (nodup_passedOver s pos t)
    (issueReserved s i t)
  rw [heq, hlimit]
  refine ⟨fun j => ?_, hframe.trans ?_⟩
  · have htable : (issueReserved s i t).table = s.table := by rw [hr]
    rw [hslot, slotAt_congr htable]
  · generalize ((passedOver s pos t).foldl (raiseBypass s.settings.rows.bypassLimit)
      (issueReserved s i t)).table.slots = slots
    rw [hr]

/-! ## The state of the issue -/

theorem bankAtIssue_issuePassed (s : State) (pos i : Nat) (t : Txn) :
    bankAtIssue (issuePassed s pos i t) i t = bankAtIssue s i t := by
  rw [(issuePassed_spec s pos i t).2]
  rfl

/-- The bank serves. -/
def issueBank (s : State) (pos i : Nat) (t : Txn) : State :=
  modBank (issuePassed s pos i t) pos (bankAtIssue (issuePassed s pos i t) i t)

/-- The bank stands at the end of its rank's list, if it is there. -/
def issueListed (s : State) (pos i : Nat) (t : Txn) : State := touchOpenRows (issueBank s pos i t) pos

/-- The state of an issue before a write that stores no block is performed at once. -/
def issued (s : State) (pos i : Nat) (t : Txn) : State :=
  { modSlot (issueListed s pos i t) i fun t => { t with state := onChannelState t } with
    sched := { (issueListed s pos i t).sched with lastGranted := pos } }

theorem issueAt_issued (s : State) (pos i : Nat) (t : Txn) :
    issueAt s pos i t = completeEmpty (issued s pos i t) pos := rfl

theorem issueBank_eq (s : State) (pos i : Nat) (t : Txn) : issueBank s pos i t = { s with
    table := { s.table with slots := (issuePassed s pos i t).table.slots }
    sched := { s.sched with banks := s.sched.banks.modify pos (bankAtIssue s i t) }
    notices := (issueReserved s i t).notices } := by
  unfold issueBank
  rw [bankAtIssue_issuePassed]
  conv_lhs => rw [(issuePassed_spec s pos i t).2]
  rfl

theorem issueListed_frame (s : State) (pos i : Nat) (t : Txn) : ∃ slots rows0 rows1,
    issueListed s pos i t = { s with
      table := { s.table with slots := slots }
      sched := { s.sched with
        banks := s.sched.banks.modify pos (bankAtIssue s i t), openRows0 := rows0, openRows1 := rows1 }
      notices := (issueReserved s i t).notices } := by
  refine ⟨(issuePassed s pos i t).table.slots, (issueListed s pos i t).sched.openRows0,
    (issueListed s pos i t).sched.openRows1, (touchOpenRows_eq ..).trans ?_⟩
  unfold issueListed
  rw [issueBank_eq]

theorem issued_banks (s : State) (pos i : Nat) (t : Txn) :
    (issued s pos i t).sched.banks = s.sched.banks.modify pos (bankAtIssue s i t) := by
  obtain ⟨slots, rows0, rows1, h⟩ := issueListed_frame s pos i t
  unfold issued
  rw [h]

theorem issued_frame (s : State) (pos i : Nat) (t : Txn) : issued s pos i t = { s with
    table := { s.table with slots := (issued s pos i t).table.slots }
    sched := { s.sched with
      banks := (issued s pos i t).sched.banks
      openRows0 := (issued s pos i t).sched.openRows0
      openRows1 := (issued s pos i t).sched.openRows1
      lastGranted := pos }
    notices := (issueReserved s i t).notices } := by
  obtain ⟨slots, rows0, rows1, h⟩ := issueListed_frame s pos i t
  unfold issued
  rw [h]
  rfl

theorem slotAt_issued (s : State) (pos i : Nat) (t : Txn) (j : Nat) : slotAt (issued s pos i t) j =
    if j = i then (slotAt (issuePassed s pos i t) i).map fun t => { t with state := onChannelState t }
    else slotAt (issuePassed s pos i t) j := by
  have htable : (issueListed s pos i t).table = (issuePassed s pos i t).table := by
    unfold issueListed
    rw [touchOpenRows_eq]
    rfl
  have hslot : slotAt (issued s pos i t) j = slotAt
      (modSlot (issueListed s pos i t) i fun t => { t with state := onChannelState t }) j := rfl
  rw [hslot, slotAt_modSlot, slotAt_congr htable, slotAt_congr htable]

theorem slotAt_issued_self {s : State} {pos i : Nat} {t : Txn} (h : slotAt s i = some t) :
    slotAt (issued s pos i t) i = some { t with
      state := if isWrite t = true ∧ t.mergeNeeded = true then .merge else .access } := by
  rw [slotAt_issued, if_pos rfl, (issuePassed_spec s pos i t).1, if_neg (not_mem_passedOver_self h), h,
    Option.map_some, onChannelState]
  simp only [Bool.and_eq_true]

theorem slotAt_issued_other {s : State} {pos i j : Nat} {t w : Txn} (hj : j ≠ i)
    (h : slotAt s j = some w) : slotAt (issued s pos i t) j = some { w with
      bypass := if eligible s w = true ∧ posOf s w = some pos ∧ arrivedBefore s w t = true ∧
        w.bypass < s.settings.rows.bypassLimit then w.bypass + 1 else w.bypass } := by
  have hmem : j ∈ passedOver s pos t ↔
      eligible s w = true ∧ posOf s w = some pos ∧ arrivedBefore s w t = true := by
    rw [mem_passedOver]
    constructor
    · rintro ⟨w', hw', hp⟩
      cases h.symm.trans hw'
      exact hp
    · exact fun hp => ⟨w, h, hp⟩
  rw [slotAt_issued, if_neg hj, (issuePassed_spec s pos i t).1, h]
  by_cases hp : j ∈ passedOver s pos t
  · obtain ⟨he, hpos, ha⟩ := hmem.mp hp
    rw [if_pos hp, Option.map_some, bypassed]
    simp only [he, hpos, ha, true_and]
  · have hno : ¬ (eligible s w = true ∧ posOf s w = some pos ∧ arrivedBefore s w t = true ∧
        w.bypass < s.settings.rows.bypassLimit) := fun ⟨he, hpos, ha, _⟩ => hp (hmem.mpr ⟨he, hpos, ha⟩)
    rw [if_neg hp, if_neg hno]

theorem slotAt_issued_none {s : State} {pos i j : Nat} {t : Txn} (hi : slotAt s i = some t)
    (h : slotAt s j = none) : slotAt (issued s pos i t) j = none := by
  have hj : j ≠ i := fun hj => by rw [hj, hi] at h; cases h
  rw [slotAt_issued, if_neg hj, (issuePassed_spec s pos i t).1, h]
  split <;> rfl

theorem openRowList_issued (s : State) (pos i : Nat) (t : Txn) (r : Nat) :
    openRowList (issued s pos i t) r = openRowList (touchOpenRows (issueBank s pos i t) pos) r := rfl

theorem openRowList_issueBank (s : State) (pos i : Nat) (t : Txn) (r : Nat) :
    openRowList (issueBank s pos i t) r = openRowList s r := by
  rw [issueBank_eq]
  rfl

theorem rankOf_issueBank (s : State) (pos i : Nat) (t : Txn) :
    rankOf (issueBank s pos i t) pos = rankOf s pos := by
  rw [issueBank_eq]
  rfl

theorem openRowList_issued_rank (s : State) (pos i : Nat) (t : Txn) :
    openRowList (issued s pos i t) (rankOf s pos) = if pos ∈ openRowList s (rankOf s pos)
      then (openRowList s (rankOf s pos)).filter (· ≠ pos) ++ [pos]
      else openRowList s (rankOf s pos) := by
  have h := openRowList_touch (issueBank s pos i t) pos
  rw [rankOf_issueBank, openRowList_issueBank] at h
  rw [openRowList_issued, h]

theorem openRowList_issued_other (s : State) (pos i : Nat) (t : Txn) (r : Nat)
    (h : r = 0 ↔ rankOf s pos ≠ 0) : openRowList (issued s pos i t) r = openRowList s r := by
  rw [openRowList_issued, openRowList_touch_ne _ _ (by rw [rankOf_issueBank]; exact h),
    openRowList_issueBank]

/-! ## The write that stores no block (08 R139) -/

theorem row_classify (s : State) (b : Bank) (row : Option Nat) : (classify s b row).row = b.row := by
  unfold classify; (repeat' split) <;> rfl

theorem serviceSpent_plan {i n : Nat} {t : Txn} : serviceSpent (planService i t n) = true ↔
    (planService i t n).toRead = [] ∧ (planService i t n).toWrite = [] := by
  simp only [serviceSpent, Bool.and_eq_true, List.isEmpty_iff, decide_eq_true_eq]
  exact ⟨fun ⟨⟨h1, _⟩, h2⟩ => ⟨h1, h2⟩, fun ⟨h1, h2⟩ => ⟨⟨h1, rfl⟩, h2⟩⟩

/-- The record of the issued transaction. -/
def onChannel (t : Txn) : Txn :=
  { t with state := if isWrite t = true ∧ t.mergeNeeded = true then .merge else .access }

theorem completeEmpty_issued {s : State} {pos i : Nat} {t : Txn} {b : Bank} (hs : slotAt s i = some t)
    (hb : bankAt s pos = some b) (hw : warmReset s = false) :
    let v := planService i t s.event
    completeEmpty (issued s pos i t) pos =
      if b.state = .openRow ∧ b.row = rowOf t ∧ v.toRead = [] ∧ v.toWrite = []
        then completeWrite (issued s pos i t) pos i (onChannel t) else issued s pos i t := by
  intro v
  have hbank : bankAt (issued s pos i t) pos = some (bankAtIssue s i t b) := by
    unfold bankAt
    rw [issued_banks, List.getElem?_modify, show s.sched.banks[pos]? = some b from hb]
    simp
  have hslot : slotAt (issued s pos i t) i = some (onChannel t) := slotAt_issued_self hs
  have hrow : slotRow (issued s pos i t) i = rowOf t := by
    unfold slotRow
    rw [hslot]; rfl
  have hwarm : warmReset (issued s pos i t) = false := by
    rw [issued_frame]; exact hw
  have hreport : reportWrite (issued s pos i t) pos i =
      completeWrite (issued s pos i t) pos i (onChannel t) := by
    unfold reportWrite
    rw [hwarm, hslot]; rfl
  have hstate : (bankAtIssue s i t b).state = b.state := state_classify s b (rowOf t)
  have hbrow : (bankAtIssue s i t b).row = b.row := row_classify s b (rowOf t)
  have hserving : (bankAtIssue s i t b).serving = some v := rfl
  unfold completeEmpty
  rw [hbank]
  dsimp only
  rw [hserving]
  dsimp only
  rw [hstate, hbrow, show v.slot = i from rfl, hrow, hreport]
  refine if_congr ?_ rfl rfl
  simp only [Bool.and_eq_true, decide_eq_true_eq, serviceSpent_plan, v, and_assoc]

/-! ## The obligation -/

theorem bankQueue_beginEvent (s : State) (pos : Nat) : bankQueue (beginEvent s) pos = bankQueue s pos :=
  byArrival_congr (show (beginEvent s).table = s.table from rfl) _

theorem choice_beginEvent (s : State) (pos : Nat) : choice (beginEvent s) pos = choice s pos := by
  unfold choice
  rw [bankQueue_beginEvent]
  rfl

theorem requests_beginEvent (s : State) (pos : Nat) :
    requests (beginEvent s) pos = requests s pos := by
  unfold requests needsRoom
  rw [choice_beginEvent]
  rfl

theorem urgentChoice_beginEvent (s : State) (pos : Nat) :
    urgentChoice (beginEvent s) pos = urgentChoice s pos := by
  unfold urgentChoice
  rw [choice_beginEvent]
  rfl

theorem grantee_beginEvent (s : State) : grantee (beginEvent s) = grantee s := by
  unfold grantee
  rw [funext (requests_beginEvent s), funext (urgentChoice_beginEvent s)]
  rfl

theorem exec_issue (s : State) : exec .issue s = happens (grantee s).isSome s issueGranted := rfl

/-- A grant is answered by the issue and its consequences. -/
theorem answers_issue {s : State} {pos i : Nat} {t : Txn} (hg : grantee s = some pos)
    (hc : choice s pos = some (i, t)) :
    answers .issue s (completeEmpty (issued (beginEvent s) pos i t) pos) := by
  refine answers_of (exec_issue s) (by rw [hg]; rfl) ?_
  unfold issueGranted
  rw [grantee_beginEvent, hg]
  dsimp only
  rw [choice_beginEvent, hc]
  exact congrArg settle (issueAt_issued (beginEvent s) pos i t)

theorem warmReset_of_grant {s : State} {pos : Nat} (hg : grantee s = some pos) : warmReset s = false := by
  refine Bool.eq_false_iff.mpr fun hw => ?_
  rw [grantee_of_barred (.inr (.inl hw))] at hg
  cases hg

theorem insertSlot_beginEvent (s : State) (i : Nat) (l : List Nat) :
    insertSlot (beginEvent s) i l = insertSlot s i l :=
  insertSlot_congr (show (beginEvent s).table = s.table from rfl) i l

theorem issueReserved_of_read {s : State} {i : Nat} {t : Txn} (h : isWrite t = false) :
    (issueReserved s i t).notices = s.notices := by
  unfold issueReserved
  rw [h]
  rfl

theorem issueReserved_of_write {s : State} {i : Nat} {t : Txn} (h : isWrite t = true) :
    (issueReserved s i t).notices = s.notices.set (otherLink t.link) { targetOf s (otherLink t.link) with
      queue := ((targetOf s (otherLink t.link)).queue.map fun e => if e.line ∈ notifiedSet s t
          then { e with claimants := insertSlot s i e.claimants } else e) ++
        (newLines s t).map fun l => ⟨l, .reserved, .stopped, [i], []⟩ } := by
  unfold issueReserved
  rw [if_pos h, reserveNotices_eq]

/-- A classification of an adaptive bank, by the behaviour it has. -/
theorem classify_cases (s : State) (b : Bank) (row : Nat) :
    let raised := min 7 (b.streak + 1)
    let adaptive (c : Bank) : Prop := s.settings.rows.policy = .adaptive → classify s b (some row) = c
    (s.settings.rows.policy ≠ .adaptive → classify s b (some row) = b) ∧
    (b.behaviour = .keep →
      (b.state = .openRow → b.row = some row → adaptive { b with streak := 0 }) ∧
      (b.state = .openRow → b.row ≠ some row →
        (raised < s.settings.rows.missStreak → adaptive { b with streak := raised }) ∧
        (s.settings.rows.missStreak ≤ raised → adaptive { b with behaviour := .close, streak := 0 })) ∧
      (b.state ≠ .openRow → adaptive b)) ∧
    (b.behaviour = .close →
      (b.lastRow = some row →
        (raised < s.settings.rows.hitStreak → adaptive { b with streak := raised }) ∧
        (s.settings.rows.hitStreak ≤ raised → adaptive { b with behaviour := .keep, streak := 0 })) ∧
      (b.lastRow ≠ some row → adaptive { b with streak := 0 })) := by
  intro raised adaptive
  refine ⟨classify_of_not_adaptive, fun hk => ⟨fun hst hrow hp => ?_, fun hst hrow => ⟨fun hlt hp => ?_,
    fun hle hp => ?_⟩, fun hst hp => ?_⟩, fun hk => ⟨fun hrow => ⟨fun hlt hp => ?_, fun hle hp => ?_⟩,
    fun hrow hp => ?_⟩⟩
  · rw [classify_keep hp hk, if_pos hst, if_pos hrow]
  · rw [classify_keep hp hk, if_pos hst, if_neg hrow, if_neg (Nat.not_le.mpr hlt)]
  · rw [classify_keep hp hk, if_pos hst, if_neg hrow, if_pos hle]
  · rw [classify_keep hp hk, if_neg hst]
  · rw [classify_close hp hk, if_pos hrow, if_neg (Nat.not_le.mpr hlt)]
  · rw [classify_close hp hk, if_pos hrow, if_pos hle]
  · rw [classify_close hp hk, if_neg hrow]

/-- Settles O21: the issue is followed part by part, and the choice and the grant do not look at the event. -/
theorem issueStartsService : Obligations.IssueStartsService := by
  unfold Obligations.IssueStartsService
  refine ⟨fun s pos i t b hg hc hb => ?_, classify_cases, fun i n t => ⟨rfl, rfl, rfl, rfl, rfl, rfl,
    planService_read, planService_write⟩, fun s hg => idles_of (exec_issue s) (by rw [hg]; rfl)⟩
  have hs : slotAt (beginEvent s) i = some t := (choice_spec hc).1
  have hempty := completeEmpty_issued hs (show bankAt (beginEvent s) pos = some b from hb)
    (show warmReset s = false from warmReset_of_grant hg)
  have hframe := issued_frame (beginEvent s) pos i t
  refine ⟨issued (beginEvent s) pos i t, onChannel t, ?_, slotAt_issued_self hs, rfl,
    fun j w hj h => slotAt_issued_other (s := beginEvent s) hj h,
    fun j h => slotAt_issued_none (s := beginEvent s) hs h, ?_, issued_banks (beginEvent s) pos i t,
    openRowList_issued_rank (beginEvent s) pos i t, openRowList_issued_other (beginEvent s) pos i t, ?_,
    fun hw => ?_, fun hw => ?_, ?_⟩
  · exact hempty ▸ answers_issue hg hc
  · conv_lhs => rw [hframe]
    rfl
  · conv_lhs => rw [hframe]
    rfl
  · rw [hframe]
    exact issueReserved_of_read (s := beginEvent s) hw
  · rw [hframe]
    have hnotices := issueReserved_of_write (s := beginEvent s) (i := i) hw
    simp only [insertSlot_beginEvent] at hnotices
    exact hnotices
  · conv_lhs => rw [hframe]
    conv_rhs => rw [hframe]

end Sys2Proof.Machine
end


section
/-! SUPPORT. The channel path from one state to the next: a transaction in QUEUED, ACCESS or MERGE was there
before, in the same state, of the same link and with the same epoch, except at an intake step and at an issue. -/

namespace Sys2Proof.Machine

/-! ## What the tests of an event look at -/

theorem anyOnPath_iff {s : State} : anyOnPath s = true ↔
    ∃ i t, slotAt s i = some t ∧ onChannelPath t = true := by
  simp [anyOnPath, mem_liveSlots]

theorem anyInFlight_iff {s : State} : anyInFlight s = true ↔
    ∃ i t, slotAt s i = some t ∧ inFlight t = true := by
  simp [anyInFlight, mem_liveSlots]

theorem anyOnPath_congr {s t : State} (h : t.table = s.table) : anyOnPath t = anyOnPath s := by
  simp [anyOnPath, liveSlots, h]

theorem anyInFlight_congr {s t : State} (h : t.table = s.table) : anyInFlight t = anyInFlight s := by
  simp [anyInFlight, liveSlots, h]

theorem onChannelPath_iff {t : Txn} : onChannelPath t = true ↔
    t.state = .queued ∨ t.state = .access ∨ t.state = .merge := by
  simp [onChannelPath, or_assoc]

theorem inFlight_iff {t : Txn} : inFlight t = true ↔ t.state = .access ∨ t.state = .merge := by
  simp [inFlight]

/-! ## Records on the path -/

/-- A record on the channel path was there before, in the same state, of the same link and epoch. -/
def abides (t t' : Txn) : Prop :=
  onChannelPath t' = true → t'.state = t.state ∧ t'.link = t.link ∧ t'.epoch = t.epoch

theorem abides_refl (t : Txn) : abides t t := fun _ => ⟨rfl, rfl, rfl⟩

theorem abides_trans {t u v : Txn} (h : abides t u) (h' : abides u v) : abides t v := by
  intro hv
  obtain ⟨hs, hl, he⟩ := h' hv
  obtain ⟨gs, gl, ge⟩ := h (by simpa [onChannelPath, hs] using hv)
  exact ⟨hs.trans gs, hl.trans gl, he.trans ge⟩

theorem abides_of_eq {t t' : Txn} (hs : t'.state = t.state) (hl : t'.link = t.link)
    (he : t'.epoch = t.epoch) : abides t t' := fun _ => ⟨hs, hl, he⟩

theorem abides_of_off {t t' : Txn} (h : onChannelPath t' = false) : abides t t' := by
  intro hp; rw [h] at hp; cases hp

/-- The slots of `u` abide by those of `s`. -/
abbrev pathFollows (s u : State) : Prop := slotsFollow abides s u

theorem pathFollows.then {s u v : State} (h : pathFollows s u) (h' : pathFollows u v) :
    pathFollows s v :=
  slotsFollow.trans (R := abides) (fun _ _ _ => abides_trans) h h'

theorem pathFollows_of_slots {s u : State} (h : u.table.slots = s.table.slots) : pathFollows s u := by
  refine ⟨fun hl => by rw [slotsLaw, h]; exact hl, fun i t ht => ⟨t, ?_, abides_refl t⟩⟩
  rw [slotAt, h] at ht; exact ht

theorem pathFollows_of_table {s u : State} (h : u.table = s.table) : pathFollows s u :=
  pathFollows_of_slots (by rw [h])

theorem pathFollows_refl (s : State) : pathFollows s s := pathFollows_of_table rfl

theorem pathFollows_foldl {β : Type} (f : State → β → State) (h : ∀ s b, pathFollows s (f s b)) :
    ∀ (l : List β) (s : State), pathFollows s (l.foldl f s)
  | [], s => pathFollows_refl s
  | b :: l, s => (h s b).then (pathFollows_foldl f h l (f s b))

theorem pathFollows_empty {s u : State} (h : u.table = emptyTable) : pathFollows s u := by
  refine ⟨fun _ => by rw [slotsLaw, h]; rfl, fun i t ht => ?_⟩
  rw [table_empty u h] at ht; cases ht

/-! ## The operations on slots -/

theorem pathFollows_setSlot (s : State) (i : Nat) (o : Option Txn)
    (h : ∀ t', o = some t' → ∃ t, slotAt s i = some t ∧ abides t t') : pathFollows s (setSlot s i o) :=
  slotsFollow_setSlot abides_refl s i o h

theorem pathFollows_modSlot (s : State) (i : Nat) (f : Txn → Txn)
    (h : ∀ t, slotAt s i = some t → abides t (f t)) : pathFollows s (modSlot s i f) := by
  refine pathFollows_setSlot s i _ fun t' ht => ?_
  obtain ⟨t, hi, rfl⟩ := Option.map_eq_some_iff.mp ht
  exact ⟨t, hi, h t hi⟩

theorem pathFollows_freeTxn (s : State) (i : Nat) : pathFollows s (freeTxn s i) :=
  pathFollows_setSlot s i none (by simp)

theorem pathFollows_enterReply (s : State) (i : Nat) (st : MemStatus) :
    pathFollows s (enterReply s i st) := by
  cases h : slotAt s i with
  | none => exact pathFollows_of_table (by simp [enterReply, h])
  | some t =>
    unfold enterReply
    rw [h]
    exact (pathFollows_setSlot s i (some { t with
      state := .reply, status := some st, replySince := s.event })
      (by rintro _ ⟨⟩; exact ⟨t, h, abides_of_off rfl⟩)).then (pathFollows_of_slots rfl)

theorem pathFollows_finish (s : State) (i : Nat) (st : MemStatus) : pathFollows s (finish s i st) := by
  unfold finish
  split
  · exact pathFollows_refl s
  · split
    · exact pathFollows_freeTxn s i
    · exact pathFollows_enterReply s i st

theorem pathFollows_settleFence (s : State) (x : Link) : pathFollows s (settleFence s x) := by
  unfold settleFence; split
  · exact pathFollows_refl s
  · exact pathFollows_enterReply _ _ _

theorem pathFollows_reexamine (s : State) (gone : List Nat) : pathFollows s (reexamine s gone) := by
  refine ⟨(calms_reexamine s gone).1, fun i t' ht => ?_⟩
  rw [slotAt_reexamine] at ht
  obtain ⟨t, hi, rfl⟩ := Option.map_eq_some_iff.mp ht
  refine ⟨t, hi, ?_⟩
  cases t.pred with
  | none => exact abides_refl t
  | some p => dsimp only; split <;> exact abides_of_eq rfl rfl rfl

theorem pathFollows_leaveNotify (s : State) (i : Nat) : pathFollows s (leaveNotify s i) := by
  unfold leaveNotify; split
  · exact pathFollows_refl s
  · exact pathFollows_finish _ _ _

theorem pathFollows_dropWait (y : Link) (late : Bool) (s : State) (i : Nat) :
    pathFollows s (dropWait y late s i) := by
  have hstale : pathFollows s (if late then modSlot s i fun t => { t with stale := true } else s) := by
    split
    · exact pathFollows_modSlot s i _ fun t _ => abides_of_eq rfl rfl rfl
    · exact pathFollows_refl s
  have hleave : ∀ u, pathFollows u (if waitsLeft u y i then u else leaveNotify u i) := by
    intro u; split
    · exact pathFollows_refl u
    · exact pathFollows_leaveNotify u i
  exact hstale.then (hleave _)

theorem pathFollows_dropWaiters (s : State) (y : Link) (line : Nat) (late : Bool) :
    pathFollows s (dropWaiters s y line late) := by
  unfold dropWaiters
  exact (pathFollows_of_table (by simp)).then (pathFollows_foldl _ (pathFollows_dropWait y late) _ _)

theorem pathFollows_discardTarget (s : State) (y : Link) : pathFollows s (discardTarget s y) := by
  have hentry : ∀ u l, pathFollows u (discardEntry y u l) := fun u l =>
    (pathFollows_dropWaiters u y l false).then (pathFollows_of_table (modTarget_frame ..).2.1)
  exact (pathFollows_foldl (discardEntry y) hentry _ s).then
    (pathFollows_of_table (modTarget_frame ..).2.1)

/-! ## Ordering points and lock entries -/

theorem pathFollows_orderingPoint (s : State) (i : Nat) : pathFollows s (orderingPoint s i) := by
  cases h : slotAt s i with
  | none => exact pathFollows_of_slots (by simp [orderingPoint, h])
  | some t =>
    rw [orderingPoint_eq h]
    refine (pathFollows_setSlot s i (some { t with
      transNo := some s.table.transCounter
      pred := choosePred s i { t with transNo := none }
      lockWait := none }) ?_).then (pathFollows_of_slots rfl)
    rintro _ ⟨⟩
    exact ⟨t, h, abides_of_eq rfl rfl rfl⟩

theorem pathFollows_waitOn (s : State) (i b : Nat) : pathFollows s (waitOn s i b) :=
  pathFollows_modSlot s i _ fun _ _ => abides_of_eq rfl rfl rfl

theorem pathFollows_reexamineWaiter (s : State) (i : Nat) : pathFollows s (reexamineWaiter s i) := by
  unfold reexamineWaiter
  split
  · exact pathFollows_refl s
  · split
    · split
      · exact pathFollows_waitOn s i _
      · exact pathFollows_waitOn s i _
      · exact (pathFollows_of_table (takeLock_frame ..).2.1).then (pathFollows_orderingPoint _ i)
    · split
      · exact pathFollows_waitOn s i _
      · exact pathFollows_orderingPoint s i

theorem pathFollows_removeLocks (s : State) (which : LockEntry → Bool) :
    pathFollows s (removeLocks s which) := by
  refine pathFollows.then (pathFollows_of_slots ?_) (pathFollows_foldl _ pathFollows_reexamineWaiter _ _)
  rfl

theorem pathFollows_removeLock (s : State) (b : Nat) : pathFollows s (removeLock s b) :=
  pathFollows_removeLocks s _

/-! ## The completion of DRAM work -/

theorem pathFollows_releaseBank (s : State) (pos : Nat) : pathFollows s (releaseBank s pos) :=
  pathFollows_of_table (by simp)

theorem pathFollows_closeService (s : State) (pos i : Nat) : pathFollows s (closeService s pos i) :=
  (pathFollows_reexamine s [i]).then (pathFollows_of_table (afterAccess_frame ..).2.1)

theorem pathFollows_settleLockRead (s : State) (i : Nat) (st : MemStatus) :
    pathFollows s (settleLockRead s i st) := by
  unfold settleLockRead
  split
  · exact pathFollows_refl s
  · split
    · exact pathFollows_removeLock s _
    · exact pathFollows_of_table (by simp)

theorem pathFollows_settleLockWrite (s : State) (i : Nat) : pathFollows s (settleLockWrite s i) := by
  unfold settleLockWrite; split
  · exact pathFollows_refl s
  · exact pathFollows_removeLock s _

theorem pathFollows_completeRead (s : State) (pos i : Nat) (t : Txn)
    (got : List (Nat × BlockStatus × Block)) : pathFollows s (completeRead s pos i t got) := by
  unfold completeRead; dsimp only
  refine pathFollows.then ?_ (pathFollows_closeService _ pos i)
  refine pathFollows.then ?_ (pathFollows_settleLockRead _ i _)
  refine pathFollows.then ?_ (pathFollows_finish _ i _)
  refine pathFollows.then ?_ (pathFollows_of_table (forgetRecent_frame _ _ _).2.1)
  exact (pathFollows_of_table (by simp)).then
    (pathFollows_modSlot _ i _ fun t _ => abides_of_eq rfl rfl rfl)

theorem pathFollows_leaveChannel (s : State) (y : Link) (i : Nat) :
    pathFollows s (leaveChannel s y i) := by
  unfold leaveChannel; split
  · exact pathFollows_modSlot s i _ fun t _ => abides_of_off rfl
  · exact pathFollows_finish s i _

theorem pathFollows_completeWrite (s : State) (pos i : Nat) (t : Txn) :
    pathFollows s (completeWrite s pos i t) := by
  unfold completeWrite; dsimp only
  refine pathFollows.then ?_ (pathFollows_closeService _ pos i)
  refine pathFollows.then ?_ (pathFollows_settleLockWrite _ i)
  exact (pathFollows_of_table (by simp)).then (pathFollows_leaveChannel _ _ i)

theorem pathFollows_failMerge (s : State) (pos i : Nat) (t : Txn) :
    pathFollows s (failMerge s pos i t) := by
  unfold failMerge; dsimp only
  refine pathFollows.then ?_ (pathFollows_closeService _ pos i)
  refine pathFollows.then ?_ (pathFollows_settleLockWrite _ i)
  refine pathFollows.then ?_ (pathFollows_finish _ i _)
  exact (pathFollows_of_table (by simp)).then
    (pathFollows_modSlot _ i _ fun t _ => abides_of_eq rfl rfl rfl)

theorem pathFollows_reportWrite (s : State) (pos i : Nat) : pathFollows s (reportWrite s pos i) := by
  unfold reportWrite; split
  · exact pathFollows_releaseBank s pos
  · split
    · exact pathFollows_releaseBank s pos
    · exact pathFollows_completeWrite s pos i _

theorem pathFollows_completeEmpty (s : State) (pos : Nat) : pathFollows s (completeEmpty s pos) := by
  unfold completeEmpty; split
  · exact pathFollows_refl s
  · split
    · exact pathFollows_refl s
    · split
      · exact pathFollows_reportWrite s pos _
      · exact pathFollows_refl s

theorem pathFollows_afterLastRead (s : State) (pos : Nat) (v : Service) (t : Txn) :
    pathFollows s (afterLastRead s pos v t) := by
  unfold afterLastRead; split
  · exact pathFollows_releaseBank s pos
  · split
    · exact pathFollows_completeRead s pos _ t _
    · split
      · exact pathFollows_failMerge s pos _ t
      · exact pathFollows_of_table (by simp)

/-! ## Own effects -/

theorem pathFollows_ownActivation (s : State) (pos : Nat) : pathFollows s (ownActivation pos s) := by
  unfold ownActivation; split
  · exact pathFollows_of_table (by simp)
  · exact (pathFollows_of_table (by simp)).then (pathFollows_completeEmpty _ pos)

theorem pathFollows_ownWriteColumn (s : State) (pos : Nat) : pathFollows s (ownWriteColumn pos s) := by
  unfold ownWriteColumn; split
  · exact pathFollows_refl s
  · split
    · refine (pathFollows_of_slots ?_).then (pathFollows_reportWrite _ pos _)
      rfl
    · exact pathFollows_of_slots rfl

theorem pathFollows_ownData (es : List ErrMask) (s : State) : pathFollows s (ownData es s) := by
  unfold ownData; split
  · exact pathFollows_refl s
  · dsimp only
    have htaken := fun r v t => pathFollows_of_table (dataTaken_frame es s r v t).2.1
    split
    · exact (htaken _ _ _).then (pathFollows_afterLastRead _ _ _ _)
    · exact htaken _ _ _

theorem pathFollows_ownNoticeAck (s : State) (x : Link) (n : Byte) :
    pathFollows s (ownNoticeAck x n s) := by
  unfold ownNoticeAck; split
  · exact pathFollows_of_table (by simp)
  · rename_i line _
    exact (pathFollows_dropWaiters s x line false).then (pathFollows_of_table (by simp))

theorem pathFollows_ownNoticeExpiry (s : State) (y : Link) (n : Byte) :
    pathFollows s (ownNoticeExpiry y n s) := by
  unfold ownNoticeExpiry; split
  · exact pathFollows_refl s
  · rename_i line _
    exact (pathFollows_dropWaiters s y line true).then (pathFollows_of_table (by simp))

theorem pathFollows_ownLockExpiry (s : State) (b : Nat) : pathFollows s (ownLockExpiry b s) := by
  unfold ownLockExpiry; split
  · exact pathFollows_refl s
  · exact (pathFollows_of_table (by simp)).then (pathFollows_removeLock _ b)

theorem pathFollows_handResponse (s : State) (x : Link) : pathFollows s (handResponse x s) := by
  unfold handResponse; split
  · exact pathFollows_refl s
  · split
    · exact pathFollows_refl s
    · refine pathFollows.then ?_ (pathFollows_settleFence _ x)
      exact ((pathFollows_of_table (by simp)).then (pathFollows_freeTxn _ _)).then
        (pathFollows_of_slots rfl)

/-- At a link reset a slot that stays on the path becomes an orphan there. -/
theorem abides_of_resetSlot {x : Link} {o : Option Txn} {t' : Txn} (h : resetSlot x o = some t') :
    ∃ t, o = some t ∧ abides t t' := by
  cases o with
  | none => cases h
  | some t =>
    refine ⟨t, rfl, ?_⟩
    simp only [resetSlot] at h
    split at h
    · split at h
      · cases h
      · cases h; exact abides_of_eq rfl rfl rfl
    · cases h; exact abides_refl _

theorem pathFollows_tableLinkReset (s : State) (x : Link) : pathFollows s (tableLinkReset s x) := by
  unfold tableLinkReset
  refine pathFollows.then ⟨fun hl => by simpa [slotsLaw] using hl, fun i t' ht => ?_⟩
    (pathFollows_reexamine _ _)
  rw [slotAt_resetSlots s _ x rfl] at ht
  exact abides_of_resetSlot (x := x) ht

theorem pathFollows_resetBlocks (s : State) (x : Link) (cause : Cause) :
    pathFollows s (resetBlocks s x cause) := by
  unfold resetBlocks; dsimp only
  refine pathFollows.then ?_ (pathFollows_of_table (tenureLinkReset_frame _ _).2.1)
  refine pathFollows.then ?_ (pathFollows_of_table (mgmtLinkReset_frame _ _).2.1)
  refine pathFollows.then ?_ (pathFollows_discardTarget _ x)
  refine pathFollows.then ?_ (pathFollows_removeLocks _ _)
  exact (pathFollows_of_table (by simp)).then (pathFollows_tableLinkReset _ x)

/-- Every command but a request, an intake step, an issue and a management packet: what it leaves on the path
was there before. -/
theorem pathFollows_ownEffect (c : Instr) (s : State) (hm : mgmtOf c = none) (hr : requestOf c = none)
    (hi : ∀ x, c ≠ .intakeStep x) (hg : c ≠ .issue) : pathFollows s (ownEffect c s) := by
  cases c
  case intakeStep x => exact absurd rfl (hi x)
  case issue => exact absurd rfl hg
  case coldReset | resetPoint => exact pathFollows_empty rfl
  case activationComplete pos => exact pathFollows_ownActivation s pos
  case readColumnDataArrival => exact pathFollows_ownData _ s
  case writeColumnSent pos => exact pathFollows_ownWriteColumn s pos
  case noticeAck x _ n => exact pathFollows_ownNoticeAck s x n
  case noticeTimerExpiry y n => exact pathFollows_ownNoticeExpiry s y n
  case lockHoldExpiry b => exact pathFollows_ownLockExpiry s b
  case sendResponse x => exact pathFollows_handResponse s x
  case train x _ _ seen =>
    simp only [ownEffect, ownTrain]; (repeat' split)
    · exact pathFollows_of_table (by simp)
    · exact pathFollows_of_table (by simp)
    · exact pathFollows_resetBlocks s x _
  case linkReset x => exact pathFollows_resetBlocks s x _
  case retryTimerExpiry x =>
    simp only [ownEffect, ownRetry]; split
    · exact pathFollows_of_table (by simp)
    · exact (pathFollows_of_table (by simp)).then (pathFollows_resetBlocks _ x _)
  case replayTimerExpiry x =>
    simp only [ownEffect, ownReplay]; split
    · exact pathFollows_of_table (by simp)
    · exact (pathFollows_of_table (by simp)).then (pathFollows_resetBlocks _ x _)
  case read | write | lockRead | lockWrite | lockDrop | fence => cases hr
  case mgmtRead | mgmtWrite | writeTenureMode | writeRefreshMode | writeForceLevel | writeCueLink |
      writeFilterEnable | writeCreditLimit | writeAlertLink | writeLease | writeCorrThreshold |
      writeOpenLimit | tableRead | tableWrite | tableRevert | tableCommit | claim | release |
      channelStart | channelQuiesce | channelResume | hubReset => cases hm
  case startSequenceEnd =>
    exact pathFollows_of_table (by simp [ownEffect, ownStartEnd])
  case resumeSequenceEnd =>
    simp only [ownEffect, ownResumeEnd]; split <;> exact pathFollows_of_table (by simp)
  all_goals exact pathFollows_of_table (by simp [ownEffect, effectOf])

end Sys2Proof.Machine
end


section
/-! PROOFS. One epoch on the channel path (02 R39, R40): every command's own effect and the consequences of its
event keep the law. -/

namespace Sys2Proof.Machine

/-! ## How the law is kept -/

theorem epochLaw_of_noPath {s : State} (h : anyOnPath s = false) : epochLaw s := by
  intro i t ht hp
  rw [anyOnPath_iff.mpr ⟨i, t, ht, hp⟩] at h; cases h

theorem serves_of_epochLaw {s : State} (hs : epochLaw s) (h : anyOnPath s = true) :
    channelServes s = true := by
  obtain ⟨i, t, ht, hp⟩ := anyOnPath_iff.mp h
  exact (hs i t ht hp).2

/-- The path, the epoch and the service of the channel from one state to the next. -/
structure pathStands (s u : State) : Prop where
  slots : pathFollows s u
  epoch : u.xlate.epoch = s.xlate.epoch
  serves : channelServes s = true → channelServes u = true

theorem pathStands.epochLaw {s u : State} (h : pathStands s u) (hs : epochLaw s) : epochLaw u := by
  intro i t' ht hp
  obtain ⟨t, hi, habides⟩ := h.slots.2 i t' ht
  obtain ⟨hst, -, he⟩ := habides hp
  obtain ⟨hepoch, hserves⟩ := hs i t hi (by simpa [onChannelPath, hst] using hp)
  exact ⟨by rw [he, hepoch, h.epoch], h.serves hserves⟩

theorem pathStands.of_frame {s u : State} (h : pathFollows s u) (hx : u.xlate = s.xlate)
    (hc : u.chan = s.chan) : pathStands s u :=
  ⟨h, by rw [hx], by simp [channelServes, hc]⟩

/-- Where the table, the epoch and the state of the channel are the same, so is the law. -/
theorem epochLaw_same {s u : State} (ht : u.table = s.table) (he : u.xlate.epoch = s.xlate.epoch)
    (hc : u.chan.state = s.chan.state) (hs : epochLaw s) : epochLaw u :=
  pathStands.epochLaw ⟨pathFollows_of_table ht, he, by simp [channelServes, hc]⟩ hs

/-! ## The consequences of an event -/

theorem settleCommit_stays {s : State} (h : anyOnPath s = true) : settleCommit s = s := by
  simp [settleCommit, h]

theorem selfRefreshReady_onPath {s : State} (h : anyOnPath s = true) : selfRefreshReady s = false := by
  simp [selfRefreshReady, h]

theorem settleAwake_table (s : State) : (settleAwake s).table = s.table := by simp [settleAwake]

theorem settleAwake_state (s : State) : (settleAwake s).chan.state = s.chan.state := by
  simp [settleAwake]

/-- With a transaction on the path no event switches the tables or ends a quiesce (02 R40; 08 R134). -/
theorem settle_onPath {s : State} (h : anyOnPath s = true) :
    (settle s).xlate = s.xlate ∧ (settle s).chan.state = s.chan.state := by
  have hsleep : selfRefreshReady (settleAwake s) = false :=
    selfRefreshReady_onPath ((anyOnPath_congr (settleAwake_table s)).trans h)
  constructor
  · simp [settle, settleCommit_stays h]
  · rw [settle_eq, settleSleep, hsleep]
    exact (warmSleep_state _).1.trans (settleAwake_state s)

theorem epochLaw_settle {s : State} (hs : epochLaw s) : epochLaw (settle s) := by
  cases h : anyOnPath s with
  | false => exact epochLaw_of_noPath ((anyOnPath_congr (settle_frame s).2.1).trans h)
  | true =>
    obtain ⟨hx, hc⟩ := settle_onPath h
    exact epochLaw_same (settle_frame s).2.1 (by rw [hx]) hc hs

/-! ## Requests, intake and issue -/

theorem epochLaw_arriveRequest {s : State} {r : Txn} (h : r.state = .intake) (hs : epochLaw s) :
    epochLaw (arriveRequest r s) := by
  intro i t ht hp
  have hserves : channelServes (arriveRequest r s) = channelServes s := by simp [channelServes]
  rw [(arriveRequest_frame s r).2.1, hserves]
  rcases slotAt_arriveRequest ht with h' | ⟨-, -, -, rfl⟩
  · exact hs i t h' hp
  · simp [onChannelPath, h] at hp

/-- A record that enters QUEUED with the current epoch, in RUN. -/
theorem epochLaw_enterQueued {s : State} {i : Nat} (hs : epochLaw s) (hrun : s.chan.state = .run)
    (he : ∀ t, slotAt s i = some t → t.epoch = some s.xlate.epoch) : epochLaw (enterQueued s i) := by
  intro j t' ht hp
  have hserves : channelServes (enterQueued s i) = true := by simp [channelServes, hrun]
  have hx : (enterQueued s i).xlate = s.xlate := (enterQueued_frame s i).2.1
  refine ⟨?_, hserves⟩
  rw [hx]
  unfold enterQueued at ht
  rw [slotAt_modSlot] at ht
  split at ht
  · obtain ⟨t, hi, rfl⟩ := Option.map_eq_some_iff.mp ht
    exact he t hi
  · exact (hs j t' ht hp).1

theorem epochLaw_queueFree {s : State} {i : Nat} (hs : epochLaw s) (hrun : s.chan.state = .run)
    (he : ∀ t, slotAt s i = some t → t.epoch = some s.xlate.epoch) : epochLaw (queueFree s i) :=
  (pathStands.of_frame (pathFollows_orderingPoint (enterQueued s i) i)
    (orderingPoint_frame ..).2.1 (by simp)).epochLaw (epochLaw_enterQueued hs hrun he)

theorem epochLaw_queueBlocked {s : State} {i b : Nat} (hs : epochLaw s) (hrun : s.chan.state = .run)
    (he : ∀ t, slotAt s i = some t → t.epoch = some s.xlate.epoch) : epochLaw (queueBlocked s i b) :=
  (pathStands.of_frame (pathFollows_waitOn (enterQueued s i) i b)
    (waitOn_frame ..).2.1 (by simp)).epochLaw (epochLaw_enterQueued hs hrun he)

theorem epochLaw_enterReply {s : State} (i : Nat) (st : MemStatus) (hs : epochLaw s) :
    epochLaw (enterReply s i st) :=
  (pathStands.of_frame (pathFollows_enterReply s i st) (enterReply_frame ..).2.1 (by simp)).epochLaw hs

/-- A translated request goes on in RUN with the epoch that the Translation Unit recorded. -/
theorem epochLaw_placeRequest {s : State} {i : Nat} (t : Txn) (p : Nat) (hs : epochLaw s)
    (hrun : s.chan.state = .run)
    (he : ∀ t, slotAt s i = some t → t.epoch = some s.xlate.epoch) :
    epochLaw (placeRequest s i t p) := by
  have hlocks : ∀ u : State, u.table = s.table → u.xlate = s.xlate → u.chan = s.chan →
      epochLaw (queueFree u i) := fun u ht hx hc =>
    epochLaw_queueFree (epochLaw_same ht (by rw [hx]) (by rw [hc]) hs) (by rw [hc, hrun])
      fun v hv => by rw [slotAt_congr ht] at hv; rw [hx]; exact he v hv
  unfold placeRequest
  split
  · unfold placeLockRead
    (repeat' split)
    · exact epochLaw_enterReply i _ hs
    · exact epochLaw_enterReply i _ hs
    · exact epochLaw_queueBlocked hs hrun he
    · exact hlocks _ (by simp) (by simp) (by simp)
  · unfold placeLockWrite; split
    · exact hlocks _ (by simp) (by simp) (by simp)
    · exact epochLaw_enterReply i _ hs
  · unfold placeLockDrop; split
    · exact epochLaw_enterReply i _ ((pathStands.of_frame (pathFollows_removeLock s p)
        (removeLock_frame ..).2.1 (by simp)).epochLaw hs)
    · exact epochLaw_enterReply i _ hs
  · unfold placeAccess; split
    · exact epochLaw_queueBlocked hs hrun he
    · exact epochLaw_queueFree hs hrun he

/-- The record of a slot in INTAKE is replaced by one that is not on the path. -/
theorem epochLaw_setSlot {s : State} {i : Nat} {t : Txn} (h : onChannelPath t = false)
    (hs : epochLaw s) : epochLaw (setSlot s i (some t)) := by
  intro j u hu hp
  rw [slotAt_setSlot] at hu
  split at hu
  · cases hu; rw [h] at hp; cases hp
  · exact hs j u hu hp

theorem epochLaw_consult {s : State} {i : Nat} {t : Txn} (hst : t.state = .intake)
    (hrun : s.chan.state = .run) (hs : epochLaw s) : epochLaw (consult s i t) := by
  unfold consult; dsimp only; split
  · exact epochLaw_enterReply i _ (epochLaw_setSlot (by simp [onChannelPath, hst]) hs)
  · refine epochLaw_placeRequest _ _ (epochLaw_setSlot (by simp [onChannelPath, hst]) hs) (by simp [hrun]) ?_
    intro u hu
    rw [slotAt_setSlot] at hu
    split at hu
    · cases hu; simp
    · rename_i hno
      have := lt_of_slotAt hu
      exact absurd ⟨rfl, this⟩ hno

theorem epochLaw_placeFence {s : State} {i : Nat} {t : Txn} (hs : epochLaw s) :
    epochLaw (placeFence s i t) :=
  (pathStands.of_frame (pathFollows_settleFence _ t.link) (settleFence_frame ..).2.1
    (by simp)).epochLaw (epochLaw_setSlot (t := { t with state := .fenceWait }) rfl hs)

theorem epochLaw_intakeStep {s : State} {i : Nat} {t : Txn} (hst : t.state = .intake) (hs : epochLaw s) :
    epochLaw (intakeStep s i t) := by
  unfold intakeStep
  split_ifs with hmal htag hfence hrun halign
  · exact epochLaw_enterReply i _ hs
  · exact epochLaw_enterReply i _ hs
  · exact epochLaw_placeFence hs
  · exact epochLaw_enterReply i _ hs
  · exact epochLaw_enterReply i _ hs
  · exact epochLaw_consult hst (not_not.mp hrun) hs

theorem epochLaw_ownIntake {s : State} (x : Link) (hs : epochLaw s) : epochLaw (ownIntake x s) := by
  unfold ownIntake; split
  · exact hs
  · rename_i p hp
    obtain ⟨-, -, hst, -⟩ := intakeReady_spec (i := p.1) (t := p.2) hp
    exact epochLaw_intakeStep hst hs

/-- A transaction that is issued was QUEUED, and stays on the path with its epoch. -/
theorem epochLaw_issued {s : State} {pos i : Nat} {t : Txn} (h : slotAt s i = some t)
    (hst : t.state = .queued) (hs : epochLaw s) : epochLaw (issued s pos i t) := by
  have hframe := issued_frame s pos i t
  have hx : (issued s pos i t).xlate = s.xlate := by rw [hframe]
  have hserves : channelServes (issued s pos i t) = channelServes s := by rw [hframe]; rfl
  intro j u hu hp
  rw [hx, hserves]
  by_cases hj : j = i
  · subst hj
    rw [slotAt_issued_self h] at hu
    cases hu
    exact hs j t h (by simp [onChannelPath, hst])
  · cases hw : slotAt s j with
    | none => rw [slotAt_issued_none h hw] at hu; cases hu
    | some w =>
      rw [slotAt_issued_other hj hw] at hu
      cases hu
      exact hs j w hw hp

theorem epochLaw_ownIssue {s : State} (hs : epochLaw s) : epochLaw (ownIssue s) := by
  unfold ownIssue
  cases grantee s with
  | none => exact hs
  | some pos =>
    dsimp only
    cases hc : choice s pos with
    | none => exact hs
    | some p =>
      obtain ⟨hslot, heligible⟩ := choice_spec (i := p.1) (t := p.2) hc
      exact (pathStands.of_frame (pathFollows_completeEmpty _ pos) (completeEmpty_frame ..).1
        (by simp)).epochLaw (epochLaw_issued hslot (queued_of_eligible heligible) hs)

/-! ## Management packets -/

/-- An effect of a management packet that leaves the epoch. -/
def leavesEpoch (effect : State → State × Decision) : Prop :=
  ∀ s, (effect s).1.xlate.epoch = s.xlate.epoch

theorem leavesEpoch_withClaim {x : Link} {effect : State → State × Decision} (h : leavesEpoch effect) :
    leavesEpoch fun s => withClaim s x effect := by
  intro s
  dsimp only [withClaim]; split
  · exact h s
  · rfl

theorem leavesEpoch_writeChecked (f : Field) (v : BitVec 32) : leavesEpoch (writeChecked f v) := by
  intro s
  unfold writeChecked
  split_ifs <;> simp [refusal, okReply]

theorem leavesEpoch_mgmtReadEffect (r f : Byte) : leavesEpoch (mgmtReadEffect r f) := by
  intro s
  unfold mgmtReadEffect; split <;> rfl

theorem leavesEpoch_mgmtWriteEffect (x : Link) (r f : Byte) (v : BitVec 32) :
    leavesEpoch (mgmtWriteEffect x r f v) := by
  refine leavesEpoch_withClaim fun s => ?_
  cases fieldOf r f with
  | none => rfl
  | some f => exact leavesEpoch_writeChecked f v s

theorem leavesEpoch_tableReadEffect (a b d : Byte) : leavesEpoch (tableReadEffect a b d) := by
  intro s
  unfold tableReadEffect; split <;> rfl

theorem leavesEpoch_tableWriteEffect (x : Link) (a b : Byte) (e : BitVec 96) :
    leavesEpoch (tableWriteEffect x a b e) := by
  refine leavesEpoch_withClaim fun s => ?_
  cases tableIndex a b with
  | none => rfl
  | some p =>
    dsimp only
    split
    · rfl
    · cases writeEntry s.xlate.shadow p.1 p.2 e <;> rfl

theorem leavesEpoch_tableRevertEffect (x : Link) : leavesEpoch (tableRevertEffect x) := by
  refine leavesEpoch_withClaim fun s => ?_
  split_ifs <;> rfl

theorem leavesEpoch_claimEffect (x : Link) : leavesEpoch (claimEffect x) := by
  intro s
  unfold claimEffect; split_ifs <;> rfl

theorem epoch_freeClaim (s : State) : (freeClaim s).xlate.epoch = s.xlate.epoch := by
  unfold freeClaim revertAtFreeing; dsimp only; split_ifs <;> rfl

theorem leavesEpoch_releaseEffect (x : Link) : leavesEpoch (releaseEffect x) := by
  intro s
  unfold releaseEffect; split_ifs
  · exact epoch_freeClaim s
  · rfl

theorem leavesEpoch_channelStartEffect (x : Link) : leavesEpoch (channelStartEffect x) := by
  refine leavesEpoch_withClaim fun s => ?_
  split_ifs <;> rfl

theorem leavesEpoch_channelQuiesceEffect (x : Link) : leavesEpoch (channelQuiesceEffect x) := by
  refine leavesEpoch_withClaim fun s => ?_
  split_ifs <;> rfl

theorem leavesEpoch_channelResumeEffect (x : Link) : leavesEpoch (channelResumeEffect x) := by
  refine leavesEpoch_withClaim fun s => ?_
  split_ifs <;> simp [refusal, begun]

theorem epoch_abandonCommit (s : State) : (abandonCommit s).xlate.epoch = s.xlate.epoch := by
  unfold abandonCommit makeHeldRevert; dsimp only; split_ifs <;> rfl

theorem leavesEpoch_hubResetEffect (x : Link) : leavesEpoch (hubResetEffect x) := by
  refine leavesEpoch_withClaim fun s => ?_
  dsimp only
  split_ifs
  · simp [begun, epoch_abandonCommit]
  · simp [begun]

/-- The commit that is switched at once is that of a stopped channel or of an empty path (02 R39). -/
theorem epoch_tableCommitEffect {x : Link} {s : State} (hpath : anyOnPath s = true)
    (hrun : channelStopped s = false) : (tableCommitEffect x s).1.xlate.epoch = s.xlate.epoch := by
  have hlate : (channelStopped s || !anyOnPath s) = false := by simp [hpath, hrun]
  unfold tableCommitEffect withClaim
  simp only [hlate, Bool.false_eq_true, if_false]
  split_ifs <;> rfl

/-- Only a commit that is made at once changes the epoch at the taking of a management packet. -/
theorem effectOf_mgmtOf_epoch {c : Instr} {x : Link} {seq : Byte} {k : MgmtKind}
    (h : mgmtOf c = some (x, seq, k)) : ∃ eff, effectOf c = arriveMgmt x k eff ∧
      ∀ u, MgmtChange x u (eff u).1 ∧ (anyOnPath u = true → channelStopped u = false →
        (eff u).1.xlate.epoch = u.xlate.epoch) := by
  have hnamed : ∀ f v, leavesEpoch (writeFieldEffect x f v) := fun f v =>
    leavesEpoch_withClaim (leavesEpoch_writeChecked f v)
  have hleaves : ∀ {eff : State → State × Decision}, effectOf c = arriveMgmt x k eff →
      (∀ u, MgmtChange x u (eff u).1) → leavesEpoch eff → ∃ eff, effectOf c = arriveMgmt x k eff ∧
      ∀ u, MgmtChange x u (eff u).1 ∧ (anyOnPath u = true → channelStopped u = false →
        (eff u).1.xlate.epoch = u.xlate.epoch) :=
    fun he hch hep => ⟨_, he, fun u => ⟨hch u, fun _ _ => hep u⟩⟩
  cases c <;> simp [mgmtOf] at h <;> obtain ⟨rfl, rfl, rfl⟩ := h
  case tableCommit =>
    exact ⟨_, rfl, fun u => ⟨tableCommitEffect_changes _ u, epoch_tableCommitEffect⟩⟩
  case mgmtRead => exact hleaves rfl (mgmtReadEffect_changes _ _ _) (leavesEpoch_mgmtReadEffect _ _)
  case mgmtWrite =>
    exact hleaves rfl (mgmtWriteEffect_changes _ _ _ _) (leavesEpoch_mgmtWriteEffect _ _ _ _)
  case tableRead => exact hleaves rfl (tableReadEffect_changes _ _ _ _) (leavesEpoch_tableReadEffect _ _ _)
  case tableWrite =>
    exact hleaves rfl (tableWriteEffect_changes _ _ _ _) (leavesEpoch_tableWriteEffect _ _ _ _)
  case tableRevert => exact hleaves rfl (tableRevertEffect_changes _) (leavesEpoch_tableRevertEffect _)
  case claim => exact hleaves rfl (claimEffect_changes _) (leavesEpoch_claimEffect _)
  case release => exact hleaves rfl (releaseEffect_changes _) (leavesEpoch_releaseEffect _)
  case channelStart => exact hleaves rfl (channelStartEffect_changes _) (leavesEpoch_channelStartEffect _)
  case channelQuiesce =>
    exact hleaves rfl (channelQuiesceEffect_changes _) (leavesEpoch_channelQuiesceEffect _)
  case channelResume =>
    exact hleaves rfl (channelResumeEffect_changes _) (leavesEpoch_channelResumeEffect _)
  case hubReset => exact hleaves rfl (hubResetEffect_changes _) (leavesEpoch_hubResetEffect _)
  all_goals exact hleaves rfl (fun u => withClaim_changes (writeChecked_changes _ _ _ u)) (hnamed _ _)

/-- A management packet leaves a channel that serves RUN or QUIESCING. -/
theorem MgmtChange.serves {x : Link} {s u : State} (h : MgmtChange x s u)
    (hs : channelServes s = true) : channelServes u = true := by
  have hkeep : u.chan.state = s.chan.state → channelServes u = true := fun hc => by
    simpa [channelServes, hc] using hs
  cases h
  case starts h => simp [channelServes, h] at hs
  case resumes h => simp [channelServes, h] at hs
  case quiesces => rfl
  case resets v hv => rcases hv with rfl | rfl <;> exact hkeep (by simp [beginWarmWork])
  all_goals exact hkeep (by simp)

/-- A change of a management packet that leaves the epoch where something is on the path keeps the law. -/
theorem epochLaw_change {x : Link} {s u : State} (h : MgmtChange x s u)
    (he : anyOnPath s = true → channelStopped s = false → u.xlate.epoch = s.xlate.epoch)
    (hs : epochLaw s) : epochLaw u := by
  cases hp : anyOnPath s with
  | false => exact epochLaw_of_noPath ((anyOnPath_congr h.table.1).trans hp)
  | true =>
    have hserves := serves_of_epochLaw hs hp
    have hstop : channelStopped s = false := by
      rcases (show s.chan.state = .run ∨ s.chan.state = .quiescing by simpa [channelServes] using hserves) with
        hc | hc <;> simp [channelStopped, hc]
    exact pathStands.epochLaw ⟨pathFollows_of_table h.table.1, he hp hstop, h.serves⟩ hs

theorem epochLaw_mgmt {c : Instr} {x : Link} {seq : Byte} {k : MgmtKind}
    (h : mgmtOf c = some (x, seq, k)) {s : State} (hs : epochLaw s) : epochLaw (effectOf c s) := by
  obtain ⟨eff, e, hch⟩ := effectOf_mgmtOf_epoch h
  rw [e]
  exact arriveMgmt_keeps hs (fun u => epochLaw_same (by simp) (by simp) (by simp))
    (fun u => epochLaw_same (by simp) (by simp) (by simp)) (fun u => epochLaw_settle)
    (fun u => epochLaw_same (by simp) (by simp) (by simp))
    (fun _ d => epochLaw_same (by simp) (by simp) (by simp)) (epochLaw_change (hch s).1 (hch s).2 hs)

/-! ## Every command -/

theorem epoch_revertAtFreeing (s : State) : (revertAtFreeing s).xlate.epoch = s.xlate.epoch := by
  unfold revertAtFreeing; split_ifs <;> rfl

theorem epoch_mgmtLinkReset (s : State) (x : Link) :
    (mgmtLinkReset s x).xlate.epoch = s.xlate.epoch := by
  unfold mgmtLinkReset; dsimp only; split_ifs
  · exact epoch_revertAtFreeing _
  · rfl

theorem pathStands_resetBlocks (s : State) (x : Link) (cause : Cause) :
    pathStands s (resetBlocks s x cause) where
  slots := pathFollows_resetBlocks s x cause
  epoch := by simp [resetBlocks, epoch_mgmtLinkReset]
  serves := by simp [channelServes]

/-- What the commands that neither start nor reset nor ask the hub leave of the epoch. -/
theorem epoch_ownEffect (c : Instr) (s : State) (hm : mgmtOf c = none) (hc : c ≠ .coldReset)
    (hp : c ≠ .resetPoint) : (ownEffect c s).xlate.epoch = s.xlate.epoch := by
  have hreset : ∀ (s : State) x cause, (resetBlocks s x cause).xlate.epoch = s.xlate.epoch :=
    fun s x cause => (pathStands_resetBlocks s x cause).epoch
  cases c
  case coldReset => exact absurd rfl hc
  case resetPoint => exact absurd rfl hp
  case commitTimerExpiry =>
    simp [ownEffect, epoch_abandonCommit]
  case leaseTimerExpiry =>
    exact (congrArg _ (raiseAlert_frame ..).2.2.1).trans (epoch_freeClaim s)
  case train x _ _ seen =>
    simp only [ownEffect, ownTrain]; split_ifs <;> simp [hreset]
  case linkReset x => exact hreset s x _
  case retryTimerExpiry x => simp only [ownEffect, ownRetry]; split_ifs <;> simp [hreset]
  case replayTimerExpiry x => simp only [ownEffect, ownReplay]; split_ifs <;> simp [hreset]
  case mgmtRead | mgmtWrite | writeTenureMode | writeRefreshMode | writeForceLevel | writeCueLink |
      writeFilterEnable | writeCreditLimit | writeAlertLink | writeLease | writeCorrThreshold |
      writeOpenLimit | tableRead | tableWrite | tableRevert | tableCommit | claim | release |
      channelStart | channelQuiesce | channelResume | hubReset => cases hm
  all_goals simp [ownEffect, effectOf]

/-- Outside the resets only the ends of the two sequences change the state of the channel, to RUN. -/
theorem state_ownEffect (c : Instr) (s : State) (hm : mgmtOf c = none) (hgd : guardHolds c s)
    (hc : c ≠ .coldReset) (hp : c ≠ .resetPoint) :
    (ownEffect c s).chan.state = .run ∨ (ownEffect c s).chan.state = s.chan.state := by
  by_cases hr : movesRows c = false
  · exact .inr (rowsStand_ownEffect c s hm hr hgd).state
  · cases c
    case coldReset => exact absurd rfl hc
    case resetPoint => exact absurd rfl hp
    case startSequenceEnd => left; simp [ownEffect, ownStartEnd]
    case resumeSequenceEnd =>
      simp only [ownEffect, ownResumeEnd]; split
      · right; simp [sleepAgain]
      · left; simp
    case issue | activateSent | prechargeSent => right; simp [ownEffect]
    all_goals exact absurd rfl hr

/-- What a command leaves of the path, the epoch and the channel's service, beside a reset, a request, an
intake step, an issue and a management packet. -/
theorem pathStands_ownEffect (c : Instr) (s : State) (hm : mgmtOf c = none) (hr : requestOf c = none)
    (hgd : guardHolds c s) (hi : ∀ x, c ≠ .intakeStep x) (hg : c ≠ .issue) (hc : c ≠ .coldReset)
    (hp : c ≠ .resetPoint) : pathStands s (ownEffect c s) where
  slots := pathFollows_ownEffect c s hm hr hi hg
  epoch := epoch_ownEffect c s hm hc hp
  serves hs := by
    rcases state_ownEffect c s hm hgd hc hp with h | h
    · simp [channelServes, h]
    · simpa [channelServes, h] using hs

theorem epochLaw_ownEffect (c : Instr) (s : State) (hm : mgmtOf c = none) (hr : requestOf c = none)
    (hgd : guardHolds c s) (hs : epochLaw s) : epochLaw (ownEffect c s) := by
  have hempty : ∀ u : State, u.table = emptyTable → epochLaw u := fun u hu i t ht _ => by
    rw [table_empty u hu] at ht; cases ht
  by_cases hi : ∃ x, c = .intakeStep x
  · obtain ⟨x, rfl⟩ := hi
    exact epochLaw_ownIntake x hs
  by_cases hg : c = .issue
  · subst hg; exact epochLaw_ownIssue hs
  by_cases hc : c = .coldReset
  · subst hc; exact hempty _ rfl
  by_cases hp : c = .resetPoint
  · subst hp; exact hempty _ rfl
  exact (pathStands_ownEffect c s hm hr hgd (not_exists.mp hi) hg hc hp).epochLaw hs

theorem epochLaw_effectOf (c : Instr) (s : State) (hgd : guardHolds c s) (hs : epochLaw s) :
    epochLaw (effectOf c s) := by
  cases hm : mgmtOf c with
  | some m => exact epochLaw_mgmt (x := m.1) (seq := m.2.1) (k := m.2.2) hm hs
  | none =>
    cases hr : requestOf c with
    | some q =>
      rw [effectOf_requestOf (r := q.1) (seq := q.2) hr]
      exact epochLaw_arriveRequest (requestOf_fields (seq := q.2) hr).1 hs
    | none => exact effectOf_keeps (fun _ => epochLaw_settle) (epochLaw_ownEffect c s hm hr hgd hs)

/-- Settles O58: each command's own effect and the consequences of its event keep the epoch of what is on the
path, because a switch of the tables waits for an empty path. -/
theorem stepKeepsOneEpoch : Obligations.StepKeepsOneEpoch := by
  intro s t hs h
  exact step_keeps_blocks h hs (fun u => epochLaw_same rfl rfl rfl)
    (fun ht hx _ _ _ _ hc _ _ => epochLaw_same ht (by rw [hx]) (by rw [hc]))
    fun c u hu hg => epochLaw_effectOf c u hg hu

end Sys2Proof.Machine
end


section
/-! PROOFS. The claim (09 R151, R153) and the commit of the tables (02 R39 to R42). -/

namespace Sys2Proof.Machine

/-! ## Kinds that need the claim -/

theorem withClaim_holder {s : State} {x : Link} (h : s.mgmt.claim = some x)
    (effect : State → State × Decision) : withClaim s x effect = effect s := by simp [withClaim, h]

theorem withClaim_other {s : State} {x : Link} (h : s.mgmt.claim ≠ some x)
    (effect : State → State × Decision) : withClaim s x effect = (s, some .notOwner, .none) := by
  simp [withClaim, h, refusal]

theorem claim_accepted (s : State) (x : Link) : (accepted s x).mgmt.claim = s.mgmt.claim := by simp

/-- The entry of a packet from the holder loads the lease, whether or not its effect did. -/
theorem replyListed_loadLease {u : State} {x : Link} (h : u.mgmt.claim = some x) (k : MgmtKind)
    (st : Option MgmtStatus) (v : ReplyValue) :
    replyListed (loadLease u) x k st v = replyListed u x k st v := by
  have hl : (loadLease u).mgmt.claim = some x := h
  unfold replyListed
  rw [if_pos hl, if_pos h]
  rfl

/-! ## The claim -/

/-- The claim made FREE, with the revert at once or held. -/
theorem freeClaim_eq (s : State) : freeClaim s = { s with
    mgmt := { s.mgmt with claim := none, lease := .stopped }
    xlate := if s.xlate.commit = .draining then { s.xlate with heldRevert := true }
      else { s.xlate with shadow := s.xlate.active } } := by
  unfold freeClaim revertAtFreeing
  dsimp only
  split_ifs <;> rfl

/-- Settles O42: the four outcomes of CLAIM and RELEASE, one by one. -/
theorem claimAndRelease : Obligations.ClaimAndRelease := by
  intro s x seq h
  dsimp only
  refine ⟨fun hc => ?_, fun hc => ?_, fun hc => ?_, fun hc => ?_⟩
  · exact answers_mgmt rfl h (by simp [claimEffect, hc, refusal])
  · have hfree : s.mgmt.claim ≠ some (otherLink x) := by
      rcases hc with hc | hc <;> rw [hc] <;> cases x <;> decide
    rw [← replyListed_loadLease (by rfl)]
    exact answers_mgmt rfl h (by simp [claimEffect, hfree, okReply])
  · exact answers_mgmt rfl h (by simp [releaseEffect, hc, refusal])
  · exact answers_mgmt rfl h (by simp [releaseEffect, hc, okReply, freeClaim_eq])

/-! ## The switch of a commit -/

/-- The switch as one change: a revert held for its end finds SHADOW the same as ACTIVE. -/
theorem commitSwitch_eq (s : State) : commitSwitch s = { s with
    xlate := { s.xlate with
      active := s.xlate.shadow
      epoch := s.xlate.epoch + 1
      commit := .steady
      commitTimer := .stopped
      heldRevert := false }
    notices := ⟨{ s.notices.a with recent := [] }, { s.notices.b with recent := [] }⟩ } := by
  unfold commitSwitch makeHeldRevert
  cases h : s.xlate.heldRevert <;> simp [clearRecent, revertShadow, h]

/-- Settles O41: the outcomes of TABLE-COMMIT in the order of its tests. -/
theorem tableCommitOutcomes : Obligations.TableCommitOutcomes := by
  intro s x seq h
  have hpath : anyOnPath (accepted s x) = anyOnPath s := anyOnPath_congr (by simp)
  dsimp only
  refine ⟨fun hc => ?_, fun hc => ⟨fun hst => ?_, fun hst => ⟨fun hd => ?_, fun hd hnow => ?_,
    fun hd hrun hp => ⟨fun hl => ?_, fun hl => ?_⟩⟩⟩⟩
  · exact answers_mgmt rfl h (withClaim_other (by rwa [claim_accepted]) _)
  all_goals refine answers_mgmt rfl h ((withClaim_holder (by rwa [claim_accepted]) _).trans ?_)
  · have hbar : commitBarred (accepted s x) = true := by simpa [commitBarred, or_assoc] using hst
    simp [hbar, refusal]
  all_goals
    have hbar : commitBarred (accepted s x) = false := by
      rcases hst with hst | hst | hst <;> simp [commitBarred, hst]
    simp only [hbar, accepted_frame, hd, Bool.false_eq_true, if_false]
  · rfl
  · have hswitch : (channelStopped (accepted s x) || !anyOnPath (accepted s x)) = true := by
      rcases hnow with hrun | hp
      · have hstop : s.chan.state = .init ∨ s.chan.state = .quiesced := by tauto
        simpa [channelStopped] using .inl hstop
      · simp [hpath, hp]
    simp [hswitch, switchNow, commitSwitch_eq, epochValue]
  all_goals
    have hlate : (channelStopped (accepted s x) || !anyOnPath (accepted s x)) = false := by
      simp [channelStopped, hrun, hpath, hp]
    simp only [hlate, Bool.false_eq_true, if_false]
  · simp [Option.isSome_iff_ne_none, hl, refusal]
  · simp [hl, begun, beginDrain, beginLong, loaded, commitUnits, usUnits]
    omega

/-! ## The end of a drain -/

theorem settleCommit_ends {s : State} (hd : s.xlate.commit = .draining) (hp : anyOnPath s = false) :
    settleCommit s = endLong (commitSwitch s) .commit .ok (.word ((s.xlate.epoch + 1).setWidth 32)) := by
  simp [settleCommit, hd, hp, epochValue, commitSwitch_eq]

/-- Both Recent Line Lists are empty. -/
def noRecent (s : State) : Prop := ∀ y, (targetOf s y).recent = []

theorem noRecent_congr {s u : State} (h : u.notices = s.notices) (hs : noRecent s) : noRecent u := by
  intro y; simpa [targetOf, h] using hs y

theorem noRecent_cleared {s u : State} (h : u.notices = (clearRecent s).notices) : noRecent u := by
  intro y; rw [targetOf, h]; cases y <;> rfl

theorem noRecent_makePass {s : State} (x : Link) (hs : noRecent s) : noRecent (makePass s x) := by
  have hpass : ∀ y, noRecent (passTenure s y) := fun y => noRecent_cleared (passTenure_notices s y)
  unfold makePass
  split
  · exact hs
  · exact hpass _
  · split
    · exact hpass _
    · exact noRecent_congr rfl hs

theorem noRecent_settlePass {s : State} (hs : noRecent s) : noRecent (settlePass s) := by
  unfold settlePass
  cases passReady s with
  | none => exact hs
  | some x =>
    dsimp only; split
    · exact noRecent_congr (by simp) hs
    · exact noRecent_makePass x hs

theorem noRecent_makeGrant {s : State} (hs : noRecent s) : noRecent (makeGrant s) := by
  unfold makeGrant
  cases grantReady s with
  | none => exact hs
  | some x => exact noRecent_cleared (passTenure_notices s x)

theorem noRecent_settleGrant {s : State} (hs : noRecent s) : noRecent (settleGrant s) := by
  have htry : ∀ u, noRecent u → noRecent (tryEpisode u) := fun u => noRecent_congr (by simp)
  unfold settleGrant
  dsimp only
  split_ifs
  · exact htry _ (noRecent_makeGrant hs)
  · exact htry _ hs
  · exact htry _ (noRecent_makeGrant hs)

/-- After the drain's test no consequence puts a line into a Recent Line List. -/
theorem noRecent_settle {s : State} (hs : noRecent (settleCommit s)) : noRecent (settle s) := by
  have hjudged : noRecent (wantDue (clearDue (judgeIdle (waitingToClosing (settleCommit s))))) :=
    noRecent_congr (by simp) hs
  exact noRecent_congr (by simp [settle]) (noRecent_settleGrant (noRecent_settlePass hjudged))

/-- What the end of a long operation makes of the Management Unit: its entry is decided (09 R149, R154). -/
theorem endLong_decides {s : State} {x : Link} {before after : List MgmtEntry} {e : MgmtEntry}
    (k : LongKind) (st : MgmtStatus) (v : ReplyValue) (hl : s.mgmt.longOp = some (k, x))
    (hlist : s.mgmt.replies.get x = before ++ e :: after)
    (hb : ∀ d ∈ before, ¬ (d.kind = kindOfLong k ∧ d.status = none)) (he : e.kind = kindOfLong k)
    (hs : e.status = none) :
    (endLong s k st v).mgmt = { s.mgmt with
      longOp := none
      replies := s.mgmt.replies.set x (before ++ { e with
        status := some st, value := v, readySince := s.event } :: after) } := by
  simp only [endLong, hl, if_true, hlist, decideEntry_split st v s.event hb he hs]

theorem endLong_absent {s : State} (h : s.mgmt.longOp = none) (k : LongKind) (st : MgmtStatus)
    (v : ReplyValue) : endLong s k st v = s := by simp [endLong, h]

/-- Where no long operation is left after the drain's test, no reply is decided after it. -/
theorem settle_replies {s : State} (h : (settleCommit s).mgmt.longOp = none) :
    (settle s).mgmt.longOp = none ∧ (settle s).mgmt.replies = (settleCommit s).mgmt.replies := by
  have hawake : (settleAwake s).mgmt = (settleCommit s).mgmt := by simp [settleAwake]
  rw [settle_eq, settleSleep, (warmSleep_frame _).2.2.2.2.2.2.2.2.1, ← hawake]
  rw [← hawake] at h
  split
  · unfold enterSelfRefresh
    rw [endLong_absent (by simp [h])]
    simp [h]
  · exact ⟨h, rfl⟩

/-- Settles O16: the switch is that of the drain's test, and what follows at the event leaves it. -/
theorem drainEndsInSwitch : Obligations.DrainEndsInSwitch := by
  intro s hd
  refine ⟨fun hp => (settle_onPath hp).1, fun hp => ?_⟩
  have hends := settleCommit_ends hd hp
  refine ⟨?_, ?_, ?_⟩
  · have hx : (settle s).xlate = (settleCommit s).xlate := by simp [settle]
    rw [hx, hends, (endLong_frame ..).2.2.1, commitSwitch_eq]
  · apply noRecent_settle
    rw [hends, commitSwitch_eq]
    exact noRecent_cleared (s := s) (endLong_frame ..).2.2.2.2.2.2.1
  · intro x before e after hl hlist hbefore hk hst
    rw [commitSwitch_eq] at hends
    have hmgmt := (congrArg State.mgmt hends).trans
      (endLong_decides .commit .ok _ hl hlist hbefore hk hst)
    obtain ⟨hlong, hreplies⟩ := settle_replies (by rw [hmgmt])
    exact ⟨hlong, by rw [hreplies, hmgmt, PerLink.get_set]⟩

/-! ## HUB-RESET at its taking -/

/-- The abandoning of a commit as one change. -/
theorem abandonCommit_eq (s : State) : abandonCommit s = { s with xlate := { s.xlate with
    commit := .steady
    commitTimer := .stopped
    shadow := if s.xlate.heldRevert then s.xlate.active else s.xlate.shadow
    heldRevert := false } } := by
  unfold abandonCommit makeHeldRevert
  cases h : s.xlate.heldRevert <;> simp [revertShadow, h]

/-- What a warm reset makes of a bank record: its close is requested, and a service that has not begun to
write ends or sends no more (08 R145). -/
theorem stopUnbegun_closeAsked (b : Bank) : stopUnbegun (closeAsked b) = match b.serving with
    | none => if b.state = .openRow then { b with closePending := true } else b
    | some v =>
      if v.wrote then { b with closeAfter := true }
      else if v.due = 0 ∧ (b.state = .closed ∨ b.state = .openRow) then
        { b with
          serving := none
          closeAfter := false
          closePending := b.closePending || decide (b.state = .openRow) }
      else { b with
        closeAfter := true
        serving := some { v with toRead := [], toWrite := [], reserved := false } } := by
  cases h : b.serving with
  | none => by_cases ho : b.state = .openRow <;> simp [stopUnbegun, closeAsked, h, ho]
  | some v => simp [stopUnbegun, closeAsked, h]

/-- The bank records at the taking of a warm reset, and what it leaves. -/
theorem beginWarmWork_spec (s : State) :
    (∀ pos, bankAt (beginWarmWork s) pos =
      (bankAt s pos).map fun b => stopUnbegun (closeAsked b)) ∧
    beginWarmWork s = { s with
      sched := { s.sched with banks := (beginWarmWork s).sched.banks }
      chan := { s.chan with warm := some [] } } := by
  obtain ⟨hbanks, hrest⟩ := requestCloses_all s s rfl
  have hwork : beginWarmWork s = { requestCloses s (positions s) with
      sched := { (requestCloses s (positions s)).sched with
        banks := (requestCloses s (positions s)).sched.banks.map stopUnbegun }
      chan := { (requestCloses s (positions s)).chan with warm := some [] } } := rfl
  constructor
  · intro pos
    have hmap : bankAt (beginWarmWork s) pos =
        (bankAt (requestCloses s (positions s)) pos).map stopUnbegun := by
      simp [hwork, bankAt, List.getElem?_map]
    rw [hmap, hbanks pos, Option.map_map]
    rfl
  · rw [hwork]
    conv_lhs => rw [hrest]

/-- The state in which the warm work begins. -/
def resetBegun (s : State) (x : Link) : State :=
  let s := if s.xlate.commit = .draining then abandonCommit s else s
  beginLong { s with mgmt := { s.mgmt with discarded := .both 0 } } .hubReset x

theorem resetBegun_eq (s : State) (x : Link) : resetBegun s x = { s with
    mgmt := { s.mgmt with longOp := some (.hubReset, x), discarded := ⟨0, 0⟩ }
    xlate := if s.xlate.commit = .draining then { s.xlate with
        commit := .steady
        commitTimer := .stopped
        shadow := if s.xlate.heldRevert then s.xlate.active else s.xlate.shadow
        heldRevert := false }
      else s.xlate } := by
  by_cases hd : s.xlate.commit = .draining <;>
    simp [resetBegun, hd, abandonCommit_eq, beginLong, PerLink.both]

theorem hubResetEffect_holder {s : State} {x : Link} (h : s.mgmt.claim = some x) :
    hubResetEffect x s = (beginWarmWork (resetBegun s x), none, .none) := withClaim_holder h _

/-- Settles O45: a draining commit is abandoned, and the channel's warm work begins. -/
theorem hubResetIsTaken : Obligations.HubResetIsTaken := by
  intro s x seq h
  dsimp only
  refine ⟨fun hc => answers_mgmt rfl h (withClaim_other (by rwa [claim_accepted]) _), fun hc => ?_⟩
  have heffect := hubResetEffect_holder (s := accepted s x) (x := x) (by rwa [claim_accepted])
  obtain ⟨hbanks, hrest⟩ := beginWarmWork_spec (resetBegun (accepted s x) x)
  have hsched : (resetBegun (accepted s x) x).sched = s.sched := by simp [resetBegun_eq]
  refine ⟨_, answers_mgmt rfl h heffect, ?_, ?_, ?_, fun pos => ?_, ?_⟩
  · rw [hrest, resetBegun_eq]; simp
  · rw [hrest, resetBegun_eq]; simp
  · rw [hrest, resetBegun_eq]; simp
  · rw [hbanks pos, bankAt, hsched]
    exact congrArg (Option.map · _) (funext stopUnbegun_closeAsked)
  · conv_lhs => rw [hrest, hsched]
    rw [hrest]
    simp only [resetBegun_eq]

end Sys2Proof.Machine
end


section
/-! PROOFS. The timers of tenure, of the commit and of the lease (04 R72 to R76, R82; 02 R42; 09 R152, R153). -/

namespace Sys2Proof.Machine

/-! ## The idle condition and hand-over due -/

theorem holderIdle_iff {s : State} {x : Link} : holderIdle s x = true ↔
    ∀ i t, slotAt s i = some t → t.link = x →
      eligible s t = false ∧ t.state ≠ .access ∧ t.state ≠ .merge := by
  have hlive : holderIdle s x = true ↔
      ∀ p ∈ liveOf s x, eligible s p.2 = false ∧ inFlight p.2 = false := by
    simp [holderIdle, linkInFlight, forall_and]
  rw [hlive]
  constructor
  · intro h i t ht hx
    obtain ⟨he, hf⟩ := h (i, t) (mem_liveOf.mpr ⟨ht, hx⟩)
    exact ⟨he, by simpa [inFlight] using hf⟩
  · intro h p hp
    obtain ⟨ht, hx⟩ := mem_liveOf.mp hp
    obtain ⟨he, hf⟩ := h p.1 p.2 ht hx
    exact ⟨he, by simpa [inFlight] using hf⟩

/-- The idle timer at the beginning of the idle condition (04 R73, R79). -/
theorem loadedIdle_eq (s : State) (x : Link) : loadedIdle s x =
    if s.settings.tenure.idleLimit.get x = 0 then .stopped
    else if s.refresh.episode = .none then .running (s.settings.tenure.idleLimit.get x)
    else .paused (s.settings.tenure.idleLimit.get x) := by
  by_cases h : s.refresh.episode = .none <;> simp [loadedIdle, episodeHolds, h]

section
variable {s : State} {x : Link}

theorem judgeIdle_of_same (hh : s.tenure.holder = some x) (h : holderIdle s x = s.tenure.idleNow) :
    judgeIdle s = s := by simp [judgeIdle, hh, h]

theorem judgeIdle_of_begins (hh : s.tenure.holder = some x) (h : holderIdle s x = true)
    (hn : s.tenure.idleNow = false) :
    judgeIdle s = withTenure s { s.tenure with idleNow := true, idle := loadedIdle s x } := by
  simp [judgeIdle, hh, h, hn]

theorem judgeIdle_of_ends (hh : s.tenure.holder = some x) (h : holderIdle s x = false)
    (hn : s.tenure.idleNow = true) :
    judgeIdle s = withTenure s { s.tenure with idleNow := false, idle := .stopped } := by
  simp [judgeIdle, hh, h, hn]

theorem clearDue_of_noLink (h : ∀ z, s.tenure.due ≠ .toLink z) : clearDue s = s := by
  unfold clearDue
  cases s.tenure.holder with
  | none => rfl
  | some x =>
    cases hd : s.tenure.due with
    | toLink z => exact absurd hd (h z)
    | no | toNone => rfl

theorem clearDue_of_work {z : Link} (hd : s.tenure.due = .toLink z) (hw : hasWaitingWork s z = true) :
    clearDue s = s := by
  unfold clearDue
  cases s.tenure.holder with
  | none => rfl
  | some x => simp [hd, hw]

theorem clearDue_of_noWork {z : Link} (hh : s.tenure.holder = some x) (hd : s.tenure.due = .toLink z)
    (hw : hasWaitingWork s z = false) :
    clearDue s = withTenure s { s.tenure with
      due := .no
      idleNow := holderIdle (withTenure s { s.tenure with due := .no }) x
      idle := if holderIdle (withTenure s { s.tenure with due := .no }) x then loadedIdle s x
        else .stopped } := by
  simp only [clearDue, hh, hd, hw, Bool.false_eq_true, if_false]
  rfl

theorem setDue_of_holder (hh : s.tenure.holder = some x) (target : HandOver) :
    setDue s target = withTenure s { s.tenure with
      due := target
      idle := .stopped
      idleNow := holderIdle (withTenure s { s.tenure with due := target, idle := .stopped }) x } := by
  simp [setDue, hh, withTenure]

theorem wantDue_of_holder (hh : s.tenure.holder = some x) : wantDue s =
    if s.tenure.due = .no ∧ (s.tenure.phase = some .opened ∨ s.tenure.idle = .lapsed) ∧
        hasWaitingWork s (otherLink x) = true
      then setDue s (.toLink (otherLink x)) else s := by
  simp [wantDue, hh, and_assoc]

end

/-! ## The expiries -/

theorem expireIdle_of_noWork {s : State} {x : Link} (hh : s.tenure.holder = some x)
    (hw : hasWaitingWork s (otherLink x) = false) :
    expireIdle s = settle (withTenure s { s.tenure with idle := .lapsed }) := by
  simp [expireIdle, hh, hw]

theorem expireIdle_of_work {s : State} {x : Link} (hh : s.tenure.holder = some x)
    (hw : hasWaitingWork s (otherLink x) = true) (hd : s.tenure.due = .no) :
    expireIdle s = settle (setDue s (.toLink (otherLink x))) := by
  simp [expireIdle, hh, hw, hd]

/-- A timer that never runs. -/
theorem timerRuns_false {t : Timer} (h : ∀ n, t ≠ .running n) : timerRuns t = false := by
  cases t with
  | running n => exact absurd rfl (h n)
  | _ => rfl

theorem idleRuns_false {t : IdleTimer} (h : ∀ n, t ≠ .running n) : idleRuns t = false := by
  cases t with
  | running n => exact absurd rfl (h n)
  | _ => rfl

/-- The revert at the end of a claim, as the change of the two fields it looks at. -/
theorem freeClaim_fields (s : State) : freeClaim s = { s with
    mgmt := { s.mgmt with claim := none, lease := .stopped }
    xlate := { s.xlate with
      shadow := if s.xlate.commit = .draining then s.xlate.shadow else s.xlate.active
      heldRevert := s.xlate.heldRevert || decide (s.xlate.commit = .draining) } } := by
  rw [freeClaim_eq]
  by_cases h : s.xlate.commit = .draining <;> simp [h]

theorem endLong_rest (s : State) (k : LongKind) (st : MgmtStatus) (v : ReplyValue) :
    endLong s k st v = { s with mgmt := (endLong s k st v).mgmt } := by
  unfold endLong
  cases s.mgmt.longOp with
  | none => rfl
  | some p => dsimp only; split_ifs <;> rfl

theorem answers_commitTimerExpiry {s : State} {n : Nat} (ht : s.xlate.commitTimer = .running n)
    (hd : s.xlate.commit = .draining) : answers .commitTimerExpiry s
      (endLong (abandonCommit (beginEvent s)) .commit .commitTimeout
        (epochValue (abandonCommit (beginEvent s)))) :=
  answers_of rfl (by simp [ht, hd, timerRuns]) rfl

/-- Settles O35: the expiries one by one, and the tests of the idle condition and of hand-over due by their
cases. -/
theorem tenureCommitAndLeaseTimers : Obligations.TenureCommitAndLeaseTimers := by
  refine ⟨fun s x n hh => ⟨fun ht => ?_, fun ht hw => ?_, fun ht hw hd => ?_⟩,
    fun s x => ⟨holderIdle_iff, fun hh => ?_, fun hh => ⟨?_, ?_, ?_, ?_, ?_, ?_, ?_⟩⟩,
    fun s n => ⟨fun ht hd => ?_, fun x ht hc => ?_⟩,
    fun s => ⟨fun h => ?_, fun h => ?_, fun h => ?_, fun h => ?_⟩⟩
  · exact answers_of rfl (by simp [ht, hh, timerRuns]) rfl
  · exact answers_of rfl (by simp [ht, hh, idleRuns])
      (expireIdle_of_noWork (s := beginEvent s) hh hw)
  · refine answers_of rfl (by simp [ht, hh, idleRuns])
      ((expireIdle_of_work (s := beginEvent s) hh hw hd).trans ?_)
    rw [setDue_of_holder (s := beginEvent s) hh]
    rfl
  · simp [judgeIdle, clearDue, wantDue, hh]
  · exact judgeIdle_of_same hh
  · intro h hn
    rw [judgeIdle_of_begins hh h hn, loadedIdle_eq]
    rfl
  · exact judgeIdle_of_ends hh
  · rintro (h | ⟨z, hd, hw⟩)
    · exact clearDue_of_noLink h
    · exact clearDue_of_work hd hw
  · intro z hd hw
    rw [clearDue_of_noWork hh hd hw, loadedIdle_eq]
    rfl
  · intro h
    rw [wantDue_of_holder hh, if_neg]
    rintro ⟨hd, hp, hw⟩
    rcases h with h | h | ⟨h1, h2⟩
    · exact h hd
    · rw [h] at hw; cases hw
    · exact hp.elim h1 h2
  · intro hd hw hp
    rw [wantDue_of_holder hh, if_pos ⟨hd, hp, hw⟩, setDue_of_holder hh]
    rfl
  · refine ⟨_, answers_commitTimerExpiry ht hd, ?_, fun x before e after hl hlist hb he hs => ?_, ?_⟩
    · rw [(endLong_frame ..).2.2.1, abandonCommit_eq]
      rfl
    · rw [abandonCommit_eq]
      exact endLong_decides .commit _ _ hl hlist hb he hs
    · conv_lhs => rw [endLong_rest]
      rw [(endLong_frame ..).2.2.1, abandonCommit_eq]
  · refine happens_of (by simp [ht, hc, timerRuns]) ?_
    rw [expireLease, freeClaim_fields]
    congr 1
  all_goals refine idles_of rfl ?_
  · rcases h with h | h
    · simp [timerRuns_false h]
    · simp [h]
  · rcases h with h | h
    · simp [idleRuns_false h]
    · simp [h]
  · rcases h with h | h
    · simp [timerRuns_false h]
    · simp [h]
  · rcases h with h | h
    · simp [timerRuns_false h]
    · simp [h]

end Sys2Proof.Machine
end


section
/-! PROOFS. What the settings records, the STATUS record and the tables answer when they are read (09 R150, R155,
R158; 02 R36). -/

namespace Sys2Proof.Machine

/-! ## Tables and entries by number -/

theorem byte_cases (b : Byte) : b = 0 ∨ b = 1 ∨ b = 2 ∨ 2 < b.toNat := by bv_omega

theorem tableName_eq_none {b : Byte} (h : 2 < b.toNat) : tableName b = none := by
  unfold tableName
  generalize b.toNat = n at h
  match n, h with
  | _ + 3, _ => rfl

theorem tableIndex_window {i : Byte} (h : i.toNat < 16) : tableIndex 0 i = some (.window, i.toNat) :=
  if_pos h

theorem tableIndex_region {i : Byte} (h : i.toNat < 32) : tableIndex 1 i = some (.region, i.toNat) :=
  if_pos h

theorem tableIndex_default : tableIndex 2 0 = some (.default, 0) := rfl

/-- The tables and indexes that name an entry (02 R35). -/
theorem tableIndex_ne_none {table index : Byte} : tableIndex table index ≠ none ↔
    (table = 0 ∧ index.toNat < 16) ∨ (table = 1 ∧ index.toNat < 32) ∨ (table = 2 ∧ index = 0) := by
  have hnamed : ∀ {n : TableName} {bound : Nat}, (if index.toNat < bound then some (n, index.toNat)
      else none) ≠ none ↔ index.toNat < bound := by
    intro n bound; split_ifs with h <;> simp [h]
  rcases byte_cases table with rfl | rfl | rfl | h
  · exact hnamed.trans (by simp [tableLength])
  · exact hnamed.trans (by simp [tableLength])
  · exact hnamed.trans (by simp [tableLength]; bv_omega)
  · have hno : tableIndex table index = none := by rw [tableIndex, tableName_eq_none h]
    simp only [hno, ne_eq, not_true, false_iff]
    rintro (⟨rfl, -⟩ | ⟨rfl, -⟩ | ⟨rfl, -⟩) <;> exact absurd h (by decide)

theorem tableSet_eq_none {s : State} {b : Byte} (h : 1 < b.toNat) : tableSet s b = none := by
  unfold tableSet
  generalize b.toNat = n at h
  match n, h with
  | _ + 2, _ => rfl

theorem tableSet_eq_some {s : State} {b : Byte} (h : b.toNat ≤ 1) :
    tableSet s b = some (if b = 0 then s.xlate.active else s.xlate.shadow) := by
  have hb : b = 0 ∨ b = 1 := by bv_omega
  rcases hb with rfl | rfl <;> rfl

theorem readEntry_window {t : TableSet} {i : Nat} {w : Window} (h : t.windows[i]? = some w) :
    readEntry t .window i = entryOfWindow w := by simp [readEntry, List.getD_eq_getElem?_getD, h]

theorem readEntry_region {t : TableSet} {i : Nat} {r : Region} (h : t.regions[i]? = some r) :
    readEntry t .region i = entryOfRegion r := by simp [readEntry, List.getD_eq_getElem?_getD, h]

theorem tableReadEffect_refused {s : State} {set table index : Byte}
    (h : tableSet s set = none ∨ tableIndex table index = none) :
    tableReadEffect set table index s = (s, some .badIndex, .none) := by
  unfold tableReadEffect
  cases ht : tableSet s set with
  | none => rfl
  | some t =>
    rw [h.resolve_left (by simp [ht])]
    rfl

theorem tableReadEffect_given {s : State} {set table index : Byte} {t : TableSet} {n : TableName}
    {i : Nat} (ht : tableSet s set = some t) (hi : tableIndex table index = some (n, i)) :
    tableReadEffect set table index s = (s, some .ok, .entry (readEntry t n i)) := by
  simp [tableReadEffect, ht, hi]

/-! ## The fields by number -/

/-- The fields of STATUS in the order of their numbers. -/
theorem statusField_eq (n : Nat) : statusField n = [StatusField.channelState, .epoch, .commitState,
    .claimHolder, .longOperation, .refreshDebt, .tenureHolder, .tenurePhase, .slots .a, .slots .b,
    .currentLimit .a, .currentLimit .b, .locksInUse, .notices .a, .notices .b, .correctedCount,
    .alertsQueued, .alertsDropped][n]? := by
  match n with
  | 0 | 1 | 2 | 3 | 4 | 5 | 6 | 7 | 8 | 9 | 10 | 11 | 12 | 13 | 14 | 15 | 16 | 17 => rfl
  | n + 18 => simp [statusField]

theorem recordFields_beyond {n : Nat} (h : n = 0 ∨ 0x0B < n) : recordFields n = [] := by
  match n, h with
  | 0, _ => rfl
  | n + 12, _ => rfl

/-- A record outside 1 to 11 has no field. -/
theorem fieldOf_beyond {record : Byte} (field : Byte) (h : record = 0 ∨ 0x0B < record.toNat) :
    fieldOf record field = none := by
  have hstatus : record ≠ 0x0B := by bv_omega
  rw [fieldOf, if_neg hstatus, recordFields_beyond (by bv_omega)]
  simp

/-! ## What STATUS shows -/

/-- The live slots of a link, counted by slot number. -/
theorem length_liveOf (s : State) (x : Link) : (liveOf s x).length =
    ((List.range s.table.slots.length).filter fun i => (slotAt s i).any fun t => t.link = x).length := by
  have hrange : List.range s.table.slots.length = s.table.slots.zipIdx.map Prod.snd := by
    simp [List.range_eq_range']
  rw [liveOf, liveSlots, liveIn, ← List.countP_eq_length_filter, List.countP_filterMap,
    ← List.countP_eq_length_filter, hrange, List.countP_map]
  refine List.countP_congr fun p hp => ?_
  have hslot : s.table.slots[p.2]? = some p.1 := List.mem_zipIdx_iff_getElem?.mp hp
  cases ho : p.1 <;> simp [slotAt, List.getD_eq_getElem?_getD, hslot, ho]

theorem linkCode_eq (x : Link) : linkCode x = if x = .a then 0 else 1 := by cases x <;> rfl

/-- Settles O37: the reads by the cases of what they name; the fields and what they show, one by one. -/
theorem readsAnswerTheirValue : Obligations.ReadsAnswerTheirValue := by
  refine ⟨fun s x seq h => ⟨fun r f hf => ?_, fun r f g hf => ?_, fun set table index hbad => ?_,
    fun set table index hset => ?_⟩, ⟨?_, ?_, ?_⟩⟩
  · exact answers_mgmt rfl h (by simp [mgmtReadEffect, hf, refusal])
  · exact answers_mgmt rfl h (by simp [mgmtReadEffect, hf])
  · refine answers_mgmt rfl h (tableReadEffect_refused ?_)
    by_cases hset : 1 < set.toNat
    · exact .inl (tableSet_eq_none hset)
    · right
      by_contra hno
      rw [← ne_eq, tableIndex_ne_none] at hno
      bv_omega
  · have hx : (accepted s x).xlate = s.xlate := by simp
    have ht := tableSet_eq_some (s := accepted s x) hset
    rw [hx] at ht
    dsimp only
    refine ⟨?_, ?_, ?_⟩
    · rintro rfl w hw hi
      rw [← readEntry_window hw]
      exact answers_mgmt rfl h (tableReadEffect_given ht (tableIndex_window hi))
    · rintro rfl r hr hi
      rw [← readEntry_region hr]
      exact answers_mgmt rfl h (tableReadEffect_given ht (tableIndex_region hi))
    · rintro rfl rfl
      exact answers_mgmt rfl h (tableReadEffect_given ht tableIndex_default)
  · refine ⟨fun _ => rfl, fun _ => rfl, fun _ => rfl, fun _ => rfl, fun _ => rfl, fun _ => rfl,
      fun _ => rfl, fun _ => rfl, fun _ => rfl, fun _ => rfl, fun field => ?_, fun _ => fieldOf_beyond⟩
    rw [List.getElem?_map, ← statusField_eq]
    rfl
  · intro s
    refine ⟨fun x => ⟨rfl, rfl, rfl, rfl⟩, rfl, rfl, rfl, rfl, rfl, rfl, rfl, rfl, rfl, rfl, rfl, rfl,
      linkCode_eq _, rfl, rfl, rfl, rfl, rfl, rfl, rfl, rfl, rfl, rfl, rfl, rfl, rfl, rfl, rfl, rfl, rfl, rfl,
      rfl, rfl, linkCode_eq _, fun _ => rfl⟩
  · intro s
    refine ⟨rfl, rfl, rfl, rfl, fun hl => ?_, fun k x n hl hk => ?_, rfl, rfl, rfl,
      fun x => ⟨length_liveOf s x, rfl, rfl⟩, rfl, rfl, rfl, rfl⟩
    · simp [readStatus, hl]
    · have hn : longKindCode k = n := by
        fin_cases hk <;> rfl
      simp only [readStatus, hl, linkCode_eq, hn]

end Sys2Proof.Machine
end


section
/-! PROOFS. The entries of the tables: what is written and read back (02 R35 to R37; 11 section 11.9). -/

namespace Sys2Proof.Machine

/-! ## Codes -/

theorem boolCode_codeOfBool (b : Bool) : boolCode (codeOfBool b) = some b := by cases b <;> rfl

theorem linksCode_codeOfLinks (l : WindowLinks) : linksCode (codeOfLinks l) = some l := by
  cases l <;> rfl

theorem accessCode_codeOfAccess (a : Access) : accessCode (codeOfAccess a) = some a := by
  cases a <;> rfl

theorem boolCode_eq_none {n : Nat} : boolCode n = none ↔ 1 < n := by
  match n with
  | 0 | 1 => decide
  | n + 2 => simp [boolCode]

theorem linksCode_eq_none {n : Nat} : linksCode n = none ↔ n = 0 ∨ 3 < n := by
  match n with
  | 0 | 1 | 2 | 3 => decide
  | n + 4 => simp [linksCode]

theorem accessCode_eq_none {n : Nat} : accessCode n = none ↔ 2 < n := by
  match n with
  | 0 | 1 | 2 => decide
  | n + 3 => simp [accessCode]

theorem codeOfBool_of_boolCode {n : Nat} {b : Bool} (h : boolCode n = some b) : codeOfBool b = n := by
  match n, h with
  | 0, rfl | 1, rfl => rfl

theorem codeOfLinks_of_linksCode {n : Nat} {l : WindowLinks} (h : linksCode n = some l) :
    codeOfLinks l = n := by
  match n, h with
  | 1, rfl | 2, rfl | 3, rfl => rfl

theorem codeOfAccess_of_accessCode {n : Nat} {a : Access} (h : accessCode n = some a) :
    codeOfAccess a = n := by
  match n, h with
  | 0, rfl | 1, rfl | 2, rfl => rfl

theorem codeOfBool_lt (b : Bool) : codeOfBool b < 256 := by cases b <;> decide

theorem codeOfLinks_lt (l : WindowLinks) : codeOfLinks l < 256 := by cases l <;> decide

theorem codeOfAccess_lt (a : Access) : codeOfAccess a < 256 := by cases a <;> decide

theorem ofNat_codeOfBool (b : Bool) : BitVec.ofNat 8 (codeOfBool b) = if b then 1#8 else 0#8 := by
  cases b <;> rfl

/-! ## The bytes of an entry -/

theorem ofNat_entryByte (e : BitVec 96) (k : Nat) :
    BitVec.ofNat 8 (entryByte e k) = e.extractLsb' (8 * (11 - k)) 8 := by
  rw [entryByte, BitVec.ofNat_toNat, BitVec.setWidth_eq]

theorem entryByte_of_extract {e : BitVec 96} {k n : Nat}
    (h : e.extractLsb' (8 * (11 - k)) 8 = BitVec.ofNat 8 n) (hn : n < 256) : entryByte e k = n := by
  rw [entryByte, h, BitVec.toNat_ofNat, Nat.mod_eq_of_lt hn]

/-- Bits that lie inside bits on which two entries agree. -/
theorem extract_congr {d e : BitVec 96} {a n : Nat} (h : d.extractLsb' a n = e.extractLsb' a n)
    (b m : Nat) (hb : a ≤ b) (hm : b + m ≤ a + n) : d.extractLsb' b m = e.extractLsb' b m := by
  ext i hi
  have hbit := congrArg (fun v => v.getLsbD (b - a + i)) h
  simp only [BitVec.getLsbD_extractLsb', show a + (b - a + i) = b + i by omega,
    show b - a + i < n by omega, decide_true, Bool.true_and] at hbit
  simpa using hbit

theorem entryByte_congr {d e : BitVec 96} {a n k : Nat} (h : d.extractLsb' a n = e.extractLsb' a n)
    (hb : a ≤ 8 * (11 - k)) (hm : 8 * (11 - k) + 8 ≤ a + n) : entryByte d k = entryByte e k := by
  rw [entryByte, entryByte, extract_congr h _ _ hb hm]

section
open BitVec

/-- A field at the end of a concatenation. -/
theorem extract_append_low {v w : Nat} (x : BitVec v) (y : BitVec w) :
    (x ++ y).extractLsb' 0 w = y :=
  (extractLsb'_append_eq_of_add_le (by omega)).trans extractLsb'_eq_self

theorem extract_append_high {v w : Nat} (x : BitVec v) (y : BitVec w) (n len : Nat) :
    (x ++ y).extractLsb' (n + w) len = x.extractLsb' n len :=
  (extractLsb'_append_eq_of_le (by omega)).trans (by rw [Nat.add_sub_cancel])

/-- The five fields of a window entry. -/
theorem windowBits (v l c : BitVec 8) (x : BitVec 40) (y : BitVec 32) (e : BitVec 96)
    (he : e = v ++ l ++ c ++ x ++ y) :
    e.extractLsb' 88 8 = v ∧ e.extractLsb' 80 8 = l ∧ e.extractLsb' 72 8 = c ∧
    e.extractLsb' 32 40 = x ∧ e.extractLsb' 0 32 = y := by
  subst he
  have hup : ∀ n len, (v ++ l ++ c ++ x ++ y).extractLsb' (n + 32) len =
    (v ++ l ++ c ++ x).extractLsb' n len := extract_append_high _ y
  have hup' : ∀ n len, (v ++ l ++ c ++ x).extractLsb' (n + 40) len = (v ++ l ++ c).extractLsb' n len :=
    extract_append_high _ x
  refine ⟨?_, ?_, ?_, ?_, extract_append_low _ y⟩
  · exact ((hup 56 8).trans (hup' 16 8)).trans
      ((extract_append_high (v ++ l) c 8 8).trans ((extract_append_high v l 0 8).trans extractLsb'_eq_self))
  · exact ((hup 48 8).trans (hup' 8 8)).trans
      ((extract_append_high (v ++ l) c 0 8).trans (extract_append_low v l))
  · exact ((hup 40 8).trans (hup' 0 8)).trans (extract_append_low _ c)
  · exact (hup 0 40).trans (extract_append_low _ x)

/-- A window entry is the concatenation of its fields. -/
theorem windowBits_join (e : BitVec 96) : e.extractLsb' 88 8 ++ e.extractLsb' 80 8 ++
    e.extractLsb' 72 8 ++ e.extractLsb' 32 40 ++ e.extractLsb' 0 32 = e := by
  have hlinks : e.extractLsb' 88 8 ++ e.extractLsb' 80 8 = e.extractLsb' 80 (8 + 8) :=
    extractLsb'_append_extractLsb'_eq_extractLsb' rfl
  have hsize : e.extractLsb' 80 (8 + 8) ++ e.extractLsb' 72 8 = e.extractLsb' 72 (8 + 8 + 8) :=
    extractLsb'_append_extractLsb'_eq_extractLsb' rfl
  have hlink : e.extractLsb' 72 (8 + 8 + 8) ++ e.extractLsb' 32 40 =
    e.extractLsb' 32 (8 + 8 + 8 + 40) := extractLsb'_append_extractLsb'_eq_extractLsb' rfl
  have hphys : e.extractLsb' 32 (8 + 8 + 8 + 40) ++ e.extractLsb' 0 32 =
    e.extractLsb' 0 (8 + 8 + 8 + 40 + 32) := extractLsb'_append_extractLsb'_eq_extractLsb' rfl
  rw [hlinks, hsize, hlink, hphys]
  exact extractLsb'_eq_self

/-- The fields of a region entry. -/
theorem regionBits (v : BitVec 8) (b l : BitVec 16) (p q n k : BitVec 8) (e : BitVec 96)
    (he : e = v ++ b ++ l ++ p ++ q ++ n ++ k ++ 0#24) :
    e.extractLsb' 88 8 = v ∧ e.extractLsb' 72 16 = b ∧ e.extractLsb' 56 16 = l ∧
    e.extractLsb' 48 8 = p ∧ e.extractLsb' 40 8 = q ∧ e.extractLsb' 32 8 = n ∧
    e.extractLsb' 24 8 = k := by
  subst he
  have hk : ∀ i len, (v ++ b ++ l ++ p ++ q ++ n ++ k ++ 0#24).extractLsb' (i + 24) len =
    (v ++ b ++ l ++ p ++ q ++ n ++ k).extractLsb' i len := extract_append_high _ _
  have hn : ∀ i len, (v ++ b ++ l ++ p ++ q ++ n ++ k ++ 0#24).extractLsb' (i + 8 + 24) len =
    (v ++ b ++ l ++ p ++ q ++ n).extractLsb' i len := fun i len =>
    (hk (i + 8) len).trans (extract_append_high _ _ i len)
  have hq : ∀ i len, (v ++ b ++ l ++ p ++ q ++ n ++ k ++ 0#24).extractLsb' (i + 8 + 8 + 24) len =
    (v ++ b ++ l ++ p ++ q).extractLsb' i len := fun i len =>
    (hn (i + 8) len).trans (extract_append_high _ _ i len)
  have hp : ∀ i len, (v ++ b ++ l ++ p ++ q ++ n ++ k ++ 0#24).extractLsb' (i + 8 + 8 + 8 + 24) len =
    (v ++ b ++ l ++ p).extractLsb' i len := fun i len =>
    (hq (i + 8) len).trans (extract_append_high _ _ i len)
  have hl : ∀ i len, (v ++ b ++ l ++ p ++ q ++ n ++ k ++ 0#24).extractLsb' (i + 8 + 8 + 8 + 8 + 24) len =
    (v ++ b ++ l).extractLsb' i len := fun i len =>
    (hp (i + 8) len).trans (extract_append_high _ _ i len)
  have hb : ∀ i len, (v ++ b ++ l ++ p ++ q ++ n ++ k ++ 0#24).extractLsb' (i + 16 + 8 + 8 + 8 + 8 + 24) len =
    (v ++ b).extractLsb' i len := fun i len =>
    (hl (i + 16) len).trans (extract_append_high _ _ i len)
  refine ⟨?_, ?_, ?_, ?_, ?_, ?_, ?_⟩
  · exact (hb 16 8).trans ((extract_append_high v b 0 8).trans extractLsb'_eq_self)
  · exact (hb 0 16).trans (extract_append_low v b)
  · exact (hl 0 16).trans (extract_append_low _ l)
  · exact (hp 0 8).trans (extract_append_low _ p)
  · exact (hq 0 8).trans (extract_append_low _ q)
  · exact (hn 0 8).trans (extract_append_low _ n)
  · exact (hk 0 8).trans (extract_append_low _ k)

end

/-! ## Window entries -/

theorem windowFits_iff {w : Window} : windowFits w = true ↔
    w.linkBase.toNat % (65536 * 2 ^ w.sizeCode) = 0 ∧
    w.physBase.toNat % (65536 * 2 ^ w.sizeCode) = 0 ∧ w.physBase.toNat < 2 ^ 30 := by
  simp only [windowFits, Bool.and_eq_true, decide_eq_true_eq, and_assoc]
  rfl

/-- The window that an entry's bytes say, valid and with these links. -/
def windowRead (e : BitVec 96) (l : WindowLinks) : Window :=
  ⟨true, l, entryByte e 2, e.extractLsb' 32 40, e.extractLsb' 0 32⟩

section
variable {e : BitVec 96} {l : WindowLinks}

theorem windowOfEntry_of_badCode
    (h : 1 < entryByte e 0 ∨ entryByte e 1 = 0 ∨ 3 < entryByte e 1 ∨ 14 < entryByte e 2) :
    windowOfEntry e = none := by
  unfold windowOfEntry
  cases hb : boolCode (entryByte e 0) with
  | none => rfl
  | some b =>
    cases hl : linksCode (entryByte e 1) with
    | none => cases b <;> rfl
    | some l =>
      have hsize : ¬ entryByte e 2 ≤ 14 := by
        have hvalid : ¬ 1 < entryByte e 0 := fun h => by simp [boolCode_eq_none.mpr h] at hb
        have hlinks : ¬ (entryByte e 1 = 0 ∨ 3 < entryByte e 1) := fun h => by
          simp [linksCode_eq_none.mpr h] at hl
        omega
      cases b <;> simp [hsize]

theorem windowOfEntry_of_invalid (hv : entryByte e 0 = 0) (hl : linksCode (entryByte e 1) = some l)
    (hs : entryByte e 2 ≤ 14) : windowOfEntry e = some coldWindow := by
  simp [windowOfEntry, hv, boolCode, hl, hs]

theorem windowOfEntry_of_valid (hv : entryByte e 0 = 1) (hl : linksCode (entryByte e 1) = some l)
    (hs : entryByte e 2 ≤ 14) : windowOfEntry e =
      if windowFits (windowRead e l) then some (windowRead e l) else none := by
  rw [windowOfEntry, hv, hl, decide_eq_true hs]
  rfl

theorem exists_links {n : Nat} (h : 1 ≤ n) (h' : n ≤ 3) : ∃ l, linksCode n = some l :=
  Option.ne_none_iff_exists'.mp (by rw [ne_eq, linksCode_eq_none]; omega)

/-- What an entry that is held as a window says. -/
theorem windowOfEntry_some {w : Window} (h : windowOfEntry e = some w) : w = coldWindow ∨
    ∃ l, entryByte e 0 = 1 ∧ entryByte e 1 = codeOfLinks l ∧ entryByte e 2 ≤ 14 ∧
      w = windowRead e l ∧ windowFits w = true := by
  by_cases hbad : 1 < entryByte e 0 ∨ entryByte e 1 = 0 ∨ 3 < entryByte e 1 ∨ 14 < entryByte e 2
  · rw [windowOfEntry_of_badCode hbad] at h; cases h
  · push Not at hbad
    obtain ⟨hv, hl, hl', hs⟩ := hbad
    obtain ⟨l, hl⟩ := exists_links (n := entryByte e 1) (by omega) hl'
    rcases (show entryByte e 0 = 0 ∨ entryByte e 0 = 1 by omega) with hv | hv
    · rw [windowOfEntry_of_invalid hv hl hs] at h
      exact .inl (Option.some.inj h).symm
    · rw [windowOfEntry_of_valid hv hl hs] at h
      split_ifs at h with hfit
      cases h
      exact .inr ⟨l, hv, (codeOfLinks_of_linksCode hl).symm, hs, rfl, hfit⟩

/-- The bytes of the window that a valid entry says are the entry's. -/
theorem entryOfWindow_windowRead (hv : entryByte e 0 = 1) (hl : entryByte e 1 = codeOfLinks l) :
    entryOfWindow (windowRead e l) = e := by
  have hlinks := ofNat_entryByte e 1
  rw [hl] at hlinks
  have hvalid := ofNat_entryByte e 0
  rw [hv] at hvalid
  have hsize := ofNat_entryByte e 2
  unfold entryOfWindow windowRead
  dsimp only
  rw [show BitVec.ofNat 8 (codeOfBool true) = _ from hvalid, hlinks, hsize]
  exact windowBits_join e

end

theorem windowRead_entryOfWindow {w : Window} (hv : w.valid = true) (hs : w.sizeCode ≤ 14) :
    entryByte (entryOfWindow w) 0 = 1 ∧
    linksCode (entryByte (entryOfWindow w) 1) = some w.links ∧
    entryByte (entryOfWindow w) 2 = w.sizeCode ∧ windowRead (entryOfWindow w) w.links = w := by
  obtain ⟨hvalid, hlinks, hsize, hlink, hphys⟩ := windowBits _ _ _ _ _ (entryOfWindow w) rfl
  have hvalid' := entryByte_of_extract (k := 0) hvalid (codeOfBool_lt _)
  have hlinks' := entryByte_of_extract (k := 1) hlinks (codeOfLinks_lt _)
  have hsize' := entryByte_of_extract (k := 2) hsize (by omega)
  rw [hv] at hvalid'
  refine ⟨hvalid', by rw [hlinks', linksCode_codeOfLinks], hsize', ?_⟩
  rw [windowRead, hsize', hlink, hphys, ← hv]

theorem windowOfEntry_entryOfWindow {w : Window} (hv : w.valid = true) (hs : w.sizeCode ≤ 14)
    (hfit : windowFits w = true) : windowOfEntry (entryOfWindow w) = some w := by
  obtain ⟨hvalid, hlinks, hsize, hread⟩ := windowRead_entryOfWindow hv hs
  rw [windowOfEntry_of_valid hvalid hlinks (by omega), hread, if_pos hfit]

/-! ## Region and default entries -/

theorem regionFits_iff {r : Region} : regionFits r = true ↔
    r.limit.toNat ≤ 16383 ∧ r.base.toNat ≤ r.limit.toNat := by simp [regionFits]

/-- The codes of an entry's rights are those of `r`. -/
def namesRights (e : BitVec 96) (r : Rights) : Prop :=
  codeOfAccess r.accessA = entryByte e 5 ∧ codeOfAccess r.accessB = entryByte e 6 ∧
  codeOfBool r.notify = entryByte e 7 ∧ codeOfBool r.lockable = entryByte e 8

/-- The region that an entry's bytes say, valid and with these rights. -/
def regionRead (e : BitVec 96) (r : Rights) : Region :=
  ⟨true, e.extractLsb' 72 16, e.extractLsb' 56 16, r⟩

section
variable {e : BitVec 96} {r : Rights}

theorem rightsOfEntry_of_names (h : namesRights e r) : rightsOfEntry e = some r := by
  obtain ⟨ha, hb, hn, hk⟩ := h
  simp only [rightsOfEntry, ← ha, ← hb, ← hn, ← hk, accessCode_codeOfAccess, boolCode_codeOfBool]

theorem names_of_rightsOfEntry (h : rightsOfEntry e = some r) : namesRights e r := by
  unfold rightsOfEntry at h
  cases ha : accessCode (entryByte e 5) with
  | none => simp [ha] at h
  | some a =>
    cases hb : accessCode (entryByte e 6) with
    | none => simp [ha, hb] at h
    | some b =>
      cases hn : boolCode (entryByte e 7) with
      | none => simp [ha, hb, hn] at h
      | some n =>
        cases hk : boolCode (entryByte e 8) with
        | none => simp [ha, hb, hn, hk] at h
        | some k =>
          simp only [ha, hb, hn, hk, Option.some.injEq] at h
          subst h
          exact ⟨codeOfAccess_of_accessCode ha, codeOfAccess_of_accessCode hb,
            codeOfBool_of_boolCode hn, codeOfBool_of_boolCode hk⟩

/-- Where each code of the rights names a value the entry has rights. -/
theorem exists_names (h : entryByte e 5 ≤ 2 ∧ entryByte e 6 ≤ 2 ∧ entryByte e 7 ≤ 1 ∧ entryByte e 8 ≤ 1) :
    ∃ r, namesRights e r := by
  obtain ⟨ha, hb, hn, hk⟩ := h
  have haccess : ∀ n ≤ 2, ∃ a, codeOfAccess a = n := fun n h => by
    obtain ⟨a, h⟩ := Option.ne_none_iff_exists'.mp
      (show accessCode n ≠ none by rw [ne_eq, accessCode_eq_none]; omega)
    exact ⟨a, codeOfAccess_of_accessCode h⟩
  have hbool : ∀ n ≤ 1, ∃ b, codeOfBool b = n := fun n h => by
    obtain ⟨b, h⟩ := Option.ne_none_iff_exists'.mp
      (show boolCode n ≠ none by rw [ne_eq, boolCode_eq_none]; omega)
    exact ⟨b, codeOfBool_of_boolCode h⟩
  obtain ⟨a, ha⟩ := haccess _ ha
  obtain ⟨b, hb⟩ := haccess _ hb
  obtain ⟨n, hn⟩ := hbool _ hn
  obtain ⟨k, hk⟩ := hbool _ hk
  exact ⟨⟨a, b, n, k⟩, ha, hb, hn, hk⟩

theorem codes_of_names (h : namesRights e r) :
    entryByte e 5 ≤ 2 ∧ entryByte e 6 ≤ 2 ∧ entryByte e 7 ≤ 1 ∧ entryByte e 8 ≤ 1 := by
  have haccess : ∀ a, codeOfAccess a ≤ 2 := fun a => by cases a <;> decide
  have hbool : ∀ b, codeOfBool b ≤ 1 := fun b => by cases b <;> decide
  obtain ⟨ha, hb, hn, hk⟩ := h
  rw [← ha, ← hb, ← hn, ← hk]
  exact ⟨haccess _, haccess _, hbool _, hbool _⟩

theorem rightsOfEntry_of_badCode
    (h : ¬ (entryByte e 5 ≤ 2 ∧ entryByte e 6 ≤ 2 ∧ entryByte e 7 ≤ 1 ∧ entryByte e 8 ≤ 1)) :
    rightsOfEntry e = none :=
  Option.eq_none_iff_forall_not_mem.mpr fun _ hr => h (codes_of_names (names_of_rightsOfEntry hr))

theorem regionOfEntry_of_noRights (h : rightsOfEntry e = none) : regionOfEntry e = none := by
  unfold regionOfEntry
  rw [h]
  cases boolCode (entryByte e 0) with
  | none => rfl
  | some b => cases b <;> rfl

theorem regionOfEntry_of_badValid (h : 1 < entryByte e 0) : regionOfEntry e = none := by
  simp [regionOfEntry, boolCode_eq_none.mpr h]

theorem regionOfEntry_of_invalid (hv : entryByte e 0 = 0) (h : rightsOfEntry e = some r) :
    regionOfEntry e = some coldRegion := by simp [regionOfEntry, hv, boolCode, h]

theorem regionOfEntry_of_valid (hv : entryByte e 0 = 1) (h : rightsOfEntry e = some r) :
    regionOfEntry e = if regionFits (regionRead e r) then some (regionRead e r) else none := by
  rw [regionOfEntry, hv, h]
  rfl

/-- What an entry that is held as a region says. -/
theorem regionOfEntry_some {g : Region} (h : regionOfEntry e = some g) :
    g = coldRegion ∨ ∃ r, g = regionRead e r ∧ regionFits g = true := by
  cases hr : rightsOfEntry e with
  | none => rw [regionOfEntry_of_noRights hr] at h; cases h
  | some r =>
    rcases (show entryByte e 0 = 0 ∨ entryByte e 0 = 1 ∨ 1 < entryByte e 0 by omega) with hv | hv | hv
    · rw [regionOfEntry_of_invalid hv hr] at h
      exact .inl (Option.some.inj h).symm
    · rw [regionOfEntry_of_valid hv hr] at h
      split_ifs at h with hfit
      cases h
      exact .inr ⟨r, rfl, hfit⟩
    · rw [regionOfEntry_of_badValid hv] at h; cases h

end

theorem entryOfRegion_bytes (g : Region) :
    entryByte (entryOfRegion g) 0 = codeOfBool g.valid ∧ namesRights (entryOfRegion g) g.rights ∧
    regionRead (entryOfRegion g) g.rights = { g with valid := true } := by
  obtain ⟨hv, hb, hl, hp, hq, hn, hk⟩ := regionBits _ _ _ _ _ _ _ (entryOfRegion g) rfl
  refine ⟨entryByte_of_extract (k := 0) hv (codeOfBool_lt _),
    ⟨(entryByte_of_extract (k := 5) hp (codeOfAccess_lt _)).symm,
      (entryByte_of_extract (k := 6) hq (codeOfAccess_lt _)).symm,
      (entryByte_of_extract (k := 7) hn (codeOfBool_lt _)).symm,
      (entryByte_of_extract (k := 8) hk (codeOfBool_lt _)).symm⟩, ?_⟩
  rw [regionRead, hb, hl]

theorem regionOfEntry_entryOfRegion {g : Region} (hv : g.valid = true) (hfit : regionFits g = true) :
    regionOfEntry (entryOfRegion g) = some g := by
  obtain ⟨hvalid, hrights, hread⟩ := entryOfRegion_bytes g
  have hg : ({ g with valid := true } : Region) = g := by rw [← hv]
  rw [hg] at hread
  rw [hv] at hvalid
  rw [regionOfEntry_of_valid hvalid (rightsOfEntry_of_names hrights), hread, if_pos hfit]

theorem rightsOfEntry_entryOfDefault (r : Rights) : rightsOfEntry (entryOfDefault r) = some r :=
  rightsOfEntry_of_names (entryOfRegion_bytes ⟨false, 0, 0, r⟩).2.1

/-- Only the rights bytes of a DEFAULT entry are read. -/
theorem rightsOfEntry_congr {d e : BitVec 96} (h : d.extractLsb' 24 32 = e.extractLsb' 24 32) :
    rightsOfEntry d = rightsOfEntry e := by
  simp only [rightsOfEntry, entryByte_congr (k := 5) h (by decide) (by decide),
    entryByte_congr (k := 6) h (by decide) (by decide),
    entryByte_congr (k := 7) h (by decide) (by decide),
    entryByte_congr (k := 8) h (by decide) (by decide)]

/-- The unused bytes of a REGION entry are not read. -/
theorem regionOfEntry_congr {d e : BitVec 96} (h : d.extractLsb' 24 72 = e.extractLsb' 24 72) :
    regionOfEntry d = regionOfEntry e := by
  simp only [regionOfEntry, rightsOfEntry_congr (extract_congr h 24 32 (by decide) (by decide)),
    entryByte_congr (k := 0) h (by decide) (by decide),
    extract_congr h 72 16 (by decide) (by decide), extract_congr h 56 16 (by decide) (by decide)]

/-! ## TABLE-WRITE and TABLE-REVERT at their taking -/

section
variable {s : State} {x : Link} {table index : Byte} {e : BitVec 96}

theorem tableWriteEffect_noEntry (hc : s.mgmt.claim = some x) (hi : tableIndex table index = none) :
    tableWriteEffect x table index e s = (s, some .badIndex, .none) := by
  rw [tableWriteEffect, withClaim_holder hc]
  simp [hi, refusal]

theorem tableWriteEffect_busy (hc : s.mgmt.claim = some x) (hi : tableIndex table index ≠ none)
    (hd : s.xlate.commit = .draining) :
    tableWriteEffect x table index e s = (s, some .busy, .none) := by
  obtain ⟨p, hp⟩ := Option.ne_none_iff_exists'.mp hi
  rw [tableWriteEffect, withClaim_holder hc]
  simp [hp, hd, refusal]

theorem tableWriteEffect_bad {n : TableName} {i : Nat} (hc : s.mgmt.claim = some x)
    (hi : tableIndex table index = some (n, i)) (hd : s.xlate.commit ≠ .draining)
    (hw : writeEntry s.xlate.shadow n i e = none) :
    tableWriteEffect x table index e s = (s, some .badValue, .none) := by
  rw [tableWriteEffect, withClaim_holder hc]
  simp [hi, hd, hw, refusal]

theorem tableWriteEffect_made {n : TableName} {i : Nat} {t : TableSet} (hc : s.mgmt.claim = some x)
    (hi : tableIndex table index = some (n, i)) (hd : s.xlate.commit ≠ .draining)
    (hw : writeEntry s.xlate.shadow n i e = some t) :
    tableWriteEffect x table index e s =
      ({ s with xlate := { s.xlate with shadow := t } }, some .ok, .none) := by
  rw [tableWriteEffect, withClaim_holder hc]
  simp [hi, hd, hw, okReply]

theorem tableRevertEffect_busy (hc : s.mgmt.claim = some x) (hd : s.xlate.commit = .draining) :
    tableRevertEffect x s = (s, some .busy, .none) := by
  rw [tableRevertEffect, withClaim_holder hc, if_pos hd]
  rfl

theorem tableRevertEffect_made (hc : s.mgmt.claim = some x) (hd : s.xlate.commit ≠ .draining) :
    tableRevertEffect x s = (revertShadow s, some .ok, .none) := by
  rw [tableRevertEffect, withClaim_holder hc, if_neg hd]
  rfl

end

/-- What a TABLE-WRITE of a named entry answers and changes, outside a drain. -/
theorem tableWrites_answered (s : State) (x : Link) (seq : Byte) (h : mgmtTakes s x seq) :
    let wrote (table index : Byte) (e : BitVec 96) (u : State) (st : MgmtStatus) : Prop :=
      answers (.tableWrite x seq table index e) s (replyListed u x .tableWrite (some st) .none)
    let a := accepted s x
    let shadow (t : TableSet) : State := { a with xlate := { s.xlate with shadow := t } }
    s.mgmt.claim = some x → s.xlate.commit ≠ .draining →
    ∀ table index n i e, tableIndex table index = some (n, i) →
      (writeEntry s.xlate.shadow n i e = none → wrote table index e a .badValue) ∧
      ∀ t, writeEntry s.xlate.shadow n i e = some t → wrote table index e (shadow t) .ok := by
  intro wrote a shadow hc hd table index n i e hi
  have hx : (accepted s x).xlate = s.xlate := by simp
  have hc' : (accepted s x).mgmt.claim = some x := by rwa [claim_accepted]
  refine ⟨fun hw => ?_, fun t hw => ?_⟩
  · exact answers_mgmt rfl h (tableWriteEffect_bad hc' hi (by rwa [hx]) (by rwa [hx]))
  · exact answers_mgmt rfl h
      ((tableWriteEffect_made hc' hi (by rwa [hx]) (by rwa [hx])).trans (by rw [hx]))

/-- Settles O40: the packets by their tests in order, and the entries by their codes. -/
theorem tableWritesAndReverts : Obligations.TableWritesAndReverts := by
  refine ⟨fun s x seq h => ?_, fun e => ⟨?_, ?_, ?_, ?_, ?_, ?_, rightsOfEntry_entryOfDefault⟩,
    ⟨fun w => ?_, fun r => ?_, fun r => rfl, rfl, rfl, fun _ _ => tableIndex_ne_none⟩, fun e => ?_⟩
  · have hx : (accepted s x).xlate = s.xlate := by simp
    refine ⟨fun hc => ⟨fun t i e => ?_, ?_⟩, fun hc => ?_⟩
    · exact answers_mgmt rfl h (withClaim_other (by rwa [claim_accepted]) _)
    · exact answers_mgmt rfl h (withClaim_other (by rwa [claim_accepted]) _)
    have hc' : (accepted s x).mgmt.claim = some x := by rwa [claim_accepted]
    refine ⟨fun table index e => ⟨fun hi => ?_, fun hi hd => ?_, fun hd => ?_⟩, fun hd => ?_, fun hd => ?_⟩
    · exact answers_mgmt rfl h (tableWriteEffect_noEntry hc' hi)
    · exact answers_mgmt rfl h (tableWriteEffect_busy hc' hi (by rwa [hx]))
    · have hw := tableWrites_answered s x seq h hc hd
      refine ⟨?_, ?_, ?_⟩
      · rintro rfl hi
        obtain ⟨hbad, hmade⟩ := hw 0 index _ _ e (tableIndex_window hi)
        exact ⟨fun hn => hbad (by simp [writeEntry, hn]), fun w hn => hmade _ (by simp [writeEntry, hn])⟩
      · rintro rfl hi
        obtain ⟨hbad, hmade⟩ := hw 1 index _ _ e (tableIndex_region hi)
        exact ⟨fun hn => hbad (by simp [writeEntry, hn]), fun w hn => hmade _ (by simp [writeEntry, hn])⟩
      · rintro rfl rfl
        obtain ⟨hbad, hmade⟩ := hw 2 0 _ _ e tableIndex_default
        exact ⟨fun hn => hbad (by simp [writeEntry, hn]), fun w hn => hmade _ (by simp [writeEntry, hn])⟩
    · exact answers_mgmt rfl h (tableRevertEffect_busy hc' (by rwa [hx]))
    · refine answers_mgmt rfl h ((tableRevertEffect_made hc' (by rwa [hx])).trans ?_)
      rw [revertShadow, hx]
  · intro w hw hv
    rcases windowOfEntry_some hw with rfl | ⟨l, hvalid, hlinks, hsize, rfl, hfit⟩
    · cases hv
    · exact ⟨entryOfWindow_windowRead hvalid hlinks, hsize, windowFits_iff.mp hfit⟩
  · intro w hw hv
    rcases windowOfEntry_some hw with rfl | ⟨l, -, -, -, rfl, -⟩
    · rfl
    · cases hv
  · intro w hv hs hlink hphys hrange
    exact windowOfEntry_entryOfWindow hv hs (windowFits_iff.mpr ⟨hlink, hphys, hrange⟩)
  · intro r hr hv
    rcases regionOfEntry_some hr with rfl | ⟨-, -, hfit⟩
    · cases hv
    · obtain ⟨hlimit, hbase⟩ := regionFits_iff.mp hfit
      exact ⟨hbase, hlimit, regionOfEntry_entryOfRegion hv hfit⟩
  · intro r hr hv
    rcases regionOfEntry_some hr with rfl | ⟨r', rfl, -⟩
    · rfl
    · cases hv
  · intro r hv hbase hlimit
    exact regionOfEntry_entryOfRegion hv (regionFits_iff.mpr ⟨hlimit, hbase⟩)
  · rw [entryOfWindow, ofNat_codeOfBool]
    cases w.links <;> rfl
  · intro access yes
    have haccess : ∀ a, BitVec.ofNat 8 (codeOfAccess a) = access a := fun a => by cases a <;> rfl
    have hyes : ∀ b, BitVec.ofNat 8 (codeOfBool b) = yes b := ofNat_codeOfBool
    rw [entryOfRegion, haccess, haccess, hyes, hyes, hyes]
  · intro byte access yes windowCodes rightsCodes named
    have hbyte : byte = entryByte e := rfl
    have hnamed : named = namesRights e := rfl
    clear_value named byte
    subst hbyte hnamed
    refine ⟨fun hbad => windowOfEntry_of_badCode ?_, fun hok hv => ?_, fun hok hv l hl => ?_, fun hbad => ?_,
      regionOfEntry_of_badValid, exists_names, fun r hr => ?_, fun d => rightsOfEntry_congr,
      fun d => regionOfEntry_congr⟩
    · by_contra hno
      exact hbad ⟨by omega, by omega, by omega, by omega⟩
    · obtain ⟨-, hl, hl', hs⟩ := hok
      obtain ⟨l, hl⟩ := exists_links hl hl'
      exact windowOfEntry_of_invalid hv hl hs
    · have hcode : linksCode (entryByte e 1) = some l := by rw [← hl]; exact linksCode_codeOfLinks l
      have hread := windowOfEntry_of_valid hv hcode hok.2.2.2
      have hfits := windowFits_iff (w := windowRead e l)
      exact ⟨fun h => hread.trans (if_pos (hfits.mpr h)), fun h => hread.trans (if_neg (h ∘ hfits.mp))⟩
    · have hrights := rightsOfEntry_of_badCode hbad
      exact ⟨hrights, regionOfEntry_of_noRights hrights⟩
    · have hrights := rightsOfEntry_of_names hr
      refine ⟨hrights, fun hv => regionOfEntry_of_invalid hv hrights, fun hv => ?_⟩
      have hread := regionOfEntry_of_valid hv hrights
      have hfits := regionFits_iff (r := regionRead e r)
      exact ⟨fun h => hread.trans (if_pos (hfits.mpr h)), fun h => hread.trans (if_neg (h ∘ hfits.mp))⟩

end Sys2Proof.Machine
end


section
/-! PROOFS. What follows from an event is made at that event (02 R41; 04 R71, R75; 07 R123 to R125; 08 R134): at
its end nothing of it is due. -/

namespace Sys2Proof.Machine

/-! ## What each test looks at -/

/-- What the eligibility of a transaction looks at stands. -/
structure gateStands (s u : State) : Prop where
  links : u.links = s.links
  table : u.table = s.table
  xlate : u.xlate = s.xlate
  locks : u.locks = s.locks
  notices : u.notices = s.notices
  tenure : u.tenure = s.tenure
  settings : u.settings = s.settings
  state : u.chan.state = s.chan.state

theorem eligible_congr {s u : State} (h : gateStands s u) (t : Txn) : eligible u t = eligible s t := by
  obtain ⟨hlinks, htable, hxlate, hlocks, hnotices, htenure, hsettings, hstate⟩ := h
  cases s
  cases u
  dsimp only at hlinks htable hxlate hlocks hnotices htenure hsettings hstate
  subst hlinks htable hxlate hlocks hnotices htenure hsettings
  unfold eligible
  rw [hstate]
  rfl

theorem anyEligible_congr {s u : State} (h : gateStands s u) : anyEligible u = anyEligible s := by
  unfold anyEligible liveSlots
  rw [h.table, funext fun p : Nat × Txn => eligible_congr h p.2]

theorem passReady_congr {s u : State} (ht : u.table = s.table) (hl : u.locks = s.locks)
    (hte : u.tenure = s.tenure) (he : episodeHolds u = episodeHolds s) : passReady u = passReady s := by
  have hpoint : ∀ x, handOverPoint u x = handOverPoint s x := fun x => by
    have hslot : slotAt u = slotAt s := funext (slotAt_congr ht)
    unfold handOverPoint linkInFlight holdsLock
    rw [liveOf_congr ht, hl, hslot]
  unfold passReady
  rw [hte, he]
  cases s.tenure.holder with
  | none => rfl
  | some x => simp only [hpoint]

theorem grantReady_congr {s u : State} (ht : u.table = s.table) (hte : u.tenure = s.tenure)
    (hset : u.settings = s.settings) (he : episodeHolds u = episodeHolds s) :
    grantReady u = grantReady s := by
  have htarget : grantTarget u = grantTarget s := by
    unfold grantTarget liveSlots
    rw [ht, byArrival_congr ht]
  unfold grantReady
  rw [hte, hset, he, anyInFlight_congr ht, htarget]

theorem episodeReady_congr {s u : State} (h : gateStands s u) (hd : u.refresh.debt = s.refresh.debt)
    (he : episodeHolds u = episodeHolds s) : episodeReady u = episodeReady s := by
  unfold episodeReady episodeAllowed channelServes channelIdle
  rw [h.state, hd, he, anyEligible_congr h, anyInFlight_congr h.table]

section
variable {s : State}

theorem passReady_of_holds (h : episodeHolds s = true) : passReady s = none := by
  unfold passReady
  cases s.tenure.holder <;> simp [h]

theorem passReady_of_notDue (h : s.tenure.due = .no) : passReady s = none := by
  unfold passReady
  cases s.tenure.holder <;> simp [h]

theorem passReady_of_noHolder (h : s.tenure.holder = none) : passReady s = none := by
  simp [passReady, h]

theorem grantReady_of_holds (h : episodeHolds s = true) : grantReady s = none := by
  simp [grantReady, h]

theorem grantReady_of_holder {x : Link} (h : s.tenure.holder = some x) : grantReady s = none := by
  simp [grantReady, h]

/-- Without waiting work there is no grant (04 R71). -/
theorem grantReady_of_noPath (h : anyOnPath s = false) : grantReady s = none := by
  have hnone : (liveSlots s).filter (fun p => isWaitingWork p.2) = [] := by
    refine List.filter_eq_nil_iff.mpr fun p hp hw => ?_
    have hpath : anyOnPath s = true := anyOnPath_iff.mpr ⟨p.1, p.2, mem_liveSlots.mp hp, by
      simp only [isWaitingWork, Bool.and_eq_true, decide_eq_true_eq] at hw
      simp [onChannelPath, hw.1]⟩
    rw [h] at hpath; cases hpath
  unfold grantReady grantTarget
  rw [hnone]
  simp [byArrival]

theorem episodeReady_of_holds (h : episodeHolds s = true) : episodeReady s = false := by
  simp [episodeReady, episodeAllowed, h]

theorem episodeReady_of_noDebt (h : s.refresh.debt = 0) : episodeReady s = false := by
  simp [episodeReady, episodeAllowed, h]

theorem episodeReady_of_stopped (h : channelServes s = false) : episodeReady s = false := by
  simp [episodeReady, episodeAllowed, h]

end

/-! ## The pass, the grant and the episode -/

theorem passTenure_tenure (s : State) (y : Link) :
    (passTenure s y).tenure.holder = some y ∧ (passTenure s y).tenure.due = .no := by
  unfold passTenure
  dsimp only
  split_ifs <;> simp [withTenure]

theorem beginOpportunistic_episode (s : State) :
    (beginOpportunistic s).refresh.episode = .holds .opportunistic .closing := by
  simp [beginOpportunistic, withRefresh]

theorem episodeHolds_beginOpportunistic (s : State) : episodeHolds (beginOpportunistic s) = true := by
  simp [episodeHolds, beginOpportunistic_episode]

theorem passReady_passTenure (s : State) (y : Link) : passReady (passTenure s y) = none :=
  passReady_of_notDue (passTenure_tenure s y).2

theorem passReady_makePass {s : State} {x : Link} (h : passReady s = some x) :
    passReady (makePass s x) = none := by
  unfold makePass
  split
  · rename_i hd; rw [passReady_of_notDue hd] at h; cases h
  · exact passReady_passTenure s _
  · split
    · exact passReady_passTenure s _
    · exact passReady_of_noHolder rfl

theorem passReady_settlePass (s : State) : passReady (settlePass s) = none := by
  unfold settlePass
  cases h : passReady s with
  | none => exact h
  | some x =>
    dsimp only; split
    · exact passReady_of_holds (episodeHolds_beginOpportunistic s)
    · exact passReady_makePass h

/-- No pass, no grant and no opportunistic episode is due. -/
structure nothingDue (s : State) : Prop where
  pass : passReady s = none
  grant : grantReady s = none
  episode : episodeReady s = false

theorem nothingDue_of_holds {s : State} (h : episodeHolds s = true) : nothingDue s :=
  ⟨passReady_of_holds h, grantReady_of_holds h, episodeReady_of_holds h⟩

theorem nothingDue_tryEpisode {s : State} (hp : passReady s = none)
    (hg : grantReady s = none ∨ episodeReady s = true) : nothingDue (tryEpisode s) := by
  unfold tryEpisode
  split
  · exact nothingDue_of_holds (episodeHolds_beginOpportunistic s)
  · rename_i h
    exact ⟨hp, hg.resolve_right h, Bool.eq_false_iff.mpr h⟩

theorem makeGrant_due {s : State} (hp : passReady s = none) :
    passReady (makeGrant s) = none ∧ grantReady (makeGrant s) = none := by
  unfold makeGrant
  cases h : grantReady s with
  | none => exact ⟨hp, h⟩
  | some x => exact ⟨passReady_passTenure s x, grantReady_of_holder (passTenure_tenure s x).1⟩

theorem nothingDue_settleGrant {s : State} (hp : passReady s = none) : nothingDue (settleGrant s) := by
  have hmade : ∀ u, passReady u = none → nothingDue (tryEpisode (makeGrant u)) := fun u hu =>
    nothingDue_tryEpisode (makeGrant_due hu).1 (.inl (makeGrant_due hu).2)
  unfold settleGrant
  dsimp only
  split_ifs with hboth
  · exact hmade _ hp
  · exact nothingDue_tryEpisode hp (.inr (Bool.and_eq_true_iff.mp hboth).2)
  · exact hmade _ hp

theorem nothingDue.congr {s u : State} (hs : nothingDue s) (h : gateStands s u)
    (hd : u.refresh.debt = s.refresh.debt ∨ u.refresh.debt = 0) (he : episodeHolds u = episodeHolds s) :
    nothingDue u where
  pass := (passReady_congr h.table h.locks h.tenure he).trans hs.pass
  grant := (grantReady_congr h.table h.tenure h.settings he).trans hs.grant
  episode := by
    rcases hd with hd | hd
    · exact (episodeReady_congr h hd he).trans hs.episode
    · exact episodeReady_of_noDebt hd

/-! ## Episodes that wait or close -/

/-- A forced episode waits only for what is in ACCESS or MERGE, and a closing one only for banks that are not
CLOSED (07 R124, R125). -/
theorem waitingToClosing_done (s : State) {k : EpisodeKind}
    (h : (waitingToClosing s).refresh.episode = .holds k .waiting) : anyInFlight s = true := by
  unfold waitingToClosing at h
  split at h
  · split at h
    · assumption
    · cases h
  · rename_i hno; exact absurd h (hno k)

theorem closingToRefreshing_done (s : State) {k : EpisodeKind}
    (h : (closingToRefreshing s).refresh.episode = .holds k .closing) : allClosed s = false := by
  unfold closingToRefreshing at h
  split at h
  · split at h
    · cases h
    · exact Bool.eq_false_iff.mpr ‹_›
  · rename_i hno; exact absurd h (hno k)

theorem episodeHolds_closingToRefreshing (s : State) :
    episodeHolds (closingToRefreshing s) = episodeHolds s := by
  unfold closingToRefreshing
  split
  · rename_i k h; split <;> simp [episodeHolds, withRefresh, h]
  · rfl

theorem allClosed_congr {s u : State} (h : bankCores u = bankCores s) : allClosed u = allClosed s := by
  have hstates := congrArg (List.map Prod.fst) h
  simp only [bankCores, List.map_map] at hstates
  have hall : ∀ w : State, allClosed w =
      (w.sched.banks.map (Prod.fst ∘ bankCore)).all fun st => st = .closed := fun w => by
    simp only [allClosed, List.all_map]; rfl
  rw [hall, hall, hstates]

/-- An episode that another test of the event leaves, or an opportunistic one that has begun. -/
theorem episode_tryEpisode (s : State) : (tryEpisode s).refresh.episode = s.refresh.episode ∨
    (tryEpisode s).refresh.episode = .holds .opportunistic .closing := by
  unfold tryEpisode; split
  · exact .inr (beginOpportunistic_episode s)
  · exact .inl rfl

theorem episode_settlePass (s : State) : (settlePass s).refresh.episode = s.refresh.episode ∨
    (settlePass s).refresh.episode = .holds .opportunistic .closing := by
  unfold settlePass
  cases passReady s with
  | none => exact .inl rfl
  | some x =>
    dsimp only; split
    · exact .inr (beginOpportunistic_episode s)
    · exact .inl (by simp)

theorem episode_settleGrant (s : State) : (settleGrant s).refresh.episode = s.refresh.episode ∨
    (settleGrant s).refresh.episode = .holds .opportunistic .closing := by
  have hmade : ∀ u v : State, u.refresh = v.refresh →
      (tryEpisode (makeGrant u)).refresh.episode = v.refresh.episode ∨
      (tryEpisode (makeGrant u)).refresh.episode = .holds .opportunistic .closing := by
    intro u v h
    have hgrant : (makeGrant u).refresh = u.refresh := by simp
    rw [← h, ← hgrant]
    exact episode_tryEpisode _
  unfold settleGrant
  dsimp only
  split_ifs
  · exact hmade _ s rfl
  · exact episode_tryEpisode _
  · exact hmade _ s rfl

/-! ## The room rule (03 R52) -/

/-- Some OPEN banks that serve nothing have their close pending in `u`, and nothing else that the room rule looks
at differs. -/
structure closesMore (s u : State) : Prop where
  gate : gateStands s u
  rows : ∀ r, openRowList u r = openRowList s r
  length : u.sched.banks.length = s.sched.banks.length
  banks : ∀ p, bankAt u p = bankAt s p ∨ ∃ b, bankAt s p = some b ∧ b.state = .openRow ∧
    b.serving = none ∧ bankAt u p = some { b with closePending := true }

theorem gateStands.refl (s : State) : gateStands s s := ⟨rfl, rfl, rfl, rfl, rfl, rfl, rfl, rfl⟩

theorem gateStands.then {s u w : State} (h : gateStands s u) (h' : gateStands u w) : gateStands s w :=
  ⟨h'.links.trans h.links, h'.table.trans h.table, h'.xlate.trans h.xlate, h'.locks.trans h.locks,
    h'.notices.trans h.notices, h'.tenure.trans h.tenure, h'.settings.trans h.settings,
    h'.state.trans h.state⟩

theorem closesMore.of_sched {s u : State} (h : gateStands s u) (hs : u.sched = s.sched) :
    closesMore s u where
  gate := h
  rows r := by rw [openRowList, hs]; rfl
  length := by rw [hs]
  banks p := .inl (by rw [bankAt, hs]; rfl)

theorem closesMore.refl (s : State) : closesMore s s := .of_sched (.refl s) rfl

theorem closesMore.then {s u w : State} (h : closesMore s u) (h' : closesMore u w) : closesMore s w where
  gate := h.gate.then h'.gate
  rows r := (h'.rows r).trans (h.rows r)
  length := h'.length.trans h.length
  banks p := by
    rcases h'.banks p with e' | ⟨b', hb', hst', hv', e'⟩
    · rw [e']; exact h.banks p
    · right
      rcases h.banks p with e | ⟨b, hb, hst, hv, e⟩
      · exact ⟨b', e ▸ hb', hst', hv', e'⟩
      · rw [e] at hb'
        cases hb'
        exact ⟨b, hb, hst, hv, e'⟩

theorem closesMore_requestClose {s : State} {p : Nat} (h : mayBeVictim s p = true) :
    closesMore s (requestClose s p) := by
  obtain ⟨b, hb, hst, hv, -⟩ := mayBeVictim_iff.mp h
  refine ⟨by constructor <;> simp, fun r => rfl, by simp [requestClose, modBank], fun q => ?_⟩
  have hclose : requestClose s p = modBank s p fun b => { b with closePending := true } :=
    requestClose_idle hb hst hv
  rw [hclose, bankAt_modBank]
  split
  · subst p; rw [hb]; exact .inr ⟨b, rfl, hst, hv, rfl⟩
  · exact .inl rfl

theorem closesMore_victimClose (s : State) (r : Nat) : closesMore s (victimClose s r) := by
  by_cases hs : shortOfRoom s r
  · rw [victimClose_of_short hs]
    cases h : (openRowList s r).find? (mayBeVictim s) with
    | none => exact .refl s
    | some p => exact closesMore_requestClose (List.find?_some h)
  · rw [victimClose_of_not_short hs]
    exact .refl s

theorem bankQueue_congr {s u : State} (ht : u.table = s.table) (hset : u.settings = s.settings) (p : Nat) :
    bankQueue u p = bankQueue s p := by
  unfold bankQueue liveSlots posOf
  rw [ht, hset, byArrival_congr ht]

section
variable {s u : State} (h : closesMore s u)
include h

theorem closesMore.mayBeVictim (p : Nat) : mayBeVictim u p = mayBeVictim s p := by
  have hset : u.settings = s.settings := h.gate.settings
  have hpos : ∀ t, posOf u t = posOf s t := fun t => by rw [posOf, posOf, hset]
  have helig := eligible_congr h.gate
  have hslot := slotAt_congr h.gate.table
  rw [Bool.eq_iff_iff, mayBeVictim_iff, mayBeVictim_iff]
  simp only [hpos, helig, hslot]
  rcases h.banks p with e | ⟨b, hb, hst, hv, e⟩
  · rw [e]
  · rw [e, hb]; simp

theorem closesMore.closed {p : Nat} {b : Bank} (hb : bankAt u p = some b) (hst : b.state = .closed) :
    bankAt s p = some b := by
  rcases h.banks p with e | ⟨c, hc, hco, -, e⟩
  · rw [← e, hb]
  · rw [e] at hb
    cases hb
    rw [hco] at hst; cases hst

theorem closesMore.hasRoom (r : Nat) : hasRoom u r = hasRoom s r := by
  have hreserved : ∀ p, (bankAt u p).any holdsReservation = (bankAt s p).any holdsReservation := fun p => by
    rcases h.banks p with e | ⟨b, hb, -, hv, e⟩
    · rw [e]
    · rw [e, hb]; rfl
  have hpositions : positionsOf u r = positionsOf s r := by
    have hset : u.settings = s.settings := h.gate.settings
    unfold positionsOf positions rankOf
    rw [h.length, hset]
  have hlimit : openLimitInForce u = openLimitInForce s := by
    rw [openLimitInForce, openLimitInForce, h.gate.settings]
  unfold Machine.hasRoom
  rw [h.rows, hpositions, hlimit, funext hreserved]

theorem closesMore.choice {p : Nat} (hb : bankAt u p = bankAt s p) : choice u p = choice s p := by
  have hset : u.settings = s.settings := h.gate.settings
  have hqueue : bankQueue u p = bankQueue s p := bankQueue_congr h.gate.table hset p
  have helig : (fun q : Nat × Txn => eligible u q.2) = fun q => eligible s q.2 :=
    funext fun q => eligible_congr h.gate q.2
  unfold Machine.choice
  rw [hb, hqueue, helig]
  unfold urgent behaviourOf
  rw [hset]

/-- Where more closes are pending a rank that lacks room lacked it before. -/
theorem closesMore.short {r : Nat} (hu : shortOfRoom u r) : shortOfRoom s r := by
  have hrank : ∀ p, rankOf u p = rankOf s p := fun p => by rw [rankOf, rankOf, h.gate.settings]
  obtain ⟨⟨p, b, ⟨hb, hr⟩, hst, hc⟩, hroom, hpending⟩ := hu
  have hbs := h.closed hb hst
  refine ⟨⟨p, b, ⟨hbs, (hrank p).symm.trans hr⟩, hst, ?_⟩, (h.hasRoom r).symm.trans hroom, fun q c hq => ?_⟩
  · rwa [h.choice (hb.trans hbs.symm)] at hc
  · obtain ⟨hc, hq⟩ := hq
    rcases h.banks q with e | ⟨d, hd, -, -, e⟩
    · exact hpending q c ⟨e.trans hc, (hrank q).trans hq⟩
    · exact absurd (hpending q _ ⟨e, (hrank q).trans hq⟩) (by simp)

/-- The first bank that may be closed for a rank stays the first. -/
theorem closesMore.find (r : Nat) : (Machine.openRowList u r).find? (Machine.mayBeVictim u) =
    (Machine.openRowList s r).find? (Machine.mayBeVictim s) := by
  rw [h.rows, funext h.mayBeVictim]

end

theorem requestClose_eq_self {s : State} {p : Nat} {b : Bank} (hb : bankAt s p = some b)
    (hst : b.state = .openRow) (hv : b.serving = none) :
    requestClose s p = s ↔ b.closePending = true := by
  have hclose : requestClose s p = modBank s p fun b => { b with closePending := true } :=
    requestClose_idle hb hst hv
  constructor
  · intro h
    have hp : bankAt (requestClose s p) p = bankAt s p := by rw [h]
    rw [hclose, bankAt_modBank, if_pos rfl, hb] at hp
    exact (congrArg Bank.closePending (Option.some.inj hp)).symm
  · intro h
    have hsame : s.sched.banks.modify p (fun b => { b with closePending := true }) = s.sched.banks := by
      refine List.ext_getElem? fun q => ?_
      rw [List.getElem?_modify]
      split
      · subst q
        rw [show s.sched.banks[p]? = some b from hb]
        simp [← h]
      · simp
    rw [hclose, modBank, hsame]

/-- A rank for which no close is due has none due when more closes are pending. -/
theorem victimClose_stays {s u : State} {r : Nat} (h : closesMore s u) (hs : victimClose s r = s) :
    victimClose u r = u := by
  by_cases hu : shortOfRoom u r
  · rw [victimClose_of_short (h.short hu)] at hs
    rw [victimClose_of_short hu, h.find]
    cases hf : (openRowList s r).find? (mayBeVictim s) with
    | none => rfl
    | some p =>
      rw [hf] at hs
      obtain ⟨b, hb, hst, hv, -⟩ := mayBeVictim_iff.mp (List.find?_some hf)
      have hp : b.closePending = true := (requestClose_eq_self hb hst hv).mp hs
      rcases h.banks p with e | ⟨c, hc, hco, hcv, e⟩
      · exact (requestClose_eq_self (e.trans hb) hst hv).mpr hp
      · exact (requestClose_eq_self e hco hcv).mpr rfl
  · exact victimClose_of_not_short hu

/-- One close for a rank is enough at an event. -/
theorem victimClose_twice (s : State) (r : Nat) : victimClose (victimClose s r) r = victimClose s r := by
  by_cases hs : shortOfRoom s r
  · cases hf : (openRowList s r).find? (mayBeVictim s) with
    | none =>
      have hsame : victimClose s r = s := by rw [victimClose_of_short hs, hf]
      rw [hsame, hsame]
    | some p =>
      have hmay := List.find?_some hf
      have hmade : victimClose s r = requestClose s p := by rw [victimClose_of_short hs, hf]
      have hmore := closesMore_requestClose hmay
      obtain ⟨b, hb, hst, hv, -⟩ := mayBeVictim_iff.mp hmay
      have hclose : requestClose s p = modBank s p fun b => { b with closePending := true } :=
        requestClose_idle hb hst hv
      have hbank : bankAt (requestClose s p) p = some { b with closePending := true } := by
        rw [hclose, bankAt_modBank, if_pos rfl, hb]; rfl
      rw [hmade]
      by_cases hu : shortOfRoom (requestClose s p) r
      · rw [victimClose_of_short hu, hmore.find, hf]
        exact (requestClose_eq_self hbank hst hv).mpr rfl
      · exact victimClose_of_not_short hu
  · rw [victimClose_of_not_short hs, victimClose_of_not_short hs]

theorem closesMore_foldl : ∀ (l : List Nat) (s : State), closesMore s (l.foldl victimClose s)
  | [], s => .refl s
  | r :: l, s => (closesMore_victimClose s r).then (closesMore_foldl l (victimClose s r))

theorem victimClose_foldl {r : Nat} (l : List Nat) (s : State) (hr : r ∈ l) :
    victimClose (l.foldl victimClose s) r = l.foldl victimClose s := by
  induction l generalizing s with
  | nil => cases hr
  | cons a l ih =>
    rcases List.mem_cons.mp hr with rfl | hr
    · exact victimClose_stays (closesMore_foldl l _) (victimClose_twice s r)
    · exact ih _ hr

theorem victimClose_settleVictims (s : State) {r : Nat} (hr : r < s.settings.geometry.ranks) :
    victimClose (settleVictims s) r = settleVictims s :=
  victimClose_foldl _ s (List.mem_range.mpr hr)

theorem victimClose_of_empty {s : State} {r : Nat} (h : openRowList s r = []) : victimClose s r = s :=
  victimClose_of_no_victim (by simp [h])

/-! ## The entry to self-refresh -/

theorem openRowList_congr {s u : State} (h : u.sched = s.sched) (r : Nat) :
    openRowList u r = openRowList s r := by rw [openRowList, h]; rfl

theorem openRowList_enterSelfRefresh (s : State) (r : Nat) : openRowList (enterSelfRefresh s) r = [] := by
  have hsched : (enterSelfRefresh s).sched = (sleepBanks s).sched := by
    simp [enterSelfRefresh, sleepBanks]
  rw [openRowList_congr hsched, openRowList_sleepBanks]

theorem gateStands_sendWarmSrEnter (s : State) : gateStands s (sendWarmSrEnter s) := by
  have hstate : (sendWarmSrEnter s).chan.state = s.chan.state := by
    unfold sendWarmSrEnter
    cases s.chan.warm with
    | none => rfl
    | some sent => dsimp only; split <;> rfl
  constructor <;> simp [hstate]

theorem victimClose_warmSleep {s : State} {r : Nat} (h : victimClose s r = s) :
    victimClose (warmSleep s) r = warmSleep s := by
  have hsent := victimClose_stays (.of_sched (gateStands_sendWarmSrEnter s) (by simp)) h
  unfold warmSleep enterWarmSleep
  cases (sendWarmSrEnter s).chan.warm with
  | none => exact hsent
  | some sent =>
    dsimp only
    split
    · exact victimClose_of_empty ((openRowList_congr (restRefresh_frame _).2.2.2.1 r).trans
        (openRowList_sleepBanks _ r))
    · exact hsent

theorem debt_warmSleep (s : State) : (warmSleep s).refresh.debt = s.refresh.debt ∨
    (warmSleep s).refresh.debt = 0 := by
  have hsent : (sendWarmSrEnter s).refresh = s.refresh := by simp
  unfold warmSleep enterWarmSleep
  rw [← hsent]
  cases (sendWarmSrEnter s).chan.warm with
  | none => exact .inl rfl
  | some sent =>
    dsimp only
    split
    · exact .inr rfl
    · exact .inl rfl

theorem gateStands_warmSleep (s : State) : gateStands s (warmSleep s) := by
  constructor <;> simp

theorem nothingDue.warmSleep {s : State} (h : nothingDue s) : nothingDue (warmSleep s) :=
  h.congr (gateStands_warmSleep s) (debt_warmSleep s) (by simp [episodeHolds])

theorem enterSelfRefresh_state (s : State) : (enterSelfRefresh s).chan.state = .quiesced := by
  simp [enterSelfRefresh, sendDram]

theorem nothingDue_enterSelfRefresh {s : State} (h : anyOnPath s = false) :
    nothingDue (enterSelfRefresh s) where
  pass := passReady_of_noHolder (by simp [enterSelfRefresh, withTenure, noTenure])
  grant := grantReady_of_noPath ((anyOnPath_congr (by simp)).trans h)
  episode := episodeReady_of_stopped (by simp [channelServes, enterSelfRefresh_state])

theorem nothingDue.settleSleep {s : State} (h : nothingDue s) : nothingDue (settleSleep s) := by
  unfold Machine.settleSleep
  split
  · rename_i hready
    simp only [selfRefreshReady, Bool.and_eq_true, Bool.not_eq_true'] at hready
    obtain ⟨⟨⟨⟨⟨-, -⟩, hpath⟩, -⟩, -⟩, -⟩ := hready
    exact (nothingDue_enterSelfRefresh hpath).warmSleep
  · exact h.warmSleep

theorem victimClose_settleSleep {s : State} {r : Nat} (h : victimClose s r = s) :
    victimClose (settleSleep s) r = settleSleep s := by
  unfold settleSleep
  split
  · exact victimClose_warmSleep (victimClose_of_empty (openRowList_enterSelfRefresh s r))
  · exact victimClose_warmSleep h

theorem selfRefreshReady_settleSleep (s : State) : selfRefreshReady (settleSleep s) = false := by
  unfold settleSleep
  split
  · simp [selfRefreshReady, enterSelfRefresh_state]
  · rename_i hno
    cases hw : s.chan.warm with
    | some sent =>
      have hwarm : (warmSleep s).chan.warm.isSome = true := by rw [(warmSleep_state s).2, hw]; rfl
      simp [selfRefreshReady, warmReset, hwarm]
    | none =>
      have hsame : warmSleep s = s := by simp [warmSleep, sendWarmSrEnter, enterWarmSleep, hw]
      rw [hsame]
      exact Bool.eq_false_iff.mpr hno

/-! ## The end of an event -/

/-- The tests of an event up to the grant of tenure. -/
def settleGranted (s : State) : State :=
  settleGrant (settlePass (wantDue (clearDue (judgeIdle (waitingToClosing (settleCommit s))))))

theorem settle_eq_granted (s : State) : settle s = settleSleep (settleVictims (closingToRefreshing
    (settleQuiesce (settleGranted s)))) := rfl

theorem settle_commit_done {s : State} (h : (settle s).xlate.commit = .draining) :
    anyOnPath (settle s) = true := by
  have hx : (settle s).xlate = (settleCommit s).xlate := by simp [settle]
  rw [hx] at h
  rw [anyOnPath_congr (settle_frame s).2.1]
  by_contra hp
  have hp := Bool.eq_false_iff.mpr hp
  by_cases hd : s.xlate.commit = .draining
  · rw [settleCommit_ends hd hp, (endLong_frame ..).2.2.1, commitSwitch_eq] at h
    cases h
  · simp [settleCommit, hd] at h

theorem episode_settleSleep (s : State) : (settleSleep s).refresh.episode = s.refresh.episode := by
  unfold settleSleep
  rw [(warmSleep_frame _).2.2.2.2.2.2.1]
  split
  · simp [enterSelfRefresh]
  · rfl

theorem waiting_before {a b : Episode} {k : EpisodeKind}
    (h : a = b ∨ a = .holds .opportunistic .closing) (ha : a = .holds k .waiting) :
    b = .holds k .waiting := by
  rcases h with rfl | rfl
  · exact ha
  · cases ha

/-- An episode that still waits after the event did so at its first tests. -/
theorem settle_waiting_done {s : State} {k : EpisodeKind}
    (h : (settle s).refresh.episode = .holds k .waiting) : anyInFlight (settle s) = true := by
  have hvictims : ∀ u, (settleVictims u).refresh = u.refresh := fun u => by simp
  rw [settle_eq_granted, episode_settleSleep, hvictims] at h
  have hgranted : (settleGranted s).refresh.episode = .holds k .waiting := by
    have hquiesce : (settleQuiesce (settleGranted s)).refresh = (settleGranted s).refresh := by simp
    rw [← hquiesce]
    unfold closingToRefreshing at h
    split at h
    · split at h
      · cases h
      · exact h
    · exact h
  have hjudged : (wantDue (clearDue (judgeIdle (waitingToClosing (settleCommit s))))).refresh.episode =
      .holds k .waiting :=
    waiting_before (episode_settlePass _) (waiting_before (episode_settleGrant _) hgranted)
  have hfirst : (waitingToClosing (settleCommit s)).refresh.episode = .holds k .waiting := by
    simpa using hjudged
  rw [anyInFlight_congr (show (settle s).table = (settleCommit s).table by simp)]
  exact waitingToClosing_done _ hfirst

theorem settle_closing_done {s : State} {k : EpisodeKind}
    (h : (settle s).refresh.episode = .holds k .closing) : allClosed (settle s) = false := by
  have hvictims : ∀ u, (settleVictims u).refresh = u.refresh := fun u => by simp
  rw [settle_eq_granted, episode_settleSleep, hvictims] at h
  rw [settle_eq_granted, allClosed_congr (bankCores_settleSleep _),
    allClosed_congr (bankCores_settleVictims _),
    allClosed_congr (bankCores_congr (by simp : _ = (settleQuiesce (settleGranted s)).sched))]
  exact closingToRefreshing_done _ h

theorem nothingDue_settle (s : State) : nothingDue (settle s) := by
  have hgranted : nothingDue (settleGranted s) := nothingDue_settleGrant (passReady_settlePass _)
  rw [settle_eq_granted]
  have hholds := episodeHolds_closingToRefreshing (settleQuiesce (settleGranted s))
  refine (hgranted.congr (by constructor <;> simp) (.inl ?_) ?_).settleSleep
  · simp
  · simpa [episodeHolds] using hholds

/-- What the consequences leave of the channel beside its state, its sleeping ranks and its warm reset. -/
theorem settle_chan_eq (s : State) : (settle s).chan = { s.chan with
    state := (settle s).chan.state
    sleeping := (settle s).chan.sleeping
    warm := (settle s).chan.warm } := by
  obtain ⟨hclock, hstart, hresume, hphase, hphase', hreads, hcount, hlast⟩ := settle_chan s
  dsimp only
  rw [← hclock, ← hstart, ← hresume, ← hphase, ← hphase', ← hreads, ← hcount, ← hlast]

theorem settleQuiesce_made {s : State} (h : s.chan.state = .quiescing) (hp : anyOnPath s = false) :
    settleQuiesce s = requestCloses s (positions s) := by simp [settleQuiesce, h, hp]

theorem settleQuiesce_idle {s : State} (h : s.chan.state ≠ .quiescing ∨ anyOnPath s = true) :
    settleQuiesce s = s := by
  rcases h with h | h <;> simp [settleQuiesce, h]

theorem waitingToClosing_stays {s : State}
    (h : (∀ k, s.refresh.episode ≠ .holds k .waiting) ∨ anyInFlight s = true) : waitingToClosing s = s := by
  unfold waitingToClosing
  split
  · rename_i k he
    rw [if_pos (h.resolve_left fun hno => hno k he)]
  · rfl

theorem closingToRefreshing_stays {s : State}
    (h : (∀ k, s.refresh.episode ≠ .holds k .closing) ∨ allClosed s = false) :
    closingToRefreshing s = s := by
  unfold closingToRefreshing
  split
  · rename_i k he
    rw [h.resolve_left fun hno => hno k he]
    rfl
  · rfl

theorem anyEligible_iff {s : State} : anyEligible s = true ↔
    ∃ i t, slotAt s i = some t ∧ eligible s t = true := by
  simp [anyEligible, mem_liveSlots]

/-- Settles O15: what the consequences leave, what is no longer due after them, and what each of them does. -/
theorem consequencesSettle : Obligations.ConsequencesSettle := by
  refine ⟨?_, ?_, fun s => ⟨⟨fun k he hf => ?_, waitingToClosing_stays⟩,
    ⟨fun k he hc => ?_, closingToRefreshing_stays⟩, fun h hp => ?_, settleQuiesce_idle⟩, fun s => ?_⟩
  · rintro s t rfl
    obtain ⟨hlinks, htable, hdram, hsettings, hwire, hevent, hpending⟩ := settle_frame s
    obtain ⟨hclaim, hlease, hdiscarded, hclock⟩ := settle_mgmt s
    exact ⟨hlinks, htable, hdram, hsettings, hwire, hevent, hpending, hclaim, hlease, hclock, hdiscarded,
      fun y => Prod.mk.inj (targetCore_settle s y), bankAt_settle s, lastGranted_settle s, openedBy_settle s,
      writtenBy_settle s, rfl, settle_chan_eq s, settle_xlate, settle_quiet⟩
  · rintro s t rfl
    obtain ⟨hpass, hgrant, hepisode⟩ := nothingDue_settle s
    refine ⟨settle_commit_done, fun k => settle_waiting_done, fun k => settle_closing_done, hpass, hgrant,
      hepisode, selfRefreshReady_settleSleep _, fun r hr => ?_⟩
    rw [(settle_frame s).2.2.2.1] at hr
    rw [settle_eq_granted]
    exact victimClose_settleSleep (victimClose_settleVictims _ (by simpa [settleGranted] using hr))
  · simp [waitingToClosing, he, hf, withRefresh]
  · simp [closingToRefreshing, he, hc, withRefresh]
  · rw [settleQuiesce_made h hp]
    exact requestCloses_all s s rfl
  · refine ⟨?_, ?_, anyEligible_iff, fun t => by simp [isWaitingWork]⟩
    · rw [anyOnPath_iff]; simp only [onChannelPath_iff]
    · rw [anyInFlight_iff]; simp only [inFlight_iff]

end Sys2Proof.Machine
end


section
/-! PROOFS. The tenure gate (04 R70) and the conditions of an issue (03 R54; O18). -/

namespace Sys2Proof.Machine

/-! ## The tenure gate (04 R70) -/

theorem gateOpen_of_shared {s : State} (h : s.settings.tenure.mode = .shared) (t : Txn) :
    gateOpen s t = true := by
  unfold gateOpen
  rw [h]

theorem gateOpen_of_tenure {s : State} (h : s.settings.tenure.mode = .tenure) (t : Txn) :
    gateOpen s t = true ↔ s.tenure.holder = some t.link ∧
      (s.tenure.due ≠ .no → holdsLock s t.link = true ∧ t.kind ≠ .lockRead) := by
  unfold gateOpen
  rw [h]
  cases s.tenure.holder with
  | none => simp
  | some x =>
    by_cases hx : t.link = x
    · subst hx
      cases s.tenure.due <;> simp
    · simp [hx, Ne.symm hx]

/-- A lock entry whose WRITING is not held back by the other link, where its owner is `owner` (04 R70). -/
def writingCounts (s : State) (x : Link) (owner : Option Nat) : Bool :=
  match owner.bind (slotAt s) with
  | none => true
  | some t =>
    match t.pred.bind (slotAt s) with
    | none => true
    | some u => !(onChannelPath u && u.link ≠ x)

theorem writingCounts_iff {s : State} {x : Link} {owner : Option Nat} :
    writingCounts s x owner = true ↔ ¬ ∃ i w p u, owner = some i ∧ slotAt s i = some w ∧
      w.pred = some p ∧ slotAt s p = some u ∧ u.link ≠ x ∧
      (u.state = .queued ∨ u.state = .access ∨ u.state = .merge) := by
  unfold writingCounts
  cases owner with
  | none => simp
  | some i =>
    rw [Option.bind_some]
    cases hw : slotAt s i with
    | none => simp [hw]
    | some w =>
      dsimp only
      cases hp : w.pred with
      | none => simp [hw, hp]
      | some p =>
        rw [Option.bind_some]
        cases hu : slotAt s p with
        | none => simp [hw, hp, hu]
        | some u =>
          simp only [Option.some.injEq, exists_and_left, exists_eq_left', hw, hp, hu,
            Bool.not_eq_true', ← Bool.not_eq_true, Bool.and_eq_true, onChannelPath_iff,
            decide_eq_true_eq]
          rw [and_comm]

theorem holdsLock_iff {s : State} {x : Link} : holdsLock s x = true ↔
    ∃ e ∈ s.locks, e.holder = x ∧ (e.state = .held ∨ (e.state = .writing ∧
      ¬ ∃ i w p u, e.owner = some i ∧ slotAt s i = some w ∧ w.pred = some p ∧
        slotAt s p = some u ∧ u.link ≠ x ∧
        (u.state = .queued ∨ u.state = .access ∨ u.state = .merge))) := by
  have hcounts : holdsLock s x = s.locks.any fun e => e.holder = x &&
      match e.state with
      | .pending => false
      | .held => true
      | .writing => writingCounts s x e.owner := rfl
  rw [hcounts, List.any_eq_true]
  refine exists_congr fun e => and_congr_right fun _ => ?_
  rw [Bool.and_eq_true, decide_eq_true_eq, ← writingCounts_iff]
  cases e.state <;> simp

/-! ## The conditions of an issue (03 R54) -/

theorem predPending_eq_false_iff {s : State} {t : Txn} : predPending s t = false ↔
    ∀ p u, t.pred = some p → slotAt s p = some u →
      u.state ≠ .queued ∧ u.state ≠ .access ∧ u.state ≠ .merge := by
  unfold predPending
  cases t.pred with
  | none => simp
  | some p =>
    dsimp only
    cases hu : slotAt s p with
    | none =>
      refine iff_of_true rfl fun q u hq hu' => ?_
      cases hq
      simp [hu] at hu'
    | some u =>
      have hpath : onChannelPath u = false ↔
          u.state ≠ .queued ∧ u.state ≠ .access ∧ u.state ≠ .merge := by
        simp [onChannelPath, and_assoc]
      refine hpath.trans ⟨fun h q w hq hw => ?_, fun h => h p u rfl hu⟩
      cases hq
      cases hu.symm.trans hw
      exact h

theorem noticesFit_iff {s : State} {t : Txn} : noticesFit s t = true ↔ newLines s t = [] ∨
    (newLines s t).length + (targetOf s (otherLink t.link)).queue.length ≤ 16 := by
  have hroom : (newLines s t = []) ↔ (newLines s t).length = 0 := List.length_eq_zero_iff.symm
  rw [hroom, noticesFit, freePlaces, decide_eq_true_eq, noticeRoom]
  omega

theorem eligible_iff {s : State} {t : Txn} : eligible s t = true ↔
    t.state = .queued ∧
    (∀ p u, t.pred = some p → slotAt s p = some u →
      u.state ≠ .queued ∧ u.state ≠ .access ∧ u.state ≠ .merge) ∧
    t.lockWait = none ∧ gateOpen s t = true ∧
    (newLines s t = [] ∨
      (newLines s t).length + (targetOf s (otherLink t.link)).queue.length ≤ 16) ∧
    (s.chan.state = .run ∨ s.chan.state = .quiescing) := by
  simp only [eligible, Bool.and_eq_true, decide_eq_true_eq, Bool.not_eq_true', predPending_eq_false_iff,
    Option.isNone_iff_eq_none, noticesFit_iff, Bool.or_eq_true, and_assoc]

/-- Settles O18: the gate by its mode, the entries that count by their state, the issue by its conditions. -/
theorem eligibilityAndTenureGate : Obligations.EligibilityAndTenureGate :=
  ⟨fun _ t => ⟨fun h => gateOpen_of_shared h t, fun h => gateOpen_of_tenure h t, fun _ => holdsLock_iff⟩,
    fun _ _ => eligible_iff⟩

end Sys2Proof.Machine
end


section
/-! PROOFS. The commands of a service: what makes each of them ready (03 R56; 08 R138, R145), ACTIVATE and the end
of an activation (O22). -/

namespace Sys2Proof.Machine

/-! ## The service whose turn it is (03 R56) -/

theorem serviceToSend_iff {s : State} {pos : Nat} {b : Bank} {v : Service} :
    serviceToSend s pos = some (b, v) ↔ bankAt s pos = some b ∧ b.serving = some v ∧
      (warmReset s = true → v.wrote = true) ∧ earlierCommandReady s v.issued = false := by
  simp only [serviceToSend, Option.bind_eq_some_iff, Option.ite_none_right_eq_some, Option.some.injEq,
    Prod.mk.injEq, Bool.and_eq_true, mayContinue_iff, Bool.not_eq_true']
  constructor
  · rintro ⟨c, hc, w, hw, ⟨hwarm, hturn⟩, rfl, rfl⟩
    exact ⟨hc, hw, hwarm, hturn⟩
  · rintro ⟨hb, hv, hwarm, hturn⟩
    exact ⟨b, hb, v, hv, ⟨hwarm, hturn⟩, rfl, rfl⟩

theorem slotRow_eq {s : State} {i : Nat} {t : Txn} {l : Location} (h : slotAt s i = some t)
    (hl : t.loc = some l) : slotRow s i = some l.row := by
  simp [slotRow, h, rowOf, hl]

/-! ## ACTIVATE (03 R49, R51, R52) -/

theorem activateReady_iff {s : State} {pos row : Nat} : activateReady s pos = some row ↔
    ∃ b v, bankAt s pos = some b ∧ b.serving = some v ∧ b.state = .closed ∧
      slotRow s v.slot = some row ∧ (s.chan.state = .run ∨ s.chan.state = .quiescing) ∧
      (warmReset s = true → v.wrote = true) ∧ earlierCommandReady s v.issued = false ∧
      (v.reserved = true ∨ hasRoom s (rankOf s pos) = true) := by
  constructor
  · intro h
    unfold activateReady at h
    split at h
    · cases h
    · rename_i b v hs
      obtain ⟨hb, hv, hwarm, hturn⟩ := serviceToSend_iff.mp hs
      split at h
      · rename_i hc
        simp only [channelServes, Bool.and_eq_true, Bool.or_eq_true, decide_eq_true_eq] at hc
        obtain ⟨⟨hclosed, hserves⟩, hroom⟩ := hc
        exact ⟨b, v, hb, hv, hclosed, h, hserves, hwarm, hturn, hroom⟩
      · cases h
  · rintro ⟨b, v, hb, hv, hclosed, hrow, hserves, hwarm, hturn, hroom⟩
    unfold activateReady
    rw [serviceToSend_iff.mpr ⟨hb, hv, hwarm, hturn⟩]
    simp [hclosed, channelServes, hserves, hroom, hrow]

/-- The state after ACTIVATE, with the list of its rank named. -/
theorem activated_eq (s : State) (pos row : Nat) : activated pos row (beginEvent s) = { beginEvent s with
    sched := { listAtEnd s.sched (rankOf s pos) pos with
      banks := s.sched.banks.modify pos fun b => { b with
        state := .activating
        row := some row
        serving := b.serving.map fun v => { v with reserved := false }
        activatedAt := s.event + 1 } }
    channelOut := [.activate pos row] } := by
  have hrank : rankOf (modBank (beginEvent s) pos fun b => { b with
      state := .activating
      row := some row
      serving := b.serving.map fun v => { v with reserved := false }
      activatedAt := (beginEvent s).event }) pos = rankOf s pos := rfl
  unfold activated joinOpenRows modOpenRows listAtEnd
  rw [hrank]
  split <;> rfl

theorem answers_activateSent {s : State} {pos row : Nat} (h : activateReady s pos = some row) :
    answers (.activateSent pos) s (activated pos row (beginEvent s)) := by
  have hbegun : activateReady (beginEvent s) pos = some row := h
  refine answers_of rfl (by rw [h]; rfl) ?_
  unfold sendActivate
  rw [hbegun]
  rfl

/-! ## The end of an activation (03 R49; 08 R139, R145) -/

theorem servesUnbegun_iff {s : State} {pos : Nat} : servesUnbegun s pos = true ↔
    ∃ b v, bankAt s pos = some b ∧ b.serving = some v ∧ v.wrote = false := by
  simp [servesUnbegun, Option.any_eq_true]

theorem reportWrite_of_warm {s : State} (h : warmReset s = true) (pos i : Nat) :
    reportWrite s pos i = releaseBank s pos := if_pos h

theorem reportWrite_of_slot {s : State} {i : Nat} {t : Txn} (h : warmReset s = false)
    (ht : slotAt s i = some t) (pos : Nat) : reportWrite s pos i = completeWrite s pos i t := by
  simp [reportWrite, h, ht]

theorem serviceSpent_iff {v : Service} :
    serviceSpent v = true ↔ v.toRead = [] ∧ v.due = 0 ∧ v.toWrite = [] := by
  simp [serviceSpent, and_assoc]

theorem completeEmpty_of_unserved {s : State} {pos : Nat} {b : Bank} (hb : bankAt s pos = some b)
    (hv : b.serving = none) : completeEmpty s pos = s := by
  simp [completeEmpty, hb, hv]

theorem completeEmpty_of_service {s : State} {pos : Nat} {b : Bank} {v : Service}
    (hb : bankAt s pos = some b) (hv : b.serving = some v) : completeEmpty s pos =
      if b.state = .openRow ∧ b.row = slotRow s v.slot ∧ serviceSpent v = true
        then reportWrite s pos v.slot else s := by
  simp [completeEmpty, hb, hv, and_assoc]

theorem bankIs_of {s : State} {pos : Nat} {b : Bank} {st : BankState} (hb : bankAt s pos = some b)
    (h : b.state = st) : bankIs s pos st = true := by
  simp [bankIs, hb, h]

theorem bankIs_false {s : State} {pos : Nat} {st : BankState}
    (h : ∀ b, bankAt s pos = some b → b.state ≠ st) : bankIs s pos st = false := by
  rw [bankIs, Option.any_eq_false]
  simpa using h

theorem bankAt_opened {s : State} {pos : Nat} {b : Bank} (h : bankAt s pos = some b) :
    bankAt (opened pos (beginEvent s)) pos = some { b with state := .openRow } := by
  have hbegun : bankAt (beginEvent s) pos = some b := h
  simp [opened, bankAt_modBank, hbegun]

theorem answers_activationComplete {s : State} {pos : Nat} {b : Bank} (hb : bankAt s pos = some b)
    (h : b.state = .activating) :
    answers (.activationComplete pos) s (ownActivation pos (beginEvent s)) :=
  answers_of rfl (bankIs_of hb h) rfl

/-- A service that may go on does not end with its activation, unless it stores no block. -/
theorem ownActivation_of_begun {s : State} {pos : Nat} {b : Bank} (hb : bankAt s pos = some b)
    (h : ∀ v, b.serving = some v → warmReset s = true → v.wrote = true) :
    ownActivation pos (beginEvent s) = completeEmpty (opened pos (beginEvent s)) pos := by
  refine if_neg ?_
  rw [Bool.and_eq_true, servesUnbegun_iff, bankAt_opened hb]
  rintro ⟨hwarm, c, v, hc, hv, hno⟩
  cases hc
  exact absurd (h v hv hwarm) (by simp [hno])

theorem ownActivation_of_unbegun {s : State} {pos : Nat} {b : Bank} {v : Service}
    (hb : bankAt s pos = some b) (hv : b.serving = some v) (hwarm : warmReset s = true)
    (hno : v.wrote = false) :
    ownActivation pos (beginEvent s) = releaseBank (opened pos (beginEvent s)) pos := by
  refine if_pos ?_
  rw [Bool.and_eq_true, servesUnbegun_iff]
  exact ⟨hwarm, _, v, bankAt_opened hb, hv, hno⟩

/-- The end of an activation where the service has more to do, or the bank serves nothing. -/
theorem ownActivation_of_work {s : State} {pos : Nat} {b : Bank} (hb : bankAt s pos = some b)
    (h : ∀ v, b.serving = some v → (warmReset s = true → v.wrote = true) ∧
      (v.toRead ≠ [] ∨ v.due ≠ 0 ∨ v.toWrite ≠ [] ∨ b.row ≠ slotRow s v.slot)) :
    ownActivation pos (beginEvent s) = opened pos (beginEvent s) := by
  rw [ownActivation_of_begun hb fun v hv => (h v hv).1]
  cases hv : b.serving with
  | none => exact completeEmpty_of_unserved (bankAt_opened hb) hv
  | some v =>
    rw [completeEmpty_of_service (bankAt_opened hb) hv]
    refine if_neg fun ⟨_, hrow, hspent⟩ => ?_
    obtain ⟨hread, hdue, hwrite⟩ := serviceSpent_iff.mp hspent
    rcases (h v hv).2 with hne | hne | hne | hne
    · exact hne hread
    · exact hne hdue
    · exact hne hwrite
    · exact hne hrow

/-- The end of an activation for a write that stores no block (08 R139). -/
theorem ownActivation_of_spent {s : State} {pos : Nat} {b : Bank} {v : Service} {t : Txn}
    (hb : bankAt s pos = some b) (hv : b.serving = some v) (ht : slotAt s v.slot = some t)
    (hwarm : warmReset s = false) (hspent : serviceSpent v = true) (hrow : b.row = slotRow s v.slot) :
    ownActivation pos (beginEvent s) = completeWrite (opened pos (beginEvent s)) pos v.slot t := by
  rw [ownActivation_of_begun hb fun _ _ h => absurd h (by simp [hwarm]),
    completeEmpty_of_service (bankAt_opened hb) hv, if_pos ⟨rfl, hrow, hspent⟩]
  exact reportWrite_of_slot (s := opened pos (beginEvent s)) hwarm ht pos

/-- Settles O22: ACTIVATE by its readiness, the end of an activation by what the service has left. -/
theorem activatesRun : Obligations.ActivatesRun := by
  refine ⟨?_, ?_, fun s pos => ⟨fun h => ?_, fun h => idles_of rfl (bankIs_false h)⟩⟩
  · intro s pos row b v hb hv hclosed hrow hserves hwarm hturn hroom
    rw [← activated_eq]
    exact answers_activateSent (activateReady_iff.mpr
      ⟨b, v, hb, hv, hclosed, hrow, hserves, hwarm, hturn, hroom⟩)
  · intro s pos b hb hact u
    have hans := answers_activationComplete hb hact
    refine ⟨fun h => ?_, fun hwarm v t hv ht hread hdue hwrite hrow => ?_, fun hwarm v hv hno => ?_⟩
    · rwa [ownActivation_of_work hb h] at hans
    · rwa [ownActivation_of_spent hb hv ht hwarm (serviceSpent_iff.mpr ⟨hread, hdue, hwrite⟩) hrow] at hans
    · rwa [ownActivation_of_unbegun hb hv hwarm hno] at hans
  · refine idles_of rfl (Option.isSome_eq_false_iff.mpr (Option.isNone_iff_eq_none.mpr ?_))
    refine Option.eq_none_iff_forall_ne_some.mpr fun row hready => ?_
    obtain ⟨b, v, hb, hv, hclosed, hrow, hserves, hwarm, hturn, hroom⟩ := activateReady_iff.mp hready
    rcases h b v hb hv with hne | hne | ⟨hrun, hquiescing⟩ | ⟨hres, hno⟩ | ⟨hw, hno⟩ | hready'
    · exact hne hclosed
    · exact absurd (hrow.symm.trans hne) (by simp)
    · exact hserves.elim hrun hquiescing
    · simp [hres, hno] at hroom
    · simp [hwarm hw] at hno
    · simp [hready'] at hturn

end Sys2Proof.Machine
end


section
/-! PROOFS. READ-COLUMN and WRITE-COLUMN (08 R138 to R143; O23). -/

namespace Sys2Proof.Machine

/-! ## When a column command is ready (08 R138, R143) -/

theorem columnReady_iff {s : State} {pos : Nat} {v : Service} : columnReady s pos = some v ↔
    ∃ b, bankAt s pos = some b ∧ b.serving = some v ∧ b.state = .openRow ∧ b.row = slotRow s v.slot ∧
      (warmReset s = true → v.wrote = true) ∧ earlierCommandReady s v.issued = false := by
  constructor
  · intro h
    unfold columnReady at h
    split at h
    · cases h
    · rename_i b w hs
      obtain ⟨hb, hv, hwarm, hturn⟩ := serviceToSend_iff.mp hs
      rw [Option.ite_none_right_eq_some, Bool.and_eq_true, decide_eq_true_eq, decide_eq_true_eq] at h
      obtain ⟨⟨hopen, hrow⟩, hw⟩ := h
      cases hw
      exact ⟨b, hb, hv, hopen, hrow, hwarm, hturn⟩
  · rintro ⟨b, hb, hv, hopen, hrow, hwarm, hturn⟩
    unfold columnReady
    rw [serviceToSend_iff.mpr ⟨hb, hv, hwarm, hturn⟩]
    simp [hopen, hrow]

theorem readColumnReady_iff {s : State} {pos k : Nat} {v : Service} :
    readColumnReady s pos = some (v, k) ↔
      columnReady s pos = some v ∧ ∃ rest, v.toRead = k :: rest := by
  unfold readColumnReady
  cases columnReady s pos with
  | none => simp
  | some w =>
    cases hw : w.toRead with
    | nil =>
      refine iff_of_false (by simp [hw]) ?_
      rintro ⟨he, rest, hr⟩
      cases he
      simp [hw] at hr
    | cons j l =>
      simp only [hw, List.head?_cons, Option.map_some, Option.some.injEq, Prod.mk.injEq]
      refine and_congr_right ?_
      rintro rfl
      simp [hw]

theorem writeColumnReady_iff {s : State} {pos k : Nat} {v : Service} {data : Block} :
    writeColumnReady s pos = some (v, k, data) ↔ columnReady s pos = some v ∧ v.toRead = [] ∧
      v.due = 0 ∧ s.chan.readsDue = [] ∧ ∃ rest, v.toWrite = (k, data) :: rest := by
  unfold writeColumnReady
  cases columnReady s pos with
  | none => simp
  | some w =>
    simp only [Option.some.injEq]
    rw [Option.ite_none_right_eq_some, Option.map_eq_some_iff]
    simp only [Bool.and_eq_true, List.isEmpty_iff, decide_eq_true_eq, Prod.mk.injEq,
      List.head?_eq_some_iff]
    constructor
    · rintro ⟨⟨⟨hread, hdue⟩, hpath⟩, p, ⟨rest, hrest⟩, rfl, rfl⟩
      exact ⟨rfl, hread, hdue, hpath, rest, hrest⟩
    · rintro ⟨rfl, hread, hdue, hpath, rest, hrest⟩
      exact ⟨⟨⟨hread, hdue⟩, hpath⟩, _, ⟨rest, hrest⟩, rfl, rfl⟩

/-- A bank whose column command is ready is not barred from it. -/
theorem not_barred {s : State} {b : Bank} {v : Service} (hopen : b.state = .openRow)
    (hrow : b.row = slotRow s v.slot) (hwarm : warmReset s = true → v.wrote = true)
    (hturn : earlierCommandReady s v.issued = false) :
    ¬ (b.state ≠ .openRow ∨ b.row ≠ slotRow s v.slot ∨ (warmReset s = true ∧ v.wrote = false) ∨
      earlierCommandReady s v.issued = true) := by
  rintro (hne | hne | ⟨hw, hno⟩ | hready)
  · exact hne hopen
  · exact hne hrow
  · simp [hwarm hw] at hno
  · simp [hready] at hturn

/-! ## Where the block of a span stands (03 R47) -/

theorem columnOf_eq {s : State} {i : Nat} {t : Txn} {l : Location} (h : slotAt s i = some t)
    (hl : t.loc = some l) (k : Nat) : columnOf s i k = l.column + k := by
  simp [columnOf, h, hl]

theorem cellOfBlock_eq {s : State} {i : Nat} {t : Txn} {l : Location} (h : slotAt s i = some t)
    (hl : t.loc = some l) (k : Nat) : cellOfBlock s i k = blockCell l k := by
  simp [cellOfBlock, h, hl]

section
variable {s : State} {pos k : Nat} {v : Service} {t : Txn} {l : Location}

/-! ## READ-COLUMN -/

theorem exec_readColumnSent {rest : List Nat} (h : columnReady s pos = some v)
    (hr : v.toRead = k :: rest) (ht : slotAt s v.slot = some t) (hl : t.loc = some l) :
    exec (.readColumnSent pos) s = .next { beginEvent s with
      sched := { s.sched with banks := s.sched.banks.modify pos fun b => { b with
        serving := some { v with toRead := rest, due := v.due + 1 } } }
      chan := { s.chan with readsDue := s.chan.readsDue ++ [⟨pos, k⟩] }
      channelOut := [.readColumn pos (l.column + k)] } := by
  have hready : readColumnReady s pos = some (v, k) := readColumnReady_iff.mpr ⟨h, rest, hr⟩
  have hbegun : readColumnReady (beginEvent s) pos = some (v, k) := hready
  have hcol : columnOf (beginEvent s) v.slot k = l.column + k :=
    columnOf_eq (s := beginEvent s) ht hl k
  refine happens_of (f := sendReadColumn pos) (by rw [hready]; rfl) ?_
  unfold sendReadColumn
  rw [hbegun]
  dsimp only
  rw [hcol, hr]
  rfl

/-! ## WRITE-COLUMN -/

/-- The state after WRITE-COLUMN, before the write is reported. -/
theorem stored_eq {data : Block} {rest : List (Nat × Block)} (hw : v.toWrite = (k, data) :: rest)
    (ht : slotAt s v.slot = some t) (hl : t.loc = some l) :
    stored pos (beginEvent s) v k data = { beginEvent s with
      sched := { s.sched with banks := s.sched.banks.modify pos fun b => { b with
        serving := some { v with toWrite := rest, wrote := true }, writtenAt := s.event + 1 } }
      dram := writeBlock s.dram (blockCell l k) data
      channelOut := [.writeColumn pos (l.column + k) data] } := by
  have hcol : columnOf (beginEvent s) v.slot k = l.column + k :=
    columnOf_eq (s := beginEvent s) ht hl k
  have hcell : cellOfBlock (beginEvent s) v.slot k = blockCell l k :=
    cellOfBlock_eq (s := beginEvent s) ht hl k
  unfold stored
  rw [hcol, hcell, hw]
  rfl

/-- A WRITE-COLUMN is answered by the stored block, and after the last one by the end of the write. -/
theorem answers_writeColumnSent {data : Block} {rest : List (Nat × Block)}
    (h : writeColumnReady s pos = some (v, k, data)) (hw : v.toWrite = (k, data) :: rest) :
    answers (.writeColumnSent pos) s
      (if rest = [] then reportWrite (stored pos (beginEvent s) v k data) pos v.slot
        else stored pos (beginEvent s) v k data) := by
  have hbegun : writeColumnReady (beginEvent s) pos = some (v, k, data) := h
  refine answers_of (f := sendWriteColumn pos) rfl (by rw [h]; rfl) ?_
  have hrest : (v.toWrite.drop 1).isEmpty = true ↔ rest = [] := by
    rw [hw, List.drop_one, List.tail_cons, List.isEmpty_iff]
  rw [← if_congr hrest rfl rfl]
  unfold sendWriteColumn
  rw [hbegun]
  rfl

end

/-- Settles O23: both column commands by their readiness; after the last WRITE-COLUMN by the warm reset. -/
theorem columnCommandsAreSent : Obligations.ColumnCommandsAreSent := by
  refine ⟨?_, ?_, fun s pos => ⟨fun h => ?_, fun h => ?_⟩⟩
  · intro s pos k rest b v t l hb hv hopen ht hl hrow hr hwarm hturn
    exact exec_readColumnSent (columnReady_iff.mpr
      ⟨b, hb, hv, hopen, hrow.trans (slotRow_eq ht hl).symm, hwarm, hturn⟩) hr ht hl
  · intro s pos k data rest b v t l hb hv hopen ht hl hrow hw hread hdue hpath hwarm hturn u
    have hcol : columnReady s pos = some v := columnReady_iff.mpr
      ⟨b, hb, hv, hopen, hrow.trans (slotRow_eq ht hl).symm, hwarm, hturn⟩
    have hans := answers_writeColumnSent
      (writeColumnReady_iff.mpr ⟨hcol, hread, hdue, hpath, rest, hw⟩) hw
    rw [stored_eq hw ht hl] at hans
    refine ⟨fun hmore => ?_, fun hlast hcold => ?_, fun hlast hreset => ?_⟩
    · rwa [if_neg hmore] at hans
    · rwa [if_pos hlast, reportWrite_of_slot (s := u) hcold ht] at hans
    · rwa [if_pos hlast, reportWrite_of_warm (s := u) hreset] at hans
  · refine idles_of rfl (Option.isSome_eq_false_iff.mpr (Option.isNone_iff_eq_none.mpr ?_))
    refine Option.eq_none_iff_forall_ne_some.mpr fun ⟨v, k⟩ hready => ?_
    obtain ⟨hcol, rest, hr⟩ := readColumnReady_iff.mp hready
    obtain ⟨b, hb, hv, hopen, hrow, hwarm, hturn⟩ := columnReady_iff.mp hcol
    rcases h b v hb hv with hbarred | hnone
    · exact not_barred hopen hrow hwarm hturn hbarred
    · simp [hr] at hnone
  · refine idles_of rfl (Option.isSome_eq_false_iff.mpr (Option.isNone_iff_eq_none.mpr ?_))
    refine Option.eq_none_iff_forall_ne_some.mpr fun ⟨v, k, data⟩ hready => ?_
    obtain ⟨hcol, hread, hdue, hpath, rest, hw⟩ := writeColumnReady_iff.mp hready
    obtain ⟨b, hb, hv, hopen, hrow, hwarm, hturn⟩ := columnReady_iff.mp hcol
    rcases h b v hb hv with hbarred | hne | hne | hnone | hne
    · exact not_barred hopen hrow hwarm hturn hbarred
    · exact hne hread
    · exact hne hdue
    · simp [hw] at hnone
    · exact hne hpath

end Sys2Proof.Machine
end


section
/-! PROOFS. PRECHARGE, the after-access decision, the end of a precharge and the row idle timer (03 R49 to R52,
R56 to R62; O29). -/

namespace Sys2Proof.Machine

/-! ## One bank changed -/

theorem modBank_eq_set {s : State} {pos : Nat} {b : Bank} (h : bankAt s pos = some b) (f : Bank → Bank) :
    modBank s pos f = { s with sched := { s.sched with banks := s.sched.banks.set pos (f b) } } := by
  have hget : s.sched.banks[pos]? = some b := h
  simp [modBank, List.modify_eq_set_getElem?, hget]

theorem set_bank_self {s : State} {pos : Nat} {b : Bank} (h : bankAt s pos = some b) :
    s = { s with sched := { s.sched with banks := s.sched.banks.set pos b } } := by
  have hset : s.sched.banks.set pos b = s.sched.banks := by
    obtain ⟨hlt, rfl⟩ := List.getElem?_eq_some_iff.mp (show s.sched.banks[pos]? = some b from h)
    exact List.set_getElem_self hlt
  rw [hset]

theorem modBank_modBank (s : State) (pos : Nat) (f g : Bank → Bank) :
    modBank (modBank s pos f) pos g = modBank s pos (g ∘ f) := by
  simp [modBank, List.modify_modify_eq]

/-! ## When PRECHARGE is ready (03 R50, R56, R57) -/

theorem lowerCloseDue_iff {s : State} {pos : Nat} : lowerCloseDue s pos = true ↔
    ∃ q < pos, ∃ c, bankAt s q = some c ∧ c.state = .openRow ∧ c.closePending = true ∧
      c.serving = none ∧ c.activatedAt ≤ s.sched.openedBy ∧ c.writtenAt ≤ s.sched.writtenBy := by
  simp only [lowerCloseDue, List.any_eq_true, List.mem_iff_getElem?, List.getElem?_take, closeDue_iff,
    Option.ite_none_right_eq_some]
  constructor
  · rintro ⟨c, ⟨q, hq, hc⟩, hdue⟩
    exact ⟨q, hq, c, hc, hdue⟩
  · rintro ⟨q, hq, c, hc, hdue⟩
    exact ⟨c, ⟨q, hq, hc⟩, hdue⟩

theorem closeReady_iff {s : State} {pos : Nat} : closeReady s pos = true ↔
    ∃ b, bankAt s pos = some b ∧ b.state = .openRow ∧ b.closePending = true ∧ b.serving = none ∧
      anyCommandReady (noteClocks s pos) = false ∧ lowerCloseDue (noteClocks s pos) pos = false := by
  simp only [closeReady, wantsClose, Option.any_eq_true, Bool.and_eq_true, decide_eq_true_eq,
    Bool.not_eq_true', Option.isNone_iff_eq_none, and_assoc]
  exact ⟨fun ⟨⟨b, hb, hopen, hpending, hserves⟩, hbefore⟩ => ⟨b, hb, hopen, hpending, hserves, hbefore⟩,
    fun ⟨b, hb, hopen, hpending, hserves, hbefore⟩ => ⟨⟨b, hb, hopen, hpending, hserves⟩, hbefore⟩⟩

theorem bankAt_noteClocks (s : State) (pos q : Nat) : bankAt (noteClocks s pos) q = bankAt s q := by
  simp [bankAt]

theorem conflictReady_iff {s : State} {pos : Nat} : conflictReady s pos = true ↔
    ∃ b v, bankAt s pos = some b ∧ b.serving = some v ∧ b.state = .openRow ∧ b.row ≠ slotRow s v.slot ∧
      (warmReset s = true → v.wrote = true) ∧
      earlierCommandReady (noteClocks s pos) v.issued = false := by
  have hwarm : warmReset (noteClocks s pos) = warmReset s := by simp [warmReset]
  constructor
  · intro h
    unfold conflictReady at h
    split at h
    · cases h
    · rename_i b v hs
      obtain ⟨hb, hv, hmay, hturn⟩ := serviceToSend_iff.mp hs
      rw [bankAt_noteClocks] at hb
      rw [hwarm] at hmay
      simp only [Bool.and_eq_true, decide_eq_true_eq] at h
      exact ⟨b, v, hb, hv, h.1, h.2, hmay, hturn⟩
  · rintro ⟨b, v, hb, hv, hopen, hrow, hmay, hturn⟩
    unfold conflictReady
    rw [serviceToSend_iff.mpr ⟨(bankAt_noteClocks s pos pos).trans hb, hv, by rwa [hwarm], hturn⟩]
    simp [hopen, hrow]

/-- The state after PRECHARGE, with the list of its rank named. -/
theorem precharged_eq {s : State} {pos : Nat} {b : Bank} (hb : bankAt s pos = some b) :
    precharged pos (beginEvent s) = { beginEvent s with
      sched := { listWithout (noteClocks s pos).sched (rankOf s pos) pos with
        banks := s.sched.banks.modify pos fun b => { b with
          state := .precharging
          row := none
          closePending := false
          idleTimer := .stopped
          serving := b.serving.map fun v => { v with reserved := true } } }
      channelOut := [.precharge pos] } := by
  have hbegun : bankAt (beginEvent s) pos = some b := hb
  unfold precharged leaveOpenRows modOpenRows listWithout
  rw [noteClocks_eq hb, noteClocks_eq hbegun]
  by_cases hr : pos / s.settings.geometry.banks = 0 <;> simp [modBank, rankOf, sendDram, beginEvent, hr]

theorem answers_prechargeSent {s : State} {pos : Nat}
    (h : closeReady s pos = true ∨ conflictReady s pos = true) :
    answers (.prechargeSent pos) s (precharged pos (beginEvent s)) :=
  answers_of rfl ((Bool.or_eq_true ..).mpr h) rfl

theorem idles_prechargeSent {s : State} {pos : Nat} (hclose : ¬ closeReady s pos = true)
    (hconflict : ¬ conflictReady s pos = true) : idles (.prechargeSent pos) s :=
  idles_of rfl (Bool.or_eq_false_iff.mpr
    ⟨Bool.eq_false_iff.mpr hclose, Bool.eq_false_iff.mpr hconflict⟩)

/-- What a PRECHARGE says of the times of its bank, as the statement writes it. -/
theorem precharge_cases (s : State) (pos : Nat) (b : Bank) (hb : bankAt s pos = some b)
    (hopen : b.state = .openRow) :
    let known : State := { s with sched := { s.sched with
      openedBy := max s.sched.openedBy b.activatedAt
      writtenBy := max s.sched.writtenBy b.writtenAt } }
    let lower : Prop := ∃ q < pos, ∃ c, bankAt s q = some c ∧ c.state = .openRow ∧
      c.closePending = true ∧ c.serving = none ∧ c.activatedAt ≤ known.sched.openedBy ∧
      c.writtenAt ≤ known.sched.writtenBy
    (b.closePending = true → b.serving = none → anyCommandReady known = true ∨ lower →
      exec (.prechargeSent pos) s = .next s) ∧
    ((b.closePending = true ∧ b.serving = none ∧ anyCommandReady known = false ∧ ¬ lower) ∨
      (∃ v, b.serving = some v ∧ b.row ≠ slotRow s v.slot ∧
        (warmReset s = true → v.wrote = true) ∧ earlierCommandReady known v.issued = false) →
      answers (.prechargeSent pos) s { beginEvent s with
        sched := { listWithout known.sched (rankOf s pos) pos with
          banks := s.sched.banks.modify pos fun b => { b with
            state := .precharging
            row := none
            closePending := false
            idleTimer := .stopped
            serving := b.serving.map fun v => { v with reserved := true } } }
        channelOut := [.precharge pos] }) := by
  intro known lower
  have hknown : noteClocks s pos = known := noteClocks_eq hb
  have hlower : lowerCloseDue (noteClocks s pos) pos = true ↔ lower := by
    rw [lowerCloseDue_iff, hknown]
    rfl
  constructor
  · intro _ hserves hbefore
    refine idles_prechargeSent (fun hc => ?_) fun hc => ?_
    · obtain ⟨_, -, -, -, -, hcommand, hclose⟩ := closeReady_iff.mp hc
      rw [hknown] at hcommand
      rcases hbefore with h | h
      · simp [hcommand] at h
      · simp [hlower.mpr h] at hclose
    · obtain ⟨c, v, hc, hv, -⟩ := conflictReady_iff.mp hc
      cases hb.symm.trans hc
      simp [hserves] at hv
  · intro h
    rw [← hknown, ← precharged_eq hb]
    refine answers_prechargeSent ?_
    rcases h with ⟨hpending, hserves, hcommand, hno⟩ | ⟨v, hv, hrow, hmay, hturn⟩
    · exact .inl (closeReady_iff.mpr ⟨b, hb, hopen, hpending, hserves, hknown ▸ hcommand,
        Bool.eq_false_iff.mpr (mt hlower.mp hno)⟩)
    · exact .inr (conflictReady_iff.mpr ⟨b, v, hb, hv, hopen, hrow, hmay, hknown ▸ hturn⟩)

/-! ## The after-access decision (03 R58, R61) -/

theorem behaviourOf_cases (s : State) (b : Bank) :
    (s.settings.rows.policy = .opened → behaviourOf s b = .keep) ∧
    (s.settings.rows.policy = .closed → behaviourOf s b = .close) ∧
    (s.settings.rows.policy = .adaptive → behaviourOf s b = b.behaviour) := by
  unfold behaviourOf
  cases s.settings.rows.policy <;> simp

section
variable {s : State} {pos : Nat} {b : Bank}

/-- The bank after its decision when it is not OPEN. -/
theorem afterAccess_of_notOpen (hb : bankAt s pos = some b) (h : b.state ≠ .openRow) :
    afterAccess s pos = modBank s pos fun b => { b with closeAfter := false } := by
  simp [afterAccess, hb, h]

theorem afterAccess_of_closeAfter (hb : bankAt s pos = some b) (h : b.state = .openRow)
    (hc : b.closeAfter = true) :
    afterAccess s pos = modBank s pos fun b => { b with closeAfter := false, closePending := true } := by
  simp [afterAccess, hb, h, hc]

theorem afterAccess_of_keep (hb : bankAt s pos = some b) (h : b.state = .openRow)
    (hc : b.closeAfter = false) (hk : behaviourOf s b = .keep) :
    afterAccess s pos = if s.settings.rows.rowIdle = 0 then s
      else modBank s pos fun b => { b with idleTimer := .running s.settings.rows.rowIdle } := by
  simp [afterAccess, hb, h, hc, hk, loaded]

theorem afterAccess_of_hit {p : Nat × Txn} (hb : bankAt s pos = some b) (h : b.state = .openRow)
    (hc : b.closeAfter = false) (hk : behaviourOf s b = .close) (hp : choice s pos = some p)
    (hrow : rowOf p.2 = b.row) : afterAccess s pos = s := by
  simp [afterAccess, hb, h, hc, hk, hp, hrow]

theorem afterAccess_of_miss (hb : bankAt s pos = some b) (h : b.state = .openRow)
    (hc : b.closeAfter = false) (hk : behaviourOf s b = .close)
    (hmiss : ∀ j t, choice s pos = some (j, t) → rowOf t ≠ b.row) :
    afterAccess s pos = requestClose s pos := by
  cases hp : choice s pos with
  | none => simp [afterAccess, hb, h, hc, hk, hp]
  | some p => simp [afterAccess, hb, h, hc, hk, hp, hmiss p.1 p.2 hp]

theorem requestClose_eq_set (hb : bankAt s pos = some b) (h : b.state = .openRow)
    (hv : b.serving = none) : requestClose s pos = { s with
      sched := { s.sched with banks := s.sched.banks.set pos { b with closePending := true } } } :=
  (requestClose_idle hb h hv).trans (modBank_eq_set hb fun b => { b with closePending := true })

theorem afterAccess_cases (hb : bankAt s pos = some b) (hv : b.serving = none) :
    let becomes (c : Bank) : Prop := afterAccess s pos = { s with
      sched := { s.sched with banks := s.sched.banks.set pos c } }
    (b.state ≠ .openRow → becomes { b with closeAfter := false }) ∧
    (b.state = .openRow →
      (b.closeAfter = true → becomes { b with closeAfter := false, closePending := true }) ∧
      (b.closeAfter = false →
        (behaviourOf s b = .keep → becomes { b with
          idleTimer := if s.settings.rows.rowIdle = 0 then b.idleTimer
            else .running s.settings.rows.rowIdle }) ∧
        (behaviourOf s b = .close →
          ((∃ j t, choice s pos = some (j, t) ∧ rowOf t = b.row) → becomes b) ∧
          ((∀ j t, choice s pos = some (j, t) → rowOf t ≠ b.row) →
            becomes { b with closePending := true })))) := by
  intro becomes
  refine ⟨fun hno => (afterAccess_of_notOpen hb hno).trans (modBank_eq_set hb _), fun ho =>
    ⟨fun hc => (afterAccess_of_closeAfter hb ho hc).trans (modBank_eq_set hb _), fun hc =>
    ⟨fun hk => (afterAccess_of_keep hb ho hc hk).trans ?_, fun hk => ⟨?_, fun hmiss => ?_⟩⟩⟩⟩
  · split
    · exact set_bank_self hb
    · exact modBank_eq_set hb _
  · rintro ⟨j, t, hch, hrow⟩
    exact (afterAccess_of_hit hb ho hc hk hch hrow).trans (set_bank_self hb)
  · exact (afterAccess_of_miss hb ho hc hk hmiss).trans (requestClose_eq_set hb ho hv)

end

/-! ## The end of a precharge and the row idle timer (03 R49, R62; 08 R132, R145) -/

theorem bankAt_closed {s : State} {pos : Nat} {b : Bank} (h : bankAt s pos = some b) :
    bankAt (closed pos (beginEvent s)) pos = some { b with state := .closed } := by
  have hbegun : bankAt (beginEvent s) pos = some b := h
  simp [closed, bankAt_modBank, hbegun]

/-- The end of a precharge ends a service that has not begun to write, during a warm reset alone. -/
theorem answers_prechargeComplete {s : State} {pos : Nat} {b : Bank} (hb : bankAt s pos = some b)
    (h : b.state = .precharging) : answers (.prechargeComplete (.bank pos)) s
      (if warmReset s = true ∧ ∃ v, b.serving = some v ∧ v.wrote = false
        then releaseBank (closed pos (beginEvent s)) pos else closed pos (beginEvent s)) := by
  refine answers_of (b := prechargeRuns s (.bank pos)) rfl (bankIs_of hb h) ?_
  refine congrArg settle (if_congr ?_ rfl rfl)
  rw [Bool.and_eq_true]
  refine and_congr_right fun _ => ?_
  rw [servesUnbegun_iff]
  constructor
  · rintro ⟨c, v, hc, hv, hno⟩
    cases (bankAt_closed hb).symm.trans hc
    exact ⟨v, hv, hno⟩
  · rintro ⟨v, hv, hno⟩
    exact ⟨_, v, bankAt_closed hb, hv, hno⟩

/-- What the expiry of the row idle timer makes of its bank. -/
theorem ownRowIdle_eq {s : State} {pos : Nat} {b : Bank} (hb : bankAt s pos = some b) :
    ownRowIdle pos (beginEvent s) = { beginEvent s with sched := { s.sched with
      openedBy := max s.sched.openedBy b.activatedAt
      writtenBy := max s.sched.writtenBy b.writtenAt
      banks := s.sched.banks.modify pos fun b => { b with
        idleTimer := .stopped
        closeAfter := b.closeAfter || b.serving.isSome
        closePending := b.closePending || (b.serving.isNone && decide (b.state = .openRow)) } } } := by
  have hbegun : bankAt (beginEvent s) pos = some b := hb
  have hbank : (closeAsked ∘ fun b : Bank => { b with idleTimer := .stopped }) = fun b : Bank => { b with
      idleTimer := .stopped
      closeAfter := b.closeAfter || b.serving.isSome
      closePending := b.closePending || (b.serving.isNone && decide (b.state = .openRow)) } := by
    funext c
    unfold closeAsked
    dsimp only [Function.comp_apply]
    cases c.serving with
    | some v => simp
    | none => by_cases ho : c.state = .openRow <;> simp [ho]
  show modBank (modBank (noteClocks (beginEvent s) pos) pos _) pos closeAsked = _
  rw [modBank_modBank, hbank, noteClocks_eq hbegun]
  rfl

theorem prechargeComplete_cases {s : State} {pos : Nat} {b : Bank} (hb : bankAt s pos = some b)
    (h : b.state = .precharging) :
    ((∀ v, b.serving = some v → warmReset s = true → v.wrote = true) →
      answers (.prechargeComplete (.bank pos)) s (closed pos (beginEvent s))) ∧
    (∀ v, b.serving = some v → warmReset s = true → v.wrote = false →
      answers (.prechargeComplete (.bank pos)) s (releaseBank (closed pos (beginEvent s)) pos)) := by
  have hans := answers_prechargeComplete hb h
  refine ⟨fun hmay => ?_, fun v hv hw hno => ?_⟩
  · rwa [if_neg fun ⟨hw, v, hv, hno⟩ => by simp [hmay v hv hw] at hno] at hans
  · rwa [if_pos ⟨hw, v, hv, hno⟩] at hans

/-- After the PRECHARGE-ALLs of a start the refresh rounds begin (08 R132 step 3). -/
theorem exec_prechargeComplete_start {s : State} (hp : s.chan.startPhase = .precharging)
    (hw : warmReset s = false) : exec (.prechargeComplete .start) s = .next { beginEvent s with
      chan := { s.chan with startPhase := .refreshing 0 [] } } := by
  have hruns : prechargeRuns s .start = true := by simp [prechargeRuns, hp, hw]
  exact happens_of (f := completePrecharge .start) hruns rfl

theorem answers_rowIdleTimerExpiry {s : State} {pos n : Nat} {b : Bank} (hb : bankAt s pos = some b)
    (h : b.idleTimer = .running n) :
    answers (.rowIdleTimerExpiry pos) s (ownRowIdle pos (beginEvent s)) := by
  have hruns : ((bankAt s pos).any fun b => timerRuns b.idleTimer) = true := by simp [hb, h, timerRuns]
  exact answers_of (f := expireRowIdle pos) rfl hruns rfl

/-- Settles O29: PRECHARGE by its readiness, the decision by the bank, the expiries by what is in progress. -/
theorem prechargesRun : Obligations.PrechargesRun := by
  refine ⟨precharge_cases, ⟨behaviourOf_cases, fun s pos b hb hv => afterAccess_cases hb hv⟩,
    fun s => ⟨fun pos b hb hst => prechargeComplete_cases hb hst, exec_prechargeComplete_start,
      fun pos b n hb hn => ownRowIdle_eq hb ▸ answers_rowIdleTimerExpiry hb hn⟩,
    fun s pos => ⟨fun h => ?_, fun h => idles_of rfl (bankIs_false h), fun h => ?_, fun h => ?_⟩⟩
  · refine idles_prechargeSent (fun hc => ?_) fun hc => ?_
    · obtain ⟨b, hb, hopen, hpending, hserves, -⟩ := closeReady_iff.mp hc
      rcases h b hb with hno | ⟨hclose, -⟩
      · exact hno hopen
      · simp [hclose hserves] at hpending
    · obtain ⟨b, v, hb, hv, hopen, hrow, hmay, hturn⟩ := conflictReady_iff.mp hc
      rcases h b hb with hno | ⟨-, hconflict⟩
      · exact hno hopen
      · rw [noteClocks_eq hb] at hturn
        rcases hconflict v hv with heq | ⟨hw, hno⟩ | hready
        · exact hrow heq
        · simp [hmay hw] at hno
        · simp [hready] at hturn
  · refine idles_of rfl (show prechargeRuns s .start = false from ?_)
    rcases h with hne | hw
    · simp [prechargeRuns, hne]
    · simp [prechargeRuns, hw]
  · refine idles_of rfl ((Option.any_eq_false ..).mpr fun b hb => ?_)
    simp [timerRuns_false (h b hb)]

end Sys2Proof.Machine
end


section
/-! PROOFS. Refresh commands, rounds and the end of an episode (07 R125, R126; 08 R132; O30). -/

namespace Sys2Proof.Machine

/-! ## The banks of a rank -/

theorem allClosed_iff {s : State} :
    allClosed s = true ↔ ∀ p b, bankAt s p = some b → b.state = .closed := by
  simp only [allClosed, List.all_eq_true, decide_eq_true_eq, bankAt]
  exact ⟨fun h p b hb => h b (List.mem_of_getElem? hb), fun h b hb =>
    let ⟨p, hp⟩ := List.mem_iff_getElem?.mp hb
    h p b hp⟩

theorem mem_positionsOf_of_bank {s : State} {rank p : Nat} {b : Bank} (hb : bankAt s p = some b) :
    p ∈ positionsOf s rank ↔ rankOf s p = rank := by
  rw [mem_positionsOf, and_iff_right (bankAt_lt hb)]

theorem rankClosed_iff {s : State} {rank : Nat} : rankClosed s rank = true ↔
    ∀ p b, bankAt s p = some b → rankOf s p = rank → b.state = .closed := by
  rw [rankClosed, List.all_eq_true]
  constructor
  · intro h p b hb hr
    have hany := h p ((mem_positionsOf_of_bank hb).mpr hr)
    rw [hb] at hany
    simpa using hany
  · intro h p hp
    obtain ⟨hlt, hr⟩ := mem_positionsOf.mp hp
    have hb : bankAt s p = some s.sched.banks[p] := List.getElem?_eq_getElem hlt
    rw [hb]
    simpa using h p _ hb hr

theorem rankRefreshing_iff {s : State} {rank : Nat} : rankRefreshing s rank = true ↔
    ∃ p b, bankAt s p = some b ∧ rankOf s p = rank ∧ b.state = .refreshing := by
  simp only [rankRefreshing, List.any_eq_true, bankIs, Option.any_eq_true, decide_eq_true_eq]
  constructor
  · rintro ⟨p, hp, b, hb, hst⟩
    exact ⟨p, b, hb, (mem_positionsOf_of_bank hb).mp hp, hst⟩
  · rintro ⟨p, b, hb, hr, hst⟩
    exact ⟨p, (mem_positionsOf_of_bank hb).mpr hr, b, hb, hst⟩

/-- Every bank of a rank is changed, by a change that is no more when made twice. -/
theorem foldl_modRank (s : State) (rank : Nat) (f : Bank → Bank) (hf : ∀ b, f (f b) = f b) :
    let u := (positionsOf s rank).foldl (fun st p => modBank st p f) s
    (∀ q, bankAt u q = (bankAt s q).map fun b => if rankOf s q = rank then f b else b) ∧
    u = { s with sched := { s.sched with banks := u.sched.banks } } := by
  obtain ⟨hbanks, hrest⟩ := foldl_modBank f hf (positionsOf s rank) s
  refine ⟨fun q => (hbanks q).trans ?_, hrest⟩
  cases hb : bankAt s q with
  | none => rfl
  | some b =>
    rw [Option.map_some, Option.map_some]
    exact congrArg some (if_congr (mem_positionsOf_of_bank hb) rfl rfl)

/-! ## REFRESH (07 R125; 08 R132 step 3) -/

theorem startRefreshNext_iff {s : State} {rank : Nat} : startRefreshNext s rank = true ↔
    ∃ done sent, s.chan.startPhase = .refreshing done sent ∧ warmReset s = false ∧
      rank = sent.length ∧ rank < s.settings.geometry.ranks := by
  unfold startRefreshNext
  cases s.chan.startPhase <;> simp [and_assoc]

theorem episodeRefreshNext_iff {s : State} {rank : Nat} : episodeRefreshNext s rank = true ↔
    ∃ k, s.refresh.episode = .holds k .refreshing ∧ warmReset s = false ∧
      rank = s.refresh.sent.length ∧ rank < s.settings.geometry.ranks ∧ rankClosed s rank = true ∧
      anyCommandReady s = false ∧ anyCloseDue s = false := by
  unfold episodeRefreshNext
  cases s.refresh.episode with
  | none => simp
  | holds k p => cases p <;> simp [and_assoc]

theorem exec_startRefresh {s : State} {rank done : Nat} {sent : List Nat}
    (hp : s.chan.startPhase = .refreshing done sent) (h : startRefreshNext s rank = true) :
    exec (.refreshCommandSent rank) s = .next { beginEvent s with
      chan := { s.chan with startPhase := .refreshing done (sent ++ [rank]) }
      channelOut := [.refresh rank] } := by
  have hbegun : startRefreshNext (beginEvent s) rank = true := h
  have hphase : (beginEvent s).chan.startPhase = .refreshing done sent := hp
  refine happens_of (f := sendRefresh rank) ((Bool.or_eq_true ..).mpr (.inl h)) ?_
  unfold sendRefresh noteStartRefresh
  rw [if_pos hbegun, hphase]
  rfl

/-- The REFRESH of an episode: the banks of the rank are REFRESHING. -/
theorem exec_episodeRefresh {s : State} {rank : Nat} (hno : startRefreshNext s rank = false)
    (h : episodeRefreshNext s rank = true) :
    ∃ u, exec (.refreshCommandSent rank) s = .next u ∧
      (∀ p, bankAt u p = (bankAt s p).map fun b =>
        if rankOf s p = rank then { b with state := .refreshing } else b) ∧
      u = { beginEvent s with
        sched := { s.sched with banks := u.sched.banks }
        refresh := { s.refresh with
          sent := s.refresh.sent ++ [rank], sentAt := some (s.event + 1) }
        channelOut := [.refresh rank] } := by
  obtain ⟨hbanks, hrest⟩ :=
    foldl_modRank (beginEvent s) rank (fun b => { b with state := .refreshing }) fun _ => rfl
  have hexec : exec (.refreshCommandSent rank) s =
      .next (sendDram (refreshRank rank (beginEvent s)) [.refresh rank]) := by
    refine happens_of (f := sendRefresh rank) ((Bool.or_eq_true ..).mpr (.inr h)) ?_
    unfold sendRefresh
    rw [if_neg (Bool.eq_false_iff.mp (show startRefreshNext (beginEvent s) rank = false from hno))]
  refine ⟨_, hexec, hbanks, ?_⟩
  unfold refreshRank
  dsimp only
  rw [hrest]
  rfl

/-! ## The end of a refresh (03 R49; 07 R125, R126) -/

theorem rankRefreshed_spec (s : State) (rank : Nat) :
    let v := rankRefreshed rank (beginEvent s)
    (∀ q, bankAt v q = (bankAt s q).map fun b => if rankOf s q = rank ∧ b.state = .refreshing
      then { b with state := .closed, lastRow := none } else b) ∧
    v = { beginEvent s with sched := { s.sched with banks := v.sched.banks } } := by
  obtain ⟨hbanks, hrest⟩ := foldl_modRank (beginEvent s) rank (fun b =>
      if b.state = .refreshing then { b with state := .closed, lastRow := none } else b) fun b => by
    by_cases hst : b.state = .refreshing <;> simp [hst]
  refine ⟨fun q => (hbanks q).trans ?_, hrest⟩
  refine congrArg (Option.map · (bankAt s q)) (funext fun b => ?_)
  exact (ite_and ..).symm

theorem answers_refreshComplete {s : State} {rank p : Nat} {b : Bank} (hb : bankAt s p = some b)
    (hst : b.state = .refreshing) (hr : rankOf s p = rank) :
    answers (.refreshComplete rank) s (testRound (rankRefreshed rank (beginEvent s))) :=
  answers_of (f := completeRefresh rank) rfl (rankRefreshing_iff.mpr ⟨p, b, hb, hr, hst⟩) rfl

theorem testRound_of_open {s : State} (h : (∀ k, s.refresh.episode ≠ .holds k .refreshing) ∨
    (∃ r < s.settings.geometry.ranks, r ∉ s.refresh.sent) ∨ allClosed s = false) : testRound s = s := by
  unfold testRound
  split
  · rename_i k he
    refine if_neg fun hall => ?_
    rw [Bool.and_eq_true, List.all_eq_true] at hall
    rcases h with hno | ⟨r, hr, hnot⟩ | hopen
    · exact hno k he
    · exact hnot (List.contains_iff_mem.mp (hall.1 r (List.mem_range.mpr hr)))
    · simp [hopen] at hall
  · rfl

theorem testRound_of_complete {s : State} {k : EpisodeKind} (he : s.refresh.episode = .holds k .refreshing)
    (hsent : ∀ r < s.settings.geometry.ranks, r ∈ s.refresh.sent) (hc : allClosed s = true) :
    testRound s = completeRound s k := by
  have hall : ((installedRanks s).all fun r => s.refresh.sent.contains r) = true :=
    List.all_eq_true.mpr fun r hr => List.contains_iff_mem.mpr (hsent r (List.mem_range.mp hr))
  unfold testRound
  rw [he]
  dsimp only
  rw [hall, hc]
  rfl

/-- The Refresh Controller once a round is complete: the debt falls by one. -/
def roundPaid (s : State) : State :=
  { s with refresh := { s.refresh with debt := s.refresh.debt - 1, sent := [], sentAt := none } }

/-- The round that pays the last debt ends its episode; so does an opportunistic one where a transaction is
eligible. -/
theorem completeRound_eq (s : State) (k : EpisodeKind) : completeRound s k =
    if s.refresh.debt - 1 = 0 ∨ (k = .opportunistic ∧ anyEligible (roundPaid s) = true)
      then endEpisode (roundPaid s) else roundPaid s := by
  cases k with
  | opportunistic =>
    refine if_congr ?_ rfl rfl
    rw [Bool.or_eq_true, decide_eq_true_eq, and_iff_right rfl]
    rfl
  | forced => exact if_congr (by simp) rfl rfl

theorem endEpisode_roundPaid (s : State) : endEpisode (roundPaid s) = { roundPaid s with
    refresh := { (roundPaid s).refresh with episode := .none }
    tenure := { s.tenure with
      quantum := resumeTimer s.tenure.quantum, idle := resumeIdle s.tenure.idle } } := rfl

/-- What a round comes to at the end of a refresh, where `v` has the rank's banks CLOSED. -/
theorem roundEnds_cases {s v : State} {rank : Nat} (hans : answers (.refreshComplete rank) s (testRound v))
    (hrefresh : v.refresh = s.refresh) (htenure : v.tenure = s.tenure)
    (hset : v.settings = s.settings) :
    ((∀ k, s.refresh.episode ≠ .holds k .refreshing) ∨
      (∃ r < s.settings.geometry.ranks, r ∉ s.refresh.sent) ∨ allClosed v = false →
      answers (.refreshComplete rank) s v) ∧
    ∀ k, s.refresh.episode = .holds k .refreshing →
      (∀ r < s.settings.geometry.ranks, r ∈ s.refresh.sent) → allClosed v = true →
      let w := { v with refresh := { s.refresh with
        debt := s.refresh.debt - 1, sent := [], sentAt := none } }
      (s.refresh.debt - 1 ≠ 0 ∧ (k = .forced ∨ anyEligible w = false) →
        answers (.refreshComplete rank) s w) ∧
      (s.refresh.debt - 1 = 0 ∨ (k = .opportunistic ∧ anyEligible w = true) →
        answers (.refreshComplete rank) s { w with
          refresh := { w.refresh with episode := .none }
          tenure := { s.tenure with
            quantum := resumeTimer s.tenure.quantum, idle := resumeIdle s.tenure.idle } }) := by
  rw [← hrefresh, ← htenure, ← hset]
  refine ⟨fun h => ?_, fun k he hsent hc => ?_⟩
  · rwa [testRound_of_open h] at hans
  · rw [testRound_of_complete he hsent hc, completeRound_eq] at hans
    refine ⟨fun ⟨hdebt, hgoes⟩ => ?_, fun (hends : _ ∨ (_ ∧ anyEligible (roundPaid v) = true)) => ?_⟩
    · rwa [if_neg] at hans
      rintro (hzero | ⟨rfl, hel⟩)
      · exact hdebt hzero
      · rcases hgoes with hk | hno
        · cases hk
        · exact absurd (hno.symm.trans hel) (by decide)
    · rwa [if_pos hends, endEpisode_roundPaid] at hans

/-- Settles O30: REFRESH by whose turn it is, its end by what is left of the round and of the debt. -/
theorem refreshRounds : Obligations.RefreshRounds := by
  refine ⟨fun s rank => ⟨fun done sent hp hw hnext hlt => ?_, fun k hno he hw hnext hlt hc hcom hclose => ?_,
    fun p b hb hst hr => ?_⟩, fun s rank => ⟨fun hstart hepisode => ?_, fun h => ?_, rankClosed_iff,
    allClosed_iff⟩⟩
  · exact exec_startRefresh hp (startRefreshNext_iff.mpr ⟨done, sent, hp, hw, hnext, hlt⟩)
  · exact exec_episodeRefresh hno
      (episodeRefreshNext_iff.mpr ⟨k, he, hw, hnext, hlt, hc, hcom, hclose⟩)
  · obtain ⟨hbanks, hrest⟩ := rankRefreshed_spec s rank
    exact ⟨_, hbanks, hrest, roundEnds_cases (answers_refreshComplete hb hst hr)
      (by simp) (by simp) (by simp)⟩
  · refine idles_of rfl (Bool.or_eq_false_iff.mpr
      ⟨Bool.eq_false_iff.mpr fun hn => ?_, Bool.eq_false_iff.mpr fun hn => ?_⟩)
    · obtain ⟨done, sent, hp, hnext⟩ := startRefreshNext_iff.mp hn
      exact hstart done sent hp hnext
    · obtain ⟨k, he, hw, hnext, hlt, hc, hcom, hclose⟩ := episodeRefreshNext_iff.mp hn
      rcases hepisode with hno | hno | hno | hready | hready
      · exact hno k he
      · exact hno ⟨hw, hnext, hlt⟩
      · simp [hc] at hno
      · simp [hcom] at hready
      · simp [hclose] at hready
  · refine idles_of rfl (Bool.eq_false_iff.mpr fun hn => ?_)
    obtain ⟨p, b, hb, hr, hst⟩ := rankRefreshing_iff.mp hn
    exact h p b hb hr hst

end Sys2Proof.Machine
end


section
/-! PROOFS. Additions to the refresh debt, episodes that begin, and the refresh timer (07 R119 to R124; O31). -/

namespace Sys2Proof.Machine

/-! ## The refresh timer and the cue monitor (07 R120, R121) -/

theorem refreshPeriod_internal {s : State} (h : s.settings.refresh.mode = .internal) :
    refreshPeriod s = s.settings.refresh.group * s.settings.refresh.refi := by
  rw [refreshPeriod, h]

theorem refreshPeriod_linked {s : State} (h : s.settings.refresh.mode = .linked) :
    refreshPeriod s = 2 * s.settings.refresh.group * s.settings.refresh.refi := by
  rw [refreshPeriod, h]

theorem answers_refreshTimerExpiry {s : State} {n : Nat} (ht : s.refresh.timer = .running n)
    (hm : s.settings.refresh.mode = .internal) :
    answers .refreshTimerExpiry s (addDebt { beginEvent s with refresh := { s.refresh with
      timer := .running (s.settings.refresh.group * s.settings.refresh.refi) } }) := by
  rw [← refreshPeriod_internal hm]
  exact answers_of (f := expireRefreshTimer) rfl (by simp [ht, hm, timerRuns]) rfl

theorem exec_cueMonitorExpiry {s : State} {n : Nat} (ht : s.refresh.timer = .running n)
    (hm : s.settings.refresh.mode = .linked) :
    exec .cueMonitorExpiry s = .next (expireCueMonitor (beginEvent s)) :=
  happens_of (by simp [ht, hm, timerRuns]) rfl

theorem expireCueMonitor_of_seen {s : State} (h : s.refresh.cueSeen = true) :
    expireCueMonitor (beginEvent s) = { beginEvent s with refresh := { s.refresh with
      timer := .running (refreshPeriod s), cueSeen := false } } :=
  if_pos h

theorem expireCueMonitor_of_missing {s : State} (h : s.refresh.cueSeen = false) :
    expireCueMonitor (beginEvent s) = settle (addDebt (raiseAlert { beginEvent s with
      refresh := { s.refresh with timer := .running (refreshPeriod s) } }
      .cueMissing (some s.settings.refresh.cueLink) none none none)) :=
  if_neg (Bool.eq_false_iff.mp h)

/-! ## Cues (07 R121) -/

theorem exec_refreshCue {s : State} {x : Link} {seq : Byte} (h : accepts s x seq) :
    exec (.refreshCue x seq) s = .next (takeCue x (accepted s x)) :=
  congrArg Host.Outcome.next (receive_accepts h (takeCue x))

theorem takeCue_internal {s : State} (h : s.settings.refresh.mode = .internal) (x : Link) :
    takeCue x s = s := by
  simp [takeCue, h]

theorem takeCue_other {s : State} {x : Link} (h : s.settings.refresh.mode = .linked)
    (hx : x ≠ s.settings.refresh.cueLink) :
    takeCue x s = raiseAlert s .protocol (some x) none (some .wrongCue) none := by
  simp [takeCue, h, hx, raiseProtocol]

theorem takeCue_cueLink {s : State} {x : Link} (h : s.settings.refresh.mode = .linked)
    (hx : x = s.settings.refresh.cueLink) : takeCue x s =
      if s.chan.state = .run ∨ s.chan.state = .quiescing ∨ s.chan.state = .resuming
        then settle (addDebt { s with refresh := { s.refresh with cueSeen := true } }) else s := by
  have hcount : cuesCount s = true ↔
      s.chan.state = .run ∨ s.chan.state = .quiescing ∨ s.chan.state = .resuming := by
    simp [cuesCount, channelServes, or_assoc]
  rw [← if_congr hcount rfl rfl]
  unfold takeCue
  rw [h]
  exact if_neg (not_not_intro hx)

theorem cue_cases {s : State} {x : Link} {seq : Byte} (h : accepts s x seq) :
    (s.settings.refresh.mode = .internal → exec (.refreshCue x seq) s = .next (accepted s x)) ∧
    (s.settings.refresh.mode = .linked → x ≠ s.settings.refresh.cueLink →
      exec (.refreshCue x seq) s = .next (raiseAlert (accepted s x) .protocol (some x) none
        (some .wrongCue) none)) ∧
    (s.settings.refresh.mode = .linked → x = s.settings.refresh.cueLink →
      (s.chan.state = .run ∨ s.chan.state = .quiescing ∨ s.chan.state = .resuming →
        answers (.refreshCue x seq) s (addDebt { accepted s x with
          refresh := { s.refresh with cueSeen := true } })) ∧
      (s.chan.state = .init ∨ s.chan.state = .starting ∨ s.chan.state = .quiesced →
        exec (.refreshCue x seq) s = .next (accepted s x))) := by
  have hset : (accepted s x).settings = s.settings := by simp
  have hchan : (accepted s x).chan = s.chan := by simp
  have hrefresh : (accepted s x).refresh = s.refresh := by simp
  unfold answers
  rw [exec_refreshCue h, ← hset, ← hchan, ← hrefresh]
  refine ⟨fun hm => ?_, fun hm hx => ?_, fun hm hx => ⟨fun hrun => ?_, fun hstop => ?_⟩⟩
  · rw [takeCue_internal hm]
  · rw [takeCue_other hm hx]
  · rw [takeCue_cueLink hm hx, if_pos hrun]
  · rw [takeCue_cueLink hm hx, if_neg]
    rcases hstop with hstop | hstop | hstop <;> rw [hstop] <;> decide

/-! ## Additions to the debt (07 R119) -/

theorem addDebt_cases (s : State) :
    let total := s.refresh.debt + s.settings.refresh.group
    let raised := { s with refresh := { s.refresh with debt := min 8 total } }
    (total ≤ 8 → addDebt s = forceTest raised) ∧
    (8 < total → addDebt s = forceTest (raiseAlert raised .refreshOverrun none none none
      (some (total - 8)))) :=
  ⟨fun h => congrArg forceTest (if_neg (Nat.not_lt.mpr h)), fun h => congrArg forceTest (if_pos h)⟩

/-! ## Episodes that begin (07 R123, R124; 04 R79; 03 R50) -/

/-- An episode that begins pauses the tenure timers and requests the close of every bank. -/
theorem episode_begins (s : State) (k : EpisodeKind) (p : Progress) :
    let u := requestCloses (pauseTenure (withRefresh s { s.refresh with episode := .holds k p }))
      (positions s)
    (∀ pos, bankAt u pos = (bankAt s pos).map closeAsked) ∧
    u = { s with
      refresh := { s.refresh with episode := .holds k p }
      tenure := { s.tenure with
        quantum := pauseTimer s.tenure.quantum, idle := pauseIdle s.tenure.idle }
      sched := { s.sched with banks := u.sched.banks } } :=
  requestCloses_all s (pauseTenure (withRefresh s { s.refresh with episode := .holds k p })) rfl

theorem forcedHolds_iff {s : State} :
    forcedHolds s = true ↔ ∃ p, s.refresh.episode = .holds .forced p := by
  unfold forcedHolds
  cases s.refresh.episode with
  | none => simp
  | holds k p => cases k <;> simp

/-- The condition of a forced episode. -/
theorem forceDue_iff {s : State} : (channelServes s && !forcedHolds s &&
    s.settings.refresh.forceLevel ≤ s.refresh.debt) = true ↔
      (s.chan.state = .run ∨ s.chan.state = .quiescing) ∧
      (¬ ∃ p, s.refresh.episode = .holds .forced p) ∧
      s.settings.refresh.forceLevel ≤ s.refresh.debt := by
  rw [← forcedHolds_iff]
  simp [channelServes, and_assoc]

theorem forceTest_idle {s : State} (h : (s.chan.state ≠ .run ∧ s.chan.state ≠ .quiescing) ∨
    s.refresh.debt < s.settings.refresh.forceLevel ∨ (∃ p, s.refresh.episode = .holds .forced p)) :
    forceTest s = s := by
  refine if_neg (mt forceDue_iff.mp ?_)
  rintro ⟨hserves, hno, hlevel⟩
  rcases h with ⟨hrun, hquiescing⟩ | hless | hforced
  · exact hserves.elim hrun hquiescing
  · exact absurd hlevel (Nat.not_le.mpr hless)
  · exact hno hforced

theorem forceTest_opportunistic {s : State} {p : Progress}
    (hserves : s.chan.state = .run ∨ s.chan.state = .quiescing)
    (hlevel : s.settings.refresh.forceLevel ≤ s.refresh.debt)
    (he : s.refresh.episode = .holds .opportunistic p) :
    forceTest s = { s with refresh := { s.refresh with episode := .holds .forced p } } := by
  unfold forceTest
  rw [if_pos (forceDue_iff.mpr ⟨hserves, by simp [he], hlevel⟩), he]
  rfl

theorem forceTest_begins {s : State} (hserves : s.chan.state = .run ∨ s.chan.state = .quiescing)
    (hlevel : s.settings.refresh.forceLevel ≤ s.refresh.debt) (he : s.refresh.episode = .none) :
    forceTest s = requestCloses (pauseTenure (withRefresh s { s.refresh with
      episode := .holds .forced (if anyInFlight s then .waiting else .closing) })) (positions s) := by
  unfold forceTest
  rw [if_pos (forceDue_iff.mpr ⟨hserves, by simp [he], hlevel⟩), he]

/-- Settles O31: the debt by its additions, the episodes by what they begin with, the expiries by the mode. -/
theorem debtAndEpisodes : Obligations.DebtAndEpisodes := by
  refine ⟨fun s => ⟨fun n ht hm => answers_refreshTimerExpiry ht hm,
      fun n ht hm => ⟨fun hseen => ?_, fun hmissing => ?_⟩, fun x seq h => cue_cases h⟩, fun s => ?_,
    fun s => ⟨fun h => ?_, fun h => ?_, refreshPeriod_internal, refreshPeriod_linked⟩, fun n => ?_⟩
  · rw [exec_cueMonitorExpiry ht hm, expireCueMonitor_of_seen hseen, refreshPeriod_linked hm]
  · unfold answers
    rw [exec_cueMonitorExpiry ht hm, expireCueMonitor_of_missing hmissing, refreshPeriod_linked hm]
  · obtain ⟨hadd, hlost⟩ := addDebt_cases s
    refine ⟨hadd, hlost, forceTest_idle, fun hserves hlevel =>
      ⟨fun p he => forceTest_opportunistic hserves hlevel he, fun he => ?_⟩,
      episode_begins s .opportunistic .closing⟩
    rw [forceTest_begins hserves hlevel he]
    exact episode_begins s .forced _
  · refine idles_of rfl (Bool.and_eq_false_iff.mpr (h.imp timerRuns_false fun hm => ?_))
    simp [hm]
  · refine idles_of rfl (Bool.and_eq_false_iff.mpr (h.imp timerRuns_false fun hm => ?_))
    simp [hm]
  · exact ⟨rfl, rfl, rfl, rfl, rfl, rfl, rfl, rfl, rfl, rfl, rfl, rfl, rfl, rfl⟩

end Sys2Proof.Machine
end


section
/-! PROOFS. The values a settings field takes, and what its write does (11 section 11.10; 09 R155, R157; 04 R85;
06 R102; 07 R122, R124; O39). -/

namespace Sys2Proof.Machine

/-! ## The values a field takes (11 section 11.10) -/

theorem valueOk_iff {s : State} {f : Field} {v : Nat} : valueOk s f v = true ↔
    (fieldRange f).1 ≤ v ∧ v ≤ (fieldRange f).2 ∧ fieldCheck s f v = true := by
  simp [valueOk, and_assoc]

/-- A code of two values is 0 or 1. -/
theorem valueOk_code {s : State} {f : Field} (hr : fieldRange f = (0, 1))
    (hc : ∀ v, fieldCheck s f v = true) (v : Nat) : valueOk s f v = true ↔ v = 0 ∨ v = 1 := by
  rw [valueOk_iff, hr, hc, and_iff_left rfl]
  dsimp only
  omega

/-- A field whose only condition is its range. -/
theorem valueOk_range {s : State} {f : Field} {lo hi : Nat} (hr : fieldRange f = (lo, hi))
    (hc : ∀ v, fieldCheck s f v = true) (v : Nat) : valueOk s f v = true ↔ lo ≤ v ∧ v ≤ hi := by
  rw [valueOk_iff, hr, hc, and_iff_left rfl]

/-- A field that takes any number up to a bound. -/
theorem valueOk_upTo {s : State} {f : Field} {hi : Nat} (hr : fieldRange f = (0, hi))
    (hc : ∀ v, fieldCheck s f v = true) (v : Nat) : valueOk s f v = true ↔ v ≤ hi := by
  rw [valueOk_range hr hc, and_iff_right (Nat.zero_le v)]

theorem valueOk_cases (s : State) (f : Field) (v : Nat) : valueOk s f v = true ↔ match f with
    | .creditLimit x => 1 ≤ v ∧ v ≤ 32 ∧ v + (linkOf s (otherLink x)).currentLimit ≤ 48 ∧
        v + s.settings.creditLimit.get (otherLink x) ≤ 48
    | .tenureMode | .closeOnHandover | .refreshMode | .cueLink | .caching _ | .filterEnable
    | .interleave | .alertLink => v = 0 ∨ v = 1
    | .quantum _ | .noticeLimit | .lockLimit | .commitLimit | .lease => 1 ≤ v ∧ v ≤ 255
    | .idleLimit _ | .rankGap => v ≤ 63
    | .policy => v ≤ 2
    | .openLimit => 1 ≤ v ∧ v ≤ 8 ∧ v ≤ s.settings.geometry.banks
    | .rowIdle => v ≤ 255
    | .bypassLimit => v ≤ 15
    | .missStreak | .hitStreak => 1 ≤ v ∧ v ≤ 7
    | .group => v = 1 ∨ v = 2 ∨ v = 4
    | .refi => 4 ≤ v ∧ v ≤ 63
    | .forceLevel => 1 ≤ v ∧ v ≤ 8
    | .ranks => v = 1 ∨ v = 2
    | .banks => v = 4 ∨ v = 8
    | .rows => v = 4096 ∨ v = 8192 ∨ v = 16384 ∨ v = 32768
    | .channelClock => v = 200 ∨ v = 250 ∨ v = 300 ∨ v = 350 ∨ v = 400
    | .actTime | .preTime | .writeRecovery => 2 ≤ v ∧ v ≤ 15
    | .minOpen => 4 ≤ v ∧ v ≤ 40
    | .readLatency => 2 ≤ v ∧ v ≤ 8
    | .refreshTime => 8 ≤ v ∧ v ≤ 255
    | .startWait => 100 ≤ v ∧ v ≤ 1000
    | .startRefreshes => 2 ≤ v ∧ v ≤ 16
    | .corrThreshold => 1 ≤ v ∧ v ≤ 65535
    | .status _ => False := by
  cases f
  case creditLimit x =>
    rw [valueOk_iff, fieldCheck, decide_eq_true_eq, fieldRange]
    omega
  case openLimit => rw [valueOk_iff, fieldCheck, decide_eq_true_eq, fieldRange]
  case group =>
    rw [valueOk_iff, fieldCheck, decide_eq_true_eq, fieldRange]
    omega
  case ranks =>
    rw [valueOk_range (lo := 1) (hi := 2) rfl fun _ => rfl]
    dsimp only
    omega
  case banks | rows =>
    simp only [valueOk_iff, fieldRange, fieldCheck, Bool.or_eq_true, decide_eq_true_eq]
    omega
  case channelClock =>
    rw [valueOk_iff, fieldCheck, decide_eq_true_eq, fieldRange]
    omega
  case status =>
    rw [valueOk_range (lo := 1) (hi := 0) rfl fun _ => rfl]
    exact iff_of_false (by omega) id
  case idleLimit | rankGap | policy | rowIdle | bypassLimit => exact valueOk_upTo rfl (fun _ => rfl) v
  case tenureMode | closeOnHandover | refreshMode | cueLink | caching | filterEnable | interleave |
      alertLink => exact valueOk_code rfl (fun _ => rfl) v
  all_goals exact valueOk_range rfl (fun _ => rfl) v

/-! ## A stored field (09 R155) -/

theorem codeOfBool_decide {v : Nat} (h : v = 0 ∨ v = 1) : codeOfBool (decide (v = 1)) = v := by
  rcases h with rfl | rfl <;> rfl

theorem linkCode_linkOfCode {v : Nat} (h : v = 0 ∨ v = 1) : linkCode (linkOfCode v) = v := by
  rcases h with rfl | rfl <;> rfl

/-- A field that is stored reads back as written. -/
theorem readField_storeField {s : State} {f : Field} {v : Nat} (h : valueOk s f v = true) :
    readField (storeField s f v) f = v := by
  have hv := (valueOk_cases s f v).mp h
  cases f
  case creditLimit x => exact PerLink.get_set s.settings.creditLimit x v
  case quantum x => exact PerLink.get_set s.settings.tenure.quantum x v
  case idleLimit x => exact PerLink.get_set s.settings.tenure.idleLimit x v
  case caching x =>
    exact (congrArg codeOfBool (PerLink.get_set s.settings.notices.caching x (decide (v = 1)))).trans
      (codeOfBool_decide hv)
  case closeOnHandover | filterEnable => exact codeOfBool_decide hv
  case cueLink | alertLink => exact linkCode_linkOfCode hv
  case tenureMode | refreshMode | interleave => rcases hv with rfl | rfl <;> rfl
  case policy =>
    have hcodes : v = 0 ∨ v = 1 ∨ v = 2 := by dsimp only at hv; omega
    rcases hcodes with rfl | rfl | rfl <;> rfl
  case status => exact hv.elim
  all_goals rfl

/-- Storing one field leaves every other settings field as it is. -/
theorem readField_storeField_ne {s : State} {f g : Field} (v : Nat) (hg : readOnly g = false)
    (h : g ≠ f) : readField (storeField s f v) g = readField s g := by
  cases g with
  | status _ => cases hg
  | creditLimit y =>
    cases f with
    | creditLimit x => exact PerLink.get_set_ne _ x y v fun e => h (congrArg _ e)
    | _ => rfl
  | quantum y =>
    cases f with
    | quantum x => exact PerLink.get_set_ne _ x y v fun e => h (congrArg _ e)
    | _ => rfl
  | idleLimit y =>
    cases f with
    | idleLimit x => exact PerLink.get_set_ne _ x y v fun e => h (congrArg _ e)
    | _ => rfl
  | caching y =>
    cases f with
    | caching x => exact congrArg codeOfBool (PerLink.get_set_ne _ x y _ fun e => h (congrArg _ e))
    | _ => rfl
  | _ => cases f <;> first | rfl | exact absurd rfl h

/-- A settings field is read from the settings alone. -/
theorem readField_congr {s u : State} {g : Field} (h : u.settings = s.settings)
    (hg : readOnly g = false) : readField u g = readField s g := by
  cases g with
  | status _ => cases hg
  | _ => simp only [readField, h]

/-! ## What a write does (04 R85; 06 R102; 07 R122, R124) -/

theorem setField_tenureMode_same {s : State} {v : Nat} (h : tenureModeCode s.settings.tenure.mode = v) :
    setField s.settings .tenureMode v = s.settings := by
  have hmode : (if v = 0 then TenureMode.shared else .tenure) = s.settings.tenure.mode := by
    subst h
    cases s.settings.tenure.mode <;> rfl
  unfold setField
  rw [hmode]

theorem setField_refreshMode_same {s : State} {v : Nat}
    (h : refreshModeCode s.settings.refresh.mode = v) :
    setField s.settings .refreshMode v = s.settings := by
  have hmode : (if v = 0 then RefreshMode.internal else .linked) = s.settings.refresh.mode := by
    subst h
    cases s.settings.refresh.mode <;> rfl
  unfold setField
  rw [hmode]

theorem writeField_tenureMode (s : State) (v : Nat) : writeField s .tenureMode v =
    if readField s .tenureMode = v then s
    else { storeField s .tenureMode v with tenure := ⟨none, none, .stopped, .stopped, .no, false⟩ } := rfl

/-- A change of REFRESH MODE loads a running timer with the period of the new mode. -/
theorem writeField_refreshMode (s : State) {v : Nat} (h : v = 0 ∨ v = 1) : writeField s .refreshMode v =
    if readField s .refreshMode = v then s
    else { storeField s .refreshMode v with refresh := { s.refresh with
      cueSeen := false
      timer := match s.refresh.timer with
        | .running _ => .running ((if v = 0 then 1 else 2) * s.settings.refresh.group *
            s.settings.refresh.refi)
        | t => t } } := by
  show (if readField s .refreshMode = v then s else _) = _
  refine if_congr Iff.rfl rfl ?_
  have hperiod : refreshPeriod (withRefresh (storeField s .refreshMode v) { s.refresh with
      cueSeen := false }) =
        (if v = 0 then 1 else 2) * s.settings.refresh.group * s.settings.refresh.refi := by
    rcases h with rfl | rfl
    · exact congrArg (· * s.settings.refresh.refi) (Nat.one_mul _).symm
    · rfl
  show (if timerRuns s.refresh.timer then loadRefreshTimer (withRefresh (storeField s .refreshMode v)
    { s.refresh with cueSeen := false }) else _) = _
  unfold loadRefreshTimer
  rw [hperiod]
  cases ht : s.refresh.timer with
  | running n => rfl
  | stopped => simp [timerRuns, withRefresh, storeField, ht]
  | paused n => simp [timerRuns, withRefresh, storeField, ht]

theorem writeField_filterEnable (s : State) (v : Nat) : writeField s .filterEnable v =
    if v = 0 then { storeField s .filterEnable v with notices :=
      ⟨{ s.notices.a with recent := [] }, { s.notices.b with recent := [] }⟩ }
    else storeField s .filterEnable v := rfl

/-- Of the settings a write changes the field it names, and no other. -/
theorem settings_writeField (s : State) (f : Field) (v : Nat) :
    (writeField s f v).settings = setField s.settings f v := by
  cases f
  case tenureMode =>
    rw [writeField_tenureMode]
    split
    · rename_i h
      exact (setField_tenureMode_same h).symm
    · rfl
  case refreshMode =>
    show (storeRefreshMode s v).settings = _
    unfold storeRefreshMode
    split
    · rename_i h
      exact (setField_refreshMode_same h).symm
    · dsimp only
      split <;> rfl
  case forceLevel => exact (forceTest_frame (storeField s .forceLevel v)).2.2.2.2.2.2.2.2.1
  case filterEnable =>
    rw [writeField_filterEnable]
    split <;> rfl
  all_goals rfl

/-- Settles O39: the values by their ranges, the reading back from the stored settings, the writes by their field. -/
theorem writesOfSettings : Obligations.WritesOfSettings := by
  refine ⟨fun s f v => ⟨valueOk_cases s f v, fun hv => ?_⟩, fun s f v => ?_⟩
  · cases hf : readOnly f with
    | true =>
      cases f with
      | status _ => exact ((valueOk_cases s _ v).mp hv).elim
      | _ => cases hf
    | false =>
      have hstored : (writeField s f v).settings = (storeField s f v).settings := settings_writeField s f v
      refine ⟨?_, fun g hg hne => ?_⟩
      · rw [readField_congr hstored hf, readField_storeField hv]
      · rw [readField_congr hstored hg, readField_storeField_ne v hg hne]
  · refine ⟨fun htenure hrefresh hforce hcue hfilter => ?_, ?_, ?_, ?_, ?_, ?_⟩
    · cases f
      case tenureMode => exact absurd rfl htenure
      case refreshMode => exact absurd rfl hrefresh
      case forceLevel => exact absurd rfl hforce
      case cueLink => exact absurd rfl hcue
      case filterEnable => exact absurd rfl hfilter
      all_goals rfl
    · rintro rfl
      exact writeField_tenureMode s v
    · rintro rfl h
      exact writeField_refreshMode s h
    · rintro rfl
      rfl
    · rintro rfl
      rfl
    · rintro rfl
      exact writeField_filterEnable s v

end Sys2Proof.Machine
end


section
/-! PROOFS. The start and the resume sequence (08 R132, R135), outside their phases and in a warm reset (08 R145;
O44). -/

namespace Sys2Proof.Machine

theorem warmReset_iff {s : State} : warmReset s = true ↔ s.chan.warm ≠ none := by
  rw [warmReset, Option.isSome_iff_ne_none]

/-! ## The ranks that sleep (08 R145) -/

theorem mem_joinRanks {r : Nat} (h : r < 2) (sleeping ranks : List Nat) :
    r ∈ joinRanks sleeping ranks ↔ r ∈ sleeping ∨ r ∈ ranks := by
  have hr : r ∈ [0, 1] := by
    simp only [List.mem_cons, List.not_mem_nil, or_false]
    omega
  simp [joinRanks, List.mem_filter, hr]

/-- A warm reset taken in RESUMING sends SR-ENTER to each awake rank, and the ranks sleep again. -/
theorem sleepAgain_spec (s : State) :
    (∀ r, r < 2 → (r ∈ (sleepAgain s).chan.sleeping ↔
      r ∈ s.chan.sleeping ∨ r ∈ List.range s.settings.geometry.ranks)) ∧
    sleepAgain s = { s with
      channelOut := s.channelOut ++ (List.range s.settings.geometry.ranks).map DramCommand.srEnter
      refresh := { s.refresh with timer := .stopped, cueSeen := false, debt := 0 }
      chan := { s.chan with
        resumePhase := .none
        sleeping := (sleepAgain s).chan.sleeping
        warm := some (List.range s.settings.geometry.ranks) } } :=
  ⟨fun _ h => mem_joinRanks h _ _, rfl⟩

section
variable {s : State}

/-! ## The start sequence (08 R132) -/

theorem exec_startTimerExpiry {n : Nat} (h : s.chan.startTimer = .running n) :
    exec .startTimerExpiry s = .next (expireStartTimer (beginEvent s)) :=
  happens_of (by simp [h, timerRuns]) rfl

theorem expireStartTimer_of_cold (h : warmReset s = false) :
    expireStartTimer (beginEvent s) = { beginEvent s with
      chan := { s.chan with startTimer := .stopped, startPhase := .precharging }
      channelOut := (List.range s.settings.geometry.ranks).map DramCommand.prechargeAll } :=
  if_neg (Bool.eq_false_iff.mp h)

theorem expireStartTimer_of_warm (h : warmReset s = true) :
    expireStartTimer (beginEvent s) = { beginEvent s with
      chan := { s.chan with startTimer := .stopped } } :=
  if_pos h

theorem startRoundSent_iff {done : Nat} : startRoundSent s = some done ↔
    ∃ sent, s.chan.startPhase = .refreshing done sent ∧
      sent.length = s.settings.geometry.ranks ∧ warmReset s = false := by
  unfold startRoundSent
  cases s.chan.startPhase with
  | refreshing d sent =>
    dsimp only
    rw [Option.ite_none_right_eq_some]
    simp only [Bool.and_eq_true, decide_eq_true_eq, Bool.not_eq_true', Option.some.injEq,
      StartPhase.refreshing.injEq]
    exact ⟨fun ⟨hsent, hd⟩ => ⟨sent, ⟨hd, rfl⟩, hsent⟩, fun ⟨_, ⟨hd, hl⟩, hsent⟩ => ⟨hl ▸ hsent, hd⟩⟩
  | none | waiting | precharging | settling => simp

theorem exec_startRefreshRoundComplete {done : Nat} (h : startRoundSent s = some done) :
    exec .startRefreshRoundComplete s = .next
      (if done + 1 < s.settings.profile.startRefreshes then { beginEvent s with
        chan := { s.chan with startPhase := .refreshing (done + 1) [] } }
      else { beginEvent s with
        chan := { s.chan with startPhase := .settling }
        channelOut := (List.range s.settings.geometry.ranks).map fun r =>
          DramCommand.loadSettings r s.settings.profile.readLatency }) := by
  have hbegun : startRoundSent (beginEvent s) = some done := h
  refine happens_of (f := completeStartRound) (by rw [h]; rfl) ?_
  unfold completeStartRound
  rw [hbegun]
  rfl

theorem answers_startSequenceEnd (h : s.chan.startPhase = .settling) (hw : warmReset s = false) :
    answers .startSequenceEnd s (endLong { beginEvent s with
      chan := { s.chan with state := .run, startPhase := .none }
      sched := { s.sched with
        banks := List.replicate (s.settings.geometry.ranks * s.settings.geometry.banks) freshBank
        openRows0 := [], openRows1 := [] }
      refresh := { s.refresh with
        debt := 0, cueSeen := false, timer := .running (refreshPeriod s) } } .start .ok .none) :=
  answers_of (f := endStart) rfl (by simp [h, hw]) rfl

/-! ## The resume sequence (08 R135) -/

theorem exec_resumeTimerExpiry {n : Nat} (h : s.chan.resumeTimer = .running n) :
    exec .resumeTimerExpiry s = .next (expireResumeTimer (beginEvent s)) :=
  happens_of (by simp [h, timerRuns]) rfl

theorem expireResumeTimer_of_cold (h : warmReset s = false) :
    expireResumeTimer (beginEvent s) = { beginEvent s with
      chan := { s.chan with resumeTimer := .stopped, resumePhase := .settling }
      channelOut := (List.range s.settings.geometry.ranks).map fun r =>
        DramCommand.loadSettings r s.settings.profile.readLatency } :=
  if_neg (Bool.eq_false_iff.mp h)

theorem expireResumeTimer_of_warm (h : warmReset s = true) :
    expireResumeTimer (beginEvent s) = sleepAgain { beginEvent s with
      chan := { s.chan with resumeTimer := .stopped } } :=
  if_pos h

theorem exec_resumeSequenceEnd (h : s.chan.resumePhase = .settling) :
    exec .resumeSequenceEnd s = .next (endResume (beginEvent s)) :=
  happens_of (by simp [h]) rfl

theorem endResume_of_warm (h : warmReset s = true) :
    endResume (beginEvent s) = sleepAgain (beginEvent s) :=
  if_pos h

/-- The bank records formed at the end of a resume (03 R66). -/
theorem reformBanks_eq (s : State) : reformBanks s = { s with sched := { s.sched with
    banks := if s.chan.lastRun = some s.settings.geometry
      then s.sched.banks.map fun b => { freshBank with behaviour := b.behaviour, streak := b.streak }
      else List.replicate (s.settings.geometry.ranks * s.settings.geometry.banks) freshBank
    openRows0 := [], openRows1 := [] } } := by
  unfold reformBanks
  split <;> rfl

theorem endResume_of_cold (h : warmReset s = false) :
    endResume (beginEvent s) = settle (endLong (forceTest { beginEvent s with
      chan := { s.chan with state := .run, resumePhase := .none }
      sched := { s.sched with
        banks := if s.chan.lastRun = some s.settings.geometry
          then s.sched.banks.map fun b => { freshBank with behaviour := b.behaviour, streak := b.streak }
          else List.replicate (s.settings.geometry.ranks * s.settings.geometry.banks) freshBank
        openRows0 := [], openRows1 := [] } }) .resume .ok .none) := by
  refine (if_neg (Bool.eq_false_iff.mp h)).trans ?_
  dsimp only
  rw [reformBanks_eq]
  rfl

/-! ## The resume sequence in a warm reset (08 R145) -/

/-- The ranks sleep again, whatever the resume timer is left at. -/
theorem asleep_of {c : Instr} {timer : Timer} (h : exec c s = .next (sleepAgain { beginEvent s with
    chan := { s.chan with resumeTimer := timer } })) :
    (∃ t, exec c s = .next t ∧
      (∀ r, r < 2 → (r ∈ t.chan.sleeping ↔
        r ∈ s.chan.sleeping ∨ r ∈ List.range s.settings.geometry.ranks)) ∧
      t = { beginEvent s with
        channelOut := (List.range s.settings.geometry.ranks).map DramCommand.srEnter
        refresh := { s.refresh with timer := .stopped, cueSeen := false, debt := 0 }
        chan := { s.chan with
          resumeTimer := t.chan.resumeTimer, resumePhase := .none, sleeping := t.chan.sleeping
          warm := some (List.range s.settings.geometry.ranks) } }) ∧
    ∀ t, exec c s = .next t → t.chan.resumeTimer = timer := by
  obtain ⟨hsleep, hrest⟩ := sleepAgain_spec { beginEvent s with
    chan := { s.chan with resumeTimer := timer } }
  refine ⟨⟨_, h, hsleep, hrest⟩, fun t ht => ?_⟩
  cases h.symm.trans ht
  rfl

end

/-- The steps of the sequences outside their phases, and what a warm reset leaves of them (log entries 2, 23). -/
theorem sequences_outside (s : State) :
    ((∀ n, s.chan.startTimer ≠ .running n) → idles .startTimerExpiry s) ∧
    (s.chan.warm ≠ none ∨ (∀ done sent, s.chan.startPhase = .refreshing done sent →
        sent.length ≠ s.settings.geometry.ranks) → idles .startRefreshRoundComplete s) ∧
    (s.chan.warm ≠ none ∨ s.chan.startPhase ≠ .settling → idles .startSequenceEnd s) ∧
    ((∀ n, s.chan.resumeTimer ≠ .running n) → idles .resumeTimerExpiry s) ∧
    (s.chan.resumePhase ≠ .settling → idles .resumeSequenceEnd s) := by
  rw [← warmReset_iff]
  refine ⟨fun h => idles_of rfl (timerRuns_false h), fun h => idles_of rfl ?_, fun h => idles_of rfl ?_,
    fun h => idles_of rfl (timerRuns_false h), fun h => idles_of rfl (decide_eq_false h)⟩
  · refine Option.isSome_eq_false_iff.mpr (Option.isNone_iff_eq_none.mpr ?_)
    refine Option.eq_none_iff_forall_ne_some.mpr fun done hdone => ?_
    obtain ⟨sent, hp, hall, hw⟩ := startRoundSent_iff.mp hdone
    rcases h with hwarm | hmore
    · exact absurd (hw.symm.trans hwarm) (by decide)
    · exact hmore done sent hp hall
  · rcases h with hwarm | hne
    · simp [hwarm]
    · simp [hne]

/-- Settles O44: each step of a sequence in its phase, outside it, and in a warm reset. -/
theorem sequencesRun : Obligations.SequencesRun := by
  refine ⟨fun s hw => ⟨fun n h => ?_, fun done sent hp hall => ?_, fun h => ?_, fun n h => ?_, fun h => ?_⟩,
    fun s => ?_⟩
  · rw [exec_startTimerExpiry h, expireStartTimer_of_cold hw]
  · rw [exec_startRefreshRoundComplete (startRoundSent_iff.mpr ⟨sent, hp, hall, hw⟩)]
    exact ⟨fun hmore => by rw [if_pos hmore], fun hlast => by rw [if_neg (Nat.not_lt.mpr hlast)]⟩
  · exact answers_startSequenceEnd h hw
  · rw [exec_resumeTimerExpiry h, expireResumeTimer_of_cold hw]
  · exact answers_next (exec_resumeSequenceEnd h) (endResume_of_cold hw)
  · obtain ⟨hstart, hround, hend, hresume, hsettled⟩ := sequences_outside s
    refine ⟨hstart, fun hwarm n h => ?_, hround, hend, hresume, hsettled, fun hwarm n h => ?_,
      fun hwarm h => ?_⟩
    · rw [exec_startTimerExpiry h, expireStartTimer_of_warm (warmReset_iff.mpr hwarm)]
    · refine asleep_of ?_
      rw [exec_resumeTimerExpiry h, expireResumeTimer_of_warm (warmReset_iff.mpr hwarm)]
    · refine asleep_of (timer := s.chan.resumeTimer) ?_
      rw [exec_resumeSequenceEnd h, endResume_of_warm (warmReset_iff.mpr hwarm)]
      rfl

end Sys2Proof.Machine
end


section
/-! PROOFS. The entry to self-refresh of a quiesce (08 R134; 03 R66; 04 R83; 05 R99; 07 R127) and of a warm reset
(08 R145; O32). -/

namespace Sys2Proof.Machine

/-! ## Without debt and episode -/

theorem refresh_makePass (s : State) (x : Link) : (makePass s x).refresh = s.refresh := by simp

theorem refresh_settlePass {s : State} (hd : s.refresh.debt = 0) :
    (settlePass s).refresh = s.refresh := by
  have hno : episodeAllowed s = false := by simp [episodeAllowed, hd]
  unfold settlePass
  split
  · rfl
  · rw [hno]
    exact refresh_makePass s _

theorem refresh_makeGrant (s : State) : (makeGrant s).refresh = s.refresh := by simp

theorem tryEpisode_of_noDebt {s : State} (hd : s.refresh.debt = 0) : tryEpisode s = s :=
  if_neg (Bool.eq_false_iff.mp (episodeReady_of_noDebt hd))

theorem refresh_settleGrant {s : State} (hd : s.refresh.debt = 0) :
    (settleGrant s).refresh = s.refresh := by
  have hno : ((grantReady s).isSome && episodeReady s) = false := by
    rw [episodeReady_of_noDebt hd, Bool.and_false]
  unfold settleGrant
  rw [if_neg (Bool.eq_false_iff.mp hno), tryEpisode_of_noDebt (by rw [refresh_makeGrant, hd])]
  exact refresh_makeGrant s

/-- Without debt and episode no consequence before the entry to self-refresh changes the Refresh Controller. -/
theorem refresh_settleAwake {s : State} (hd : s.refresh.debt = 0) (he : s.refresh.episode = .none) :
    (settleAwake s).refresh = s.refresh := by
  let w := wantDue (clearDue (judgeIdle (waitingToClosing (settleCommit s))))
  let g := settleGrant (settlePass w)
  have hcommit : (settleCommit s).refresh = s.refresh := by simp
  have hwait : waitingToClosing (settleCommit s) = settleCommit s :=
    waitingToClosing_stays (.inl fun k => by simp [he])
  have hw : w.refresh = s.refresh := by simp only [w, hwait]; simp
  have hpass : (settlePass w).refresh = s.refresh := (refresh_settlePass (by rw [hw, hd])).trans hw
  have hg : g.refresh = s.refresh := (refresh_settleGrant (by rw [hpass, hd])).trans hpass
  have hclosing : closingToRefreshing (settleQuiesce g) = settleQuiesce g :=
    closingToRefreshing_stays (.inl fun k => by simp [hg, he])
  have hvictims : (settleVictims (settleQuiesce g)).refresh = s.refresh := by simp [hg]
  show (settleVictims (closingToRefreshing (settleQuiesce g))).refresh = s.refresh
  rw [hclosing, hvictims]

/-! ## The conditions of the entry (08 R134) -/

theorem selfRefreshReady_iff {s : State} : selfRefreshReady s = true ↔ s.chan.state = .quiescing ∧
    s.chan.warm = none ∧ anyOnPath s = false ∧ allClosed s = true ∧ s.refresh.debt = 0 ∧
      s.refresh.episode = .none := by
  simp [selfRefreshReady, warmReset, episodeHolds, and_assoc]

/-- What the consequences before the entry leave. -/
theorem settleAwake_frame (s : State) :
    (settleAwake s).table = s.table ∧ (settleAwake s).locks = s.locks ∧
    (settleAwake s).event = s.event ∧ (settleAwake s).settings = s.settings ∧
    (settleAwake s).chan = s.chan ∧ (settleAwake s).channelOut = s.channelOut ∧
    (settleAwake s).mgmt = (settleCommit s).mgmt := by
  simp [settleAwake]

theorem bankCores_settleAwake (s : State) : bankCores (settleAwake s) = bankCores s := by
  simp [settleAwake]

/-- The consequences before the entry do not undo its conditions. -/
theorem selfRefreshReady_settleAwake {s : State} (h : selfRefreshReady s = true) :
    selfRefreshReady (settleAwake s) = true := by
  obtain ⟨hstate, hwarm, hpath, hclosed, hdebt, hepisode⟩ := selfRefreshReady_iff.mp h
  obtain ⟨htable, -, -, -, hchan, -⟩ := settleAwake_frame s
  rw [selfRefreshReady_iff, hchan, anyOnPath_congr htable, allClosed_congr (bankCores_settleAwake s),
    refresh_settleAwake hdebt hepisode]
  exact ⟨hstate, hwarm, hpath, hclosed, hdebt, hepisode⟩

theorem warmSleep_of_cold {s : State} (h : s.chan.warm = none) : warmSleep s = s := by
  simp [warmSleep, sendWarmSrEnter, enterWarmSleep, h]

/-! ## The entry of a quiesce -/

theorem enterSelfRefresh_fields (s : State) :
    (enterSelfRefresh s).locks = [] ∧ (enterSelfRefresh s).tenure = noTenure ∧
    (enterSelfRefresh s).refresh = { s.refresh with timer := .stopped, cueSeen := false, debt := 0 } ∧
    (enterSelfRefresh s).channelOut = s.channelOut ++ (installedRanks s).map DramCommand.srEnter ∧
    (enterSelfRefresh s).chan = { s.chan with
      state := .quiesced, sleeping := joinRanks s.chan.sleeping (installedRanks s) } ∧
    (enterSelfRefresh s).sched = (sleepBanks s).sched := by
  simp [enterSelfRefresh, sleepBanks, sendDram, withTenure, restRefresh, withRefresh]

theorem rested_of_noDebt {r : Refresh} (h : r.debt = 0) :
    { r with timer := .stopped, cueSeen := false, debt := 0 } =
      { r with timer := .stopped, cueSeen := false } := by
  rw [← h]

/-- With its conditions met the event ends in the entry to self-refresh. -/
theorem settle_of_ready {s : State} (h : selfRefreshReady s = true) :
    settle s = enterSelfRefresh (settleAwake s) := by
  have hwarm : (enterSelfRefresh (settleAwake s)).chan.warm = none := by
    obtain ⟨-, -, -, -, hchan, -⟩ := enterSelfRefresh_fields (settleAwake s)
    rw [hchan]
    exact (selfRefreshReady_iff.mp (selfRefreshReady_settleAwake h)).2.1
  rw [settle_eq, settleSleep, if_pos (selfRefreshReady_settleAwake h), warmSleep_of_cold hwarm]

/-- A bank record at the entry to self-refresh (03 R66). -/
def asleep (b : Bank) : Bank :=
  { b with idleTimer := .stopped, closePending := false, closeAfter := false, lastRow := none }

theorem asleep_of_core {b c : Bank} (h : bankCore b = bankCore c) : asleep b = asleep c := by
  simp only [bankCore, Prod.mk.injEq] at h
  obtain ⟨hstate, hrow, hbehaviour, hstreak, hserving, hactivated, hwritten⟩ := h
  simp [asleep, hstate, hrow, hbehaviour, hstreak, hserving, hactivated, hwritten]

/-- The banks at the entry are those of the event's beginning, asleep. -/
theorem bankAt_sleep {s u : State} (h : bankCores u = bankCores s) (pos : Nat) :
    bankAt (sleepBanks u) pos = (bankAt s pos).map asleep := by
  have hcore : (bankAt u pos).map bankCore = (bankAt s pos).map bankCore := by
    have hget := congrArg (·[pos]?) h
    simpa [bankCores, bankAt] using hget
  have hmap : bankAt (sleepBanks u) pos = (bankAt u pos).map asleep := by
    simp only [bankAt, sleepBanks, List.getElem?_map]
    rfl
  rw [hmap]
  cases hs : bankAt s pos with
  | none =>
    rw [hs, Option.map_none, Option.map_eq_none_iff] at hcore
    rw [hcore, Option.map_none]
  | some b =>
    rw [hs, Option.map_some, Option.map_eq_some_iff] at hcore
    obtain ⟨c, hc, hcb⟩ := hcore
    rw [hc]
    exact congrArg some (asleep_of_core hcb)

/-! ## The broken locks (05 R99) -/

/-- The alert queue and the drop count after an alert depend on these two, the clock and the event alone. -/
theorem raiseAlert_congr {s u : State} (ha : u.mgmt.alerts = s.mgmt.alerts)
    (hd : u.mgmt.dropped = s.mgmt.dropped) (hc : u.mgmt.clock = s.mgmt.clock) (he : u.event = s.event)
    (k : AlertKind) (x : Option Link) (a : Option Nat) (c : Option Cause) (v : Option Nat) :
    (raiseAlert u k x a c v).mgmt.alerts = (raiseAlert s k x a c v).mgmt.alerts ∧
    (raiseAlert u k x a c v).mgmt.dropped = (raiseAlert s k x a c v).mgmt.dropped := by
  unfold raiseAlert
  rw [ha, hd, hc, he]
  split
  · exact ⟨rfl, rfl⟩
  · exact ⟨ha, rfl⟩

theorem raiseBroken_congr : ∀ (es : List LockEntry) {s u : State}, u.mgmt.alerts = s.mgmt.alerts →
    u.mgmt.dropped = s.mgmt.dropped → u.mgmt.clock = s.mgmt.clock → u.event = s.event →
    (raiseBroken u es).mgmt.alerts = (raiseBroken s es).mgmt.alerts ∧
    (raiseBroken u es).mgmt.dropped = (raiseBroken s es).mgmt.dropped
  | [], _, _, ha, hd, _, _ => ⟨ha, hd⟩
  | e :: es, s, u, ha, hd, hc, he => by
    obtain ⟨ha', hd'⟩ := raiseAlert_congr ha hd hc he .lockBroken (some e.holder) (some e.block)
      (some .quiesce) none
    exact raiseBroken_congr es ha' hd' (by simp [hc]) (by simp [he])

/-- The alerts at the entry are those of the entries broken. -/
theorem enterSelfRefresh_alerts (s : State) :
    (enterSelfRefresh s).mgmt.alerts = (raiseBroken s s.locks).mgmt.alerts ∧
    (enterSelfRefresh s).mgmt.dropped = (raiseBroken s s.locks).mgmt.dropped := by
  have hlocks : (sleepBanks (sendDram s ((installedRanks s).map DramCommand.srEnter))).locks = s.locks :=
    rfl
  unfold enterSelfRefresh
  dsimp only
  rw [(endLong_mgmt ..).2.2.2.2.1, (endLong_mgmt ..).2.2.2.2.2, hlocks]
  exact raiseBroken_congr s.locks (s := s) rfl rfl rfl rfl

/-! ## The reply to the quiesce (09 R154) -/

/-- A quiesce is the long operation, so no commit is decided before its entry. -/
theorem mgmt_settleCommit_of_quiesce {s : State} {x : Link} (h : s.mgmt.longOp = some (.quiesce, x)) :
    (settleCommit s).mgmt = s.mgmt := by
  unfold settleCommit
  split
  · simp [endLong, h]
  · rfl

theorem enterSelfRefresh_replies {s : State} {x : Link} {before after : List MgmtEntry} {e : MgmtEntry}
    (hl : s.mgmt.longOp = some (.quiesce, x)) (hlist : s.mgmt.replies.get x = before ++ e :: after)
    (hb : ∀ d ∈ before, ¬ (d.kind = .channelQuiesce ∧ d.status = none))
    (hk : e.kind = .channelQuiesce) (hs : e.status = none) :
    (enterSelfRefresh s).mgmt.longOp = none ∧
    (enterSelfRefresh s).mgmt.replies.get x = before ++ { e with
      status := some .ok, value := .none, readySince := s.event } :: after := by
  unfold enterSelfRefresh
  dsimp only
  rw [endLong_decides (x := x) .quiesce .ok .none (by simpa [sleepBanks, sendDram] using hl)
    (by simpa [sleepBanks, sendDram] using hlist) hb hk hs]
  simp [sleepBanks, sendDram]

/-! ## What the event ends in -/

section
variable {s : State} (h : selfRefreshReady s = true)
include h

theorem settle_sleeps : (settle s).chan.state = .quiesced ∧
    (∀ r, r < 2 → (r ∈ (settle s).chan.sleeping ↔
      r ∈ s.chan.sleeping ∨ r < s.settings.geometry.ranks)) ∧
    (settle s).channelOut = s.channelOut ++
      (List.range s.settings.geometry.ranks).map DramCommand.srEnter := by
  obtain ⟨-, -, -, hset, hchan, hout, -⟩ := settleAwake_frame s
  obtain ⟨-, -, -, hsent, hsleep, -⟩ := enterSelfRefresh_fields (settleAwake s)
  have hranks : installedRanks (settleAwake s) = List.range s.settings.geometry.ranks := by
    rw [installedRanks, hset]
  rw [settle_of_ready h, hsleep, hsent, hranks, hchan, hout]
  exact ⟨rfl, fun r hr => (mem_joinRanks hr _ _).trans (or_congr_right List.mem_range), rfl⟩

theorem settle_banks_asleep : (settle s).sched.openRows0 = [] ∧ (settle s).sched.openRows1 = [] ∧
    ∀ pos, bankAt (settle s) pos = (bankAt s pos).map asleep := by
  obtain ⟨-, -, -, -, -, hsched⟩ := enterSelfRefresh_fields (settleAwake s)
  have hbank (pos : Nat) : bankAt (settle s) pos = bankAt (sleepBanks (settleAwake s)) pos := by
    rw [bankAt, settle_of_ready h, hsched]
    rfl
  rw [settle_of_ready h, hsched]
  refine ⟨rfl, rfl, fun pos => ?_⟩
  rw [← settle_of_ready h, hbank, bankAt_sleep (bankCores_settleAwake s)]

theorem settle_lets_go : (settle s).locks = [] ∧ (settle s).tenure = noTenure ∧
    (settle s).refresh = { s.refresh with timer := .stopped, cueSeen := false } := by
  obtain ⟨-, -, -, -, hdebt, hepisode⟩ := selfRefreshReady_iff.mp h
  obtain ⟨hlocks, htenure, hrefresh, -⟩ := enterSelfRefresh_fields (settleAwake s)
  rw [settle_of_ready h, hrefresh, refresh_settleAwake hdebt hepisode]
  exact ⟨hlocks, htenure, rested_of_noDebt hdebt⟩

theorem settle_breaks_locks : (settle s).mgmt.alerts = (raiseBroken s s.locks).mgmt.alerts ∧
    (settle s).mgmt.dropped = (raiseBroken s s.locks).mgmt.dropped := by
  obtain ⟨-, hlocks, hevent, -, -, -, hmgmt⟩ := settleAwake_frame s
  obtain ⟨-, -, -, hclock, halerts, hdropped⟩ := settleCommit_mgmt s
  obtain ⟨ha, hd⟩ := enterSelfRefresh_alerts (settleAwake s)
  rw [settle_of_ready h, ha, hd, hlocks]
  exact raiseBroken_congr s.locks (by rw [hmgmt, halerts]) (by rw [hmgmt, hdropped])
    (by rw [hmgmt, hclock]) hevent

theorem settle_answers_quiesce {x : Link} {before after : List MgmtEntry} {e : MgmtEntry}
    (hl : s.mgmt.longOp = some (.quiesce, x)) (hlist : s.mgmt.replies.get x = before ++ e :: after)
    (hb : ∀ d ∈ before, ¬ (d.kind = .channelQuiesce ∧ d.status = none))
    (hk : e.kind = .channelQuiesce) (hs : e.status = none) :
    (settle s).mgmt.longOp = none ∧ (settle s).mgmt.replies.get x = before ++ { e with
      status := some .ok, value := .none, readySince := s.event } :: after := by
  obtain ⟨-, -, hevent, -, -, -, hmgmt⟩ := settleAwake_frame s
  have hsame : (settleAwake s).mgmt = s.mgmt := hmgmt.trans (mgmt_settleCommit_of_quiesce hl)
  rw [settle_of_ready h, ← hevent]
  exact enterSelfRefresh_replies (by rw [hsame, hl]) (by rw [hsame, hlist]) hb hk hs

end

/-! ## The entry of a warm reset (08 R145) -/

/-- The ranks that are sent their SR-ENTER now. -/
def ranksToSend (s : State) (sent : List Nat) : List Nat :=
  (List.range s.settings.geometry.ranks).filter fun r => !sent.contains r && rankClosed s r

/-- SR-ENTER is sent to them. -/
def warmSent (s : State) (sent : List Nat) : State :=
  { s with
    channelOut := s.channelOut ++ (ranksToSend s sent).map DramCommand.srEnter
    chan := { s.chan with warm := some (sent ++ ranksToSend s sent) } }

/-- Every installed rank is sent its SR-ENTER with its banks CLOSED, and some rank is still awake. -/
def warmWorkEnds (s : State) (sent : List Nat) : Prop :=
  (∃ r ∈ List.range s.settings.geometry.ranks, r ∉ s.chan.sleeping) ∧
    ∀ r ∈ List.range s.settings.geometry.ranks,
      r ∈ sent ++ ranksToSend s sent ∧ rankClosed s r = true

theorem sendWarmSrEnter_eq {s : State} {sent : List Nat} (hw : s.chan.warm = some sent)
    (hserves : channelServes s = true) : sendWarmSrEnter s = warmSent s sent := by
  unfold sendWarmSrEnter
  rw [hw]
  exact if_pos hserves

theorem ranksSleep_false_iff {s : State} : ranksSleep s = false ↔
    ∃ r ∈ List.range s.settings.geometry.ranks, r ∉ s.chan.sleeping := by
  simp only [ranksSleep, List.all_eq_false, List.contains_iff_mem]
  rfl

theorem enterWarmSleep_warmSent {s : State} {sent : List Nat} (hserves : channelServes s = true) :
    (¬ warmWorkEnds s sent → enterWarmSleep (warmSent s sent) = warmSent s sent) ∧
    (warmWorkEnds s sent → enterWarmSleep (warmSent s sent) = restRefresh (sleepBanks { warmSent s sent with
      chan := { (warmSent s sent).chan with
        sleeping := joinRanks s.chan.sleeping (sent ++ ranksToSend s sent) } })) := by
  have hcond : (channelServes (warmSent s sent) && !ranksSleep (warmSent s sent) &&
      (installedRanks (warmSent s sent)).all fun r =>
        (sent ++ ranksToSend s sent).contains r && rankClosed (warmSent s sent) r) = true ↔
          warmWorkEnds s sent := by
    have hsame : channelServes (warmSent s sent) = true := hserves
    rw [hsame, Bool.true_and, Bool.and_eq_true, Bool.not_eq_true', ranksSleep_false_iff, List.all_eq_true]
    simp only [Bool.and_eq_true, List.contains_iff_mem]
    exact Iff.rfl
  exact ⟨fun h => if_neg (mt hcond.mp h), fun h => if_pos (hcond.mpr h)⟩

theorem serves_iff {s : State} :
    channelServes s = true ↔ s.chan.state = .run ∨ s.chan.state = .quiescing := by
  simp [channelServes]

/-- Outside a warm reset, and where the channel does not serve, no rank sleeps at an event that is not the end
of a quiesce. -/
theorem settleSleep_idle {s : State} (hno : selfRefreshReady s = false)
    (h : s.chan.warm = none ∨ ¬ (s.chan.state = .run ∨ s.chan.state = .quiescing)) :
    settleSleep s = s := by
  rw [settleSleep, if_neg (Bool.eq_false_iff.mp hno)]
  cases hw : s.chan.warm with
  | none => exact warmSleep_of_cold hw
  | some sent =>
    have hstop : channelServes s = false :=
      Bool.eq_false_iff.mpr fun hserves => h.elim (by simp [hw]) fun hn => hn (serves_iff.mp hserves)
    simp [warmSleep, sendWarmSrEnter, enterWarmSleep, hw, hstop]

theorem settleSleep_of_warm {s : State} {sent : List Nat} (hw : s.chan.warm = some sent)
    (hserves : channelServes s = true) : settleSleep s = enterWarmSleep (warmSent s sent) := by
  have hno : ¬ selfRefreshReady s = true := fun h => by
    simp [(selfRefreshReady_iff.mp h).2.1] at hw
  rw [settleSleep, if_neg hno, warmSleep, sendWarmSrEnter_eq hw hserves]

/-- Settles O32: the entry of a quiesce through its conditions, which the event keeps; that of a warm reset rank by
rank. -/
theorem selfRefreshEntry : Obligations.SelfRefreshEntry := by
  refine ⟨?_, ?_⟩
  · rintro s t h rfl
    obtain ⟨hstate, hsleeping, hout⟩ := settle_sleeps h
    obtain ⟨hrows0, hrows1, hbanks⟩ := settle_banks_asleep h
    obtain ⟨hlocks, htenure, hrefresh⟩ := settle_lets_go h
    refine ⟨hstate, hsleeping, hout, hrows0, hrows1, hbanks, hlocks, htenure, hrefresh, ?_,
      fun x before e after hl hlist hb hk hs => settle_answers_quiesce h hl hlist hb hk hs⟩
    rintro u rfl
    exact settle_breaks_locks h
  · rintro s t rfl
    refine ⟨selfRefreshReady_iff, settleSleep_idle, fun sent hw hserves => ?_⟩
    rw [settleSleep_of_warm hw (serves_iff.mpr hserves)]
    obtain ⟨hgoes, hends⟩ := enterWarmSleep_warmSent (sent := sent) (serves_iff.mpr hserves)
    refine ⟨hgoes, fun hdone => ?_⟩
    rw [hends hdone]
    exact ⟨fun r hr => mem_joinRanks hr _ _, rfl⟩

end Sys2Proof.Machine
end


section
/-! SUPPORT. What stands in ACCESS or MERGE from one state to the next: only an issue puts a transaction there. -/

namespace Sys2Proof.Machine

/-- Every transaction of `u` in ACCESS or MERGE stood there in `s`, of the same link. -/
def flightFollows (s u : State) : Prop :=
  ∀ i t', slotAt u i = some t' → inFlight t' = true →
    ∃ t, slotAt s i = some t ∧ inFlight t = true ∧ t.link = t'.link

theorem flightFollows_of_table {s u : State} (h : u.table = s.table) : flightFollows s u :=
  fun i t ht hf => ⟨t, by rwa [slotAt_congr h] at ht, hf, rfl⟩

theorem flightFollows_refl (s : State) : flightFollows s s := flightFollows_of_table rfl

theorem flightFollows.then {s u v : State} (h : flightFollows s u) (h' : flightFollows u v) :
    flightFollows s v := by
  intro i t ht hf
  obtain ⟨u, hu, hfu, hlu⟩ := h' i t ht hf
  obtain ⟨w, hw, hfw, hlw⟩ := h i u hu hfu
  exact ⟨w, hw, hfw, hlw.trans hlu⟩

theorem onChannelPath_of_inFlight {t : Txn} (h : inFlight t = true) : onChannelPath t = true :=
  onChannelPath_iff.mpr (.inr (inFlight_iff.mp h))

theorem pathFollows.flight {s u : State} (h : pathFollows s u) : flightFollows s u := by
  intro i t' ht hf
  obtain ⟨t, hi, habides⟩ := h.2 i t' ht
  obtain ⟨hst, hl, -⟩ := habides (onChannelPath_of_inFlight hf)
  exact ⟨t, hi, by simpa [inFlight, hst] using hf, hl.symm⟩

/-- A slot that takes a record which is not on the channel. -/
theorem flightFollows_setSlot {s : State} {i : Nat} {t : Txn} (h : inFlight t = false) :
    flightFollows s (setSlot s i (some t)) := by
  intro j u hu hf
  rw [slotAt_setSlot] at hu
  split at hu
  · cases hu; rw [h] at hf; cases hf
  · exact ⟨u, hu, hf, rfl⟩

theorem flightFollows_arriveRequest {s : State} {r : Txn} (h : r.state = .intake) :
    flightFollows s (arriveRequest r s) := by
  intro i t ht hf
  rcases slotAt_arriveRequest ht with h' | ⟨-, -, -, rfl⟩
  · exact ⟨t, h', hf, rfl⟩
  · simp [inFlight, h] at hf

/-! ## The intake step -/

theorem flightFollows_enterQueued (s : State) (i : Nat) : flightFollows s (enterQueued s i) := by
  intro j t' ht hf
  unfold enterQueued at ht
  rw [slotAt_modSlot] at ht
  split at ht
  · obtain ⟨t, -, rfl⟩ := Option.map_eq_some_iff.mp ht
    cases hf
  · exact ⟨t', ht, hf, rfl⟩

theorem flightFollows_queueFree (s : State) (i : Nat) : flightFollows s (queueFree s i) :=
  (flightFollows_enterQueued s i).then (pathFollows_orderingPoint _ i).flight

theorem flightFollows_queueBlocked (s : State) (i b : Nat) : flightFollows s (queueBlocked s i b) :=
  (flightFollows_enterQueued s i).then (pathFollows_waitOn _ i b).flight

theorem flightFollows_enterReply (s : State) (i : Nat) (st : MemStatus) :
    flightFollows s (enterReply s i st) := (pathFollows_enterReply s i st).flight

theorem flightFollows_placeRequest (s : State) (i : Nat) (t : Txn) (p : Nat) :
    flightFollows s (placeRequest s i t p) := by
  unfold placeRequest
  split
  · unfold placeLockRead
    (repeat' split)
    · exact flightFollows_enterReply s i _
    · exact flightFollows_enterReply s i _
    · exact flightFollows_queueBlocked s i _
    · exact (flightFollows_of_table (takeLock_frame ..).2.1).then (flightFollows_queueFree _ i)
  · unfold placeLockWrite; split
    · exact (flightFollows_of_table (modLock_frame ..).2.1).then (flightFollows_queueFree _ i)
    · exact flightFollows_enterReply s i _
  · unfold placeLockDrop; split
    · exact (pathFollows_removeLock s p).flight.then (flightFollows_enterReply _ i _)
    · exact flightFollows_enterReply s i _
  · unfold placeAccess; split
    · exact flightFollows_queueBlocked s i _
    · exact flightFollows_queueFree s i

theorem flightFollows_consult {s : State} {i : Nat} {t : Txn} (hst : t.state = .intake) :
    flightFollows s (consult s i t) := by
  unfold consult; dsimp only; split
  · exact (flightFollows_setSlot (by simp [inFlight, hst])).then (flightFollows_enterReply _ i _)
  · exact (flightFollows_setSlot (by simp [inFlight, hst])).then (flightFollows_placeRequest _ i _ _)

theorem flightFollows_placeFence (s : State) (i : Nat) (t : Txn) : flightFollows s (placeFence s i t) :=
  (flightFollows_setSlot (t := { t with state := .fenceWait }) rfl).then
    (pathFollows_settleFence _ t.link).flight

theorem flightFollows_intakeStep {s : State} {i : Nat} {t : Txn} (hst : t.state = .intake) :
    flightFollows s (intakeStep s i t) := by
  unfold intakeStep
  split_ifs with hmal htag hfence hrun halign
  · exact flightFollows_enterReply s i _
  · exact flightFollows_enterReply s i _
  · exact flightFollows_placeFence s i t
  · exact flightFollows_enterReply s i _
  · exact flightFollows_enterReply s i _
  · exact flightFollows_consult hst

theorem flightFollows_ownIntake (x : Link) (s : State) : flightFollows s (ownIntake x s) := by
  unfold ownIntake; split
  · exact flightFollows_refl s
  · rename_i p hp
    obtain ⟨-, -, hst, -⟩ := intakeReady_spec (i := p.1) (t := p.2) hp
    exact flightFollows_intakeStep hst

end Sys2Proof.Machine
end


section
/-! PROOFS. Tenure excludes (04 R69, R70): every command's own effect and the consequences of its event keep
the law. -/

namespace Sys2Proof.Machine

/-! ## How the law is kept -/

/-- While a link holds tenure the channel is its own, and in SHARED mode nothing of tenure stands. -/
def exclusive (s : State) : Prop := tenureLaw s ∧ sharedLaw s

theorem exclusive_of_noTenure {s : State} (h : s.tenure = noTenure) : exclusive s :=
  ⟨fun x i t hx => (by rw [h] at hx; cases hx), fun _ => h⟩

/-- Under TENURE mode with nothing in ACCESS or MERGE any link may hold tenure. -/
theorem exclusive_of_noFlight {s : State} (hm : s.settings.tenure.mode ≠ .shared)
    (h : anyInFlight s = false) : exclusive s := by
  refine ⟨fun x i t _ ht hf => ?_, fun hs => absurd hs hm⟩
  rw [anyInFlight_iff.mpr ⟨i, t, ht, hf⟩] at h; cases h

/-- A link holds tenure under TENURE mode only. -/
theorem mode_of_holder {s : State} {x : Link} (hs : exclusive s) (h : s.tenure.holder = some x) :
    s.settings.tenure.mode ≠ .shared := by
  intro hm
  rw [hs.2 hm] at h; cases h

/-- The channel and the holder from one state to the next: nothing enters ACCESS or MERGE, the holder is the
same, and where nothing of tenure stood nothing stands. -/
structure tenureStands (s u : State) : Prop where
  flight : flightFollows s u
  holder : u.tenure.holder = s.tenure.holder
  absent : s.tenure = noTenure → u.tenure = noTenure
  mode : u.settings.tenure.mode = s.settings.tenure.mode

theorem tenureStands.exclusive {s u : State} (h : tenureStands s u) (hs : exclusive s) : exclusive u := by
  obtain ⟨hholds, hshared⟩ := hs
  refine ⟨fun x i t' hx ht hf => ?_, fun hm => h.absent (hshared (h.mode.symm.trans hm))⟩
  obtain ⟨t, hi, hft, hl⟩ := h.flight i t' ht hf
  exact hl.symm.trans (hholds x i t (h.holder.symm.trans hx) hi hft)

theorem tenureStands.then {s u v : State} (h : tenureStands s u) (h' : tenureStands u v) :
    tenureStands s v :=
  ⟨h.flight.then h'.flight, h'.holder.trans h.holder, fun hs => h'.absent (h.absent hs),
    h'.mode.trans h.mode⟩

theorem tenureStands.of_flight {s u : State} (h : flightFollows s u) (ht : u.tenure = s.tenure)
    (hset : u.settings = s.settings) : tenureStands s u :=
  ⟨h, by rw [ht], fun hs => ht.trans hs, by rw [hset]⟩

theorem tenureStands.of_frame {s u : State} (h : u.table = s.table) (ht : u.tenure = s.tenure)
    (hset : u.settings = s.settings) : tenureStands s u := .of_flight (flightFollows_of_table h) ht hset

theorem tenureStands.refl (s : State) : tenureStands s s := .of_frame rfl rfl rfl

/-- A holder's tenure changed in what is not the holder. -/
theorem tenureStands.of_holder {s u : State} {x : Link} (hx : s.tenure.holder = some x)
    (h : u.table = s.table) (hu : u.tenure.holder = some x) (hset : u.settings = s.settings) :
    tenureStands s u :=
  ⟨flightFollows_of_table h, hu.trans hx.symm, fun hs => (by rw [hs] at hx; cases hx), by rw [hset]⟩

/-! ## The idle condition and hand-over due (04 R73 to R76) -/

theorem tenureStands_judgeIdle (s : State) : tenureStands s (judgeIdle s) := by
  unfold judgeIdle
  cases hx : s.tenure.holder with
  | none => exact .refl s
  | some x =>
    dsimp only
    split
    · exact .refl s
    · exact .of_holder hx rfl hx rfl

theorem tenureStands_setDue {s : State} {x : Link} (hx : s.tenure.holder = some x) (d : HandOver) :
    tenureStands s (setDue s d) := by
  rw [setDue_of_holder hx]
  exact .of_holder hx rfl hx rfl

theorem tenureStands_clearDue (s : State) : tenureStands s (clearDue s) := by
  unfold clearDue
  split
  · rename_i x y hx _
    split
    · exact .refl s
    · exact .of_holder hx rfl hx rfl
  · exact .refl s

theorem tenureStands_wantDue (s : State) : tenureStands s (wantDue s) := by
  unfold wantDue
  cases hx : s.tenure.holder with
  | none => exact .refl s
  | some x =>
    dsimp only
    split
    · exact tenureStands_setDue hx _
    · exact .refl s

theorem tenureStands_tenureLinkReset (s : State) (x : Link) : tenureStands s (tenureLinkReset s x) := by
  unfold tenureLinkReset
  split
  · exact tenureStands_setDue ‹_› _
  · exact .refl s

theorem tenureStands_ownIdle (s : State) : tenureStands s (ownIdle s) := by
  unfold ownIdle
  cases hx : s.tenure.holder with
  | none => exact .refl s
  | some x =>
    dsimp only
    split_ifs
    · exact tenureStands_setDue hx _
    · exact .of_holder hx rfl hx rfl
    · exact .of_holder hx rfl hx rfl

/-! ## Episodes (04 R79) -/

theorem tenureStands_pauseTenure (s : State) : tenureStands s (pauseTenure s) :=
  ⟨flightFollows_of_table rfl, rfl, fun h => by rw [pauseTenure, h]; rfl, rfl⟩

theorem tenureStands_resumeTenure (s : State) : tenureStands s (resumeTenure s) :=
  ⟨flightFollows_of_table rfl, rfl, fun h => by rw [resumeTenure, h]; rfl, rfl⟩

theorem tenureStands_withRefresh (s : State) (r : Refresh) : tenureStands s (withRefresh s r) :=
  .of_frame rfl rfl rfl

/-- An episode that begins pauses the tenure timers and requests closes. -/
theorem tenureStands_episode (s : State) (r : Refresh) (ps : List Nat) :
    tenureStands s (requestCloses (pauseTenure (withRefresh s r)) ps) :=
  ((tenureStands_withRefresh s r).then (tenureStands_pauseTenure _)).then
    (.of_frame (by simp) (by simp) (by simp))

theorem tenureStands_beginOpportunistic (s : State) : tenureStands s (beginOpportunistic s) :=
  tenureStands_episode s _ _

theorem tenureStands_tryEpisode (s : State) : tenureStands s (tryEpisode s) := by
  unfold tryEpisode
  split
  · exact tenureStands_beginOpportunistic s
  · exact .refl s

theorem tenureStands_forceTest (s : State) : tenureStands s (forceTest s) := by
  unfold forceTest
  split
  · split
    · exact .of_frame rfl rfl rfl
    · exact tenureStands_episode s _ _
  · exact .refl s

theorem tenureStands_addDebt (s : State) : tenureStands s (addDebt s) := by
  unfold addDebt
  dsimp only
  refine .then ?_ (tenureStands_forceTest _)
  split
  · exact .of_frame (by simp) (by simp) (by simp)
  · exact .of_frame rfl rfl rfl

theorem tenureStands_endEpisode (s : State) : tenureStands s (endEpisode s) :=
  (tenureStands_withRefresh s _).then (tenureStands_resumeTenure _)

theorem tenureStands_completeRound (s : State) (k : EpisodeKind) :
    tenureStands s (completeRound s k) := by
  have hround := tenureStands_withRefresh s { s.refresh with
    debt := s.refresh.debt - 1, sent := [], sentAt := none }
  cases k with
  | opportunistic =>
    simp only [completeRound]; split
    · exact hround.then (tenureStands_endEpisode _)
    · exact hround
  | forced =>
    simp only [completeRound]; split
    · exact hround.then (tenureStands_endEpisode _)
    · exact hround

theorem tenureStands_testRound (s : State) : tenureStands s (testRound s) := by
  unfold testRound
  split
  · split
    · exact tenureStands_completeRound s _
    · exact .refl s
  · exact .refl s

/-! ## The pass and the grant (04 R71, R75, R78) -/

theorem exclusive_passTenure {s : State} (y : Link) (hm : s.settings.tenure.mode ≠ .shared)
    (h : anyInFlight s = false) : exclusive (passTenure s y) :=
  exclusive_of_noFlight (by simpa using hm) ((anyInFlight_congr (by simp)).trans h)

theorem passReady_iff {s : State} {x : Link} : passReady s = some x ↔
    s.tenure.holder = some x ∧ s.tenure.due ≠ .no ∧ handOverPoint s x = true ∧
      s.refresh.episode = .none := by
  unfold passReady
  cases s.tenure.holder with
  | none => simp
  | some z =>
    dsimp only
    by_cases hz : z = x
    · subst hz
      simp [episodeHolds, and_assoc]
    · simp [hz]

/-- At a hand-over point of the holder nothing is in ACCESS or MERGE. -/
theorem noFlight_of_handOverPoint {s : State} {x : Link} (hs : tenureLaw s)
    (hx : s.tenure.holder = some x) (h : handOverPoint s x = true) : anyInFlight s = false := by
  by_contra hno
  obtain ⟨i, t, ht, hf⟩ := anyInFlight_iff.mp (Bool.not_eq_false _ ▸ hno)
  have hflight : linkInFlight s x = true :=
    List.any_eq_true.mpr ⟨(i, t), mem_liveOf.mpr ⟨ht, hs x i t hx ht hf⟩, hf⟩
  simp [handOverPoint, hflight] at h

theorem exclusive_makePass {s : State} {x : Link} (hs : exclusive s) (h : passReady s = some x) :
    exclusive (makePass s x) := by
  obtain ⟨hx, -, hpoint, -⟩ := passReady_iff.mp h
  have hmode := mode_of_holder hs hx
  have hflight := noFlight_of_handOverPoint hs.1 hx hpoint
  unfold makePass
  split
  · exact hs
  · exact exclusive_passTenure _ hmode hflight
  · split
    · exact exclusive_passTenure _ hmode hflight
    · exact exclusive_of_noTenure rfl

theorem exclusive_settlePass {s : State} (hs : exclusive s) : exclusive (settlePass s) := by
  unfold settlePass
  cases h : passReady s with
  | none => exact hs
  | some x =>
    dsimp only
    split
    · exact (tenureStands_beginOpportunistic s).exclusive hs
    · exact exclusive_makePass hs h

theorem grantReady_spec {s : State} {x : Link} (h : grantReady s = some x) :
    s.settings.tenure.mode = .tenure ∧ s.tenure.holder = none ∧ anyInFlight s = false ∧
      episodeHolds s = false ∧ grantTarget s = some x := by
  unfold grantReady at h
  split at h
  · rename_i hc
    simp only [Bool.and_eq_true, decide_eq_true_eq, Option.isNone_iff_eq_none, Bool.not_eq_true'] at hc
    obtain ⟨⟨⟨hm, hh⟩, hf⟩, he⟩ := hc
    exact ⟨hm, hh, hf, he, h⟩
  · cases h

theorem exclusive_makeGrant {s : State} (hs : exclusive s) : exclusive (makeGrant s) := by
  unfold makeGrant
  cases h : grantReady s with
  | none => exact hs
  | some x =>
    obtain ⟨hm, -, hf, -⟩ := grantReady_spec h
    exact exclusive_passTenure x (by simp [hm]) hf

theorem exclusive_settleGrant {s : State} (hs : exclusive s) : exclusive (settleGrant s) := by
  have hfree : exclusive { s with free := s.free + 1 } := hs
  unfold settleGrant
  dsimp only
  split_ifs
  · exact (tenureStands_tryEpisode _).exclusive (exclusive_makeGrant hfree)
  · exact (tenureStands_tryEpisode _).exclusive hfree
  · exact (tenureStands_tryEpisode _).exclusive (exclusive_makeGrant hs)

/-! ## The consequences of an event -/

theorem exclusive_settleSleep {s : State} (hs : exclusive s) : exclusive (settleSleep s) := by
  have hwarm : ∀ u, tenureStands u (warmSleep u) := fun u => .of_frame (by simp) (by simp) (by simp)
  refine (hwarm _).exclusive ?_
  split
  · exact exclusive_of_noTenure (by simp [enterSelfRefresh, withTenure])
  · exact hs

theorem exclusive_settleAwake {s : State} (hs : exclusive s) : exclusive (settleAwake s) := by
  have hfirst : ∀ u, tenureStands u (waitingToClosing (settleCommit u)) :=
    fun u => .of_frame (by simp) (by simp) (by simp)
  have hlast : ∀ u, tenureStands u (settleVictims (closingToRefreshing (settleQuiesce u))) :=
    fun u => .of_frame (by simp) (by simp) (by simp)
  have hjudged : tenureStands s (wantDue (clearDue (judgeIdle (waitingToClosing (settleCommit s))))) :=
    ((hfirst s).then (tenureStands_judgeIdle _)).then
      ((tenureStands_clearDue _).then (tenureStands_wantDue _))
  exact (hlast _).exclusive (exclusive_settleGrant (exclusive_settlePass (hjudged.exclusive hs)))

theorem exclusive_settle {s : State} (hs : exclusive s) : exclusive (settle s) := by
  rw [settle_eq]
  exact exclusive_settleSleep (exclusive_settleAwake hs)

/-! ## Issue (04 R70) -/

/-- A transaction that passes the gate belongs to the holder, if there is one. -/
theorem holder_of_gateOpen {s : State} {t : Txn} {x : Link} (hs : exclusive s)
    (hx : s.tenure.holder = some x) (h : gateOpen s t = true) : t.link = x := by
  have hm : s.settings.tenure.mode = .tenure := by
    have hne := mode_of_holder hs hx
    cases hmode : s.settings.tenure.mode with
    | shared => exact absurd hmode hne
    | tenure => rfl
  obtain ⟨hholder, -⟩ := (gateOpen_of_tenure hm t).mp h
  exact Option.some.inj (hholder.symm.trans hx)

theorem exclusive_issued {s : State} {pos i : Nat} {t : Txn} (h : slotAt s i = some t)
    (hgate : gateOpen s t = true) (hs : exclusive s) : exclusive (issued s pos i t) := by
  have hframe := issued_frame s pos i t
  have htenure : (issued s pos i t).tenure = s.tenure := by rw [hframe]
  have hset : (issued s pos i t).settings = s.settings := by rw [hframe]
  refine ⟨fun x j u hx hu hf => ?_, fun hm => htenure.trans (hs.2 (by rwa [hset] at hm))⟩
  rw [htenure] at hx
  by_cases hj : j = i
  · subst hj
    rw [slotAt_issued_self h] at hu
    cases hu
    exact holder_of_gateOpen hs hx hgate
  · cases hw : slotAt s j with
    | none => rw [slotAt_issued_none h hw] at hu; cases hu
    | some w =>
      rw [slotAt_issued_other hj hw] at hu
      cases hu
      exact hs.1 x j w hx hw hf

theorem exclusive_ownIssue {s : State} (hs : exclusive s) : exclusive (ownIssue s) := by
  unfold ownIssue
  cases grantee s with
  | none => exact hs
  | some pos =>
    dsimp only
    cases hc : choice s pos with
    | none => exact hs
    | some p =>
      obtain ⟨hslot, heligible⟩ := choice_spec (i := p.1) (t := p.2) hc
      obtain ⟨-, -, -, hgate, -⟩ := eligible_iff.mp heligible
      exact (tenureStands.of_flight (pathFollows_completeEmpty _ pos).flight (by simp) (by simp)).exclusive
        (exclusive_issued hslot hgate hs)

/-! ## Management packets -/

theorem exclusive_writeField {s : State} (f : Field) (v : Nat) (hs : exclusive s) :
    exclusive (writeField s f v) := by
  have hstore : ∀ g, g ≠ .tenureMode → tenureStands s (storeField s g v) := fun g hg =>
    ⟨flightFollows_of_table rfl, rfl, id, by cases g <;> first | rfl | exact absurd rfl hg⟩
  cases f
  case tenureMode =>
    rw [writeField_tenureMode]
    split
    · exact hs
    · exact exclusive_of_noTenure rfl
  case refreshMode =>
    refine tenureStands.exclusive ?_ hs
    show tenureStands s (storeRefreshMode s v)
    unfold storeRefreshMode
    dsimp only
    split_ifs
    · exact .refl s
    · exact (hstore .refreshMode (by simp)).then (.of_frame rfl rfl rfl)
    · exact (hstore .refreshMode (by simp)).then (.of_frame rfl rfl rfl)
  case forceLevel =>
    exact ((hstore .forceLevel (by simp)).then (tenureStands_forceTest _)).exclusive hs
  case cueLink => exact ((hstore .cueLink (by simp)).then (.of_frame rfl rfl rfl)).exclusive hs
  case filterEnable =>
    refine tenureStands.exclusive ?_ hs
    rw [writeField_filterEnable]
    split
    · exact (hstore .filterEnable (by simp)).then (.of_frame rfl rfl rfl)
    · exact hstore .filterEnable (by simp)
  all_goals exact (hstore _ (by simp)).exclusive hs

theorem exclusive_change {x : Link} {s u : State} (h : MgmtChange x s u) (hs : exclusive s) :
    exclusive u := by
  cases h
  case writes f v _ _ _ => exact exclusive_writeField f v hs
  case resets v hv =>
    rcases hv with rfl | rfl <;>
      exact (tenureStands.of_frame (by simp) (by simp) (by simp)).exclusive hs
  all_goals exact (tenureStands.of_frame (by simp) (by simp) (by simp)).exclusive hs

theorem exclusive_mgmt {c : Instr} {x : Link} {seq : Byte} {k : MgmtKind}
    (h : mgmtOf c = some (x, seq, k)) {s : State} (hs : exclusive s) : exclusive (effectOf c s) := by
  have hframe : ∀ {u w : State}, w.table = u.table → w.tenure = u.tenure → w.settings = u.settings →
      exclusive u → exclusive w := fun ht hte hset => (tenureStands.of_frame ht hte hset).exclusive
  obtain ⟨eff, e, hch⟩ := effectOf_mgmtOf h
  rw [e]
  exact arriveMgmt_keeps hs (fun u => hframe (by simp) (by simp) (by simp))
    (fun u => hframe (by simp) (by simp) (by simp)) (fun u => exclusive_settle)
    (fun u => hframe (by simp) (by simp) (by simp))
    (fun _ d => hframe (by simp) (by simp) (by simp)) (exclusive_change (hch s) hs)

/-! ## Every command -/

theorem tenureStands_resetBlocks (s : State) (x : Link) (cause : Cause) :
    tenureStands s (resetBlocks s x cause) := by
  refine ⟨(pathFollows_resetBlocks s x cause).flight, ?_, ?_, by simp⟩ <;> unfold resetBlocks <;> dsimp only
  · refine (tenureStands_tenureLinkReset _ x).holder.trans ?_
    simp
  · exact fun h => (tenureStands_tenureLinkReset _ x).absent (by simpa using h)

/-- Outside the expiry of the quantum what a command does to the tenure state of its own leaves the holder, and
SHARED mode as it is. -/
theorem tenureStands_ownEffect (c : Instr) (s : State) (hm : mgmtOf c = none) (hr : requestOf c = none)
    (hg : c ≠ .issue) (hc : c ≠ .coldReset) (hp : c ≠ .resetPoint) (hq : c ≠ .quantumTimerExpiry) :
    tenureStands s (ownEffect c s) := by
  have hreset : ∀ x cause u, u.table = s.table → u.tenure = s.tenure → u.settings = s.settings →
      tenureStands s (resetBlocks u x cause) := fun x cause u ht hte hset =>
    .then (.of_frame ht hte hset) (tenureStands_resetBlocks u x cause)
  by_cases hi : ∃ x, c = .intakeStep x
  · obtain ⟨x, rfl⟩ := hi
    exact .of_flight (flightFollows_ownIntake x s) (by simp [ownEffect]) (by simp [ownEffect])
  have hflight := (pathFollows_ownEffect c s hm hr (not_exists.mp hi) hg).flight
  cases c
  case intakeStep x => exact absurd ⟨x, rfl⟩ hi
  case issue => exact absurd rfl hg
  case coldReset => exact absurd rfl hc
  case resetPoint => exact absurd rfl hp
  case quantumTimerExpiry => exact absurd rfl hq
  case idleTimerExpiry => exact tenureStands_ownIdle s
  case refreshComplete rank =>
    exact .then (.of_frame (by simp) (by simp) (by simp)) (tenureStands_testRound (rankRefreshed rank s))
  case refreshTimerExpiry =>
    exact (tenureStands_withRefresh s _).then (tenureStands_addDebt (loadRefreshTimer s))
  case cueMonitorExpiry =>
    simp only [ownEffect, ownCueMonitor]; split
    · exact .of_frame rfl rfl rfl
    · exact .then (.of_frame (by simp) (by simp) (by simp)) (tenureStands_addDebt _)
  case refreshCue x _ =>
    simp only [ownEffect, ownCue]; (repeat' split)
    · exact .refl s
    · exact .of_frame (by simp) (by simp) (by simp)
    · exact (tenureStands_withRefresh s _).then (tenureStands_addDebt _)
    · exact .refl s
  case resumeSequenceEnd =>
    simp only [ownEffect, ownResumeEnd]; split
    · exact .of_frame (by simp) (by simp) (by simp)
    · have hends : ∀ u, tenureStands u (endLong u .resume .ok .none) :=
        fun u => .of_frame (by simp) (by simp) (by simp)
      refine .then (.then ?_ (tenureStands_forceTest _)) (hends _)
      exact .of_frame (by simp) (by simp) (by simp)
  case train x _ _ seen =>
    simp only [ownEffect, ownTrain]; (repeat' split)
    · exact .of_frame (by simp) (by simp) (by simp)
    · exact .of_frame (by simp) (by simp) (by simp)
    · exact hreset x _ s rfl rfl rfl
  case linkReset x => exact hreset x _ s rfl rfl rfl
  case retryTimerExpiry x =>
    simp only [ownEffect, ownRetry]; split
    · exact .of_frame (by simp) (by simp) (by simp)
    · exact hreset x _ _ (by simp) (by simp) (by simp)
  case replayTimerExpiry x =>
    simp only [ownEffect, ownReplay]; split
    · exact .of_frame (by simp) (by simp) (by simp)
    · exact hreset x _ _ (by simp) (by simp) (by simp)
  case read | write | lockRead | lockWrite | lockDrop | fence => cases hr
  case mgmtRead | mgmtWrite | writeTenureMode | writeRefreshMode | writeForceLevel | writeCueLink |
      writeFilterEnable | writeCreditLimit | writeAlertLink | writeLease | writeCorrThreshold |
      writeOpenLimit | tableRead | tableWrite | tableRevert | tableCommit | claim | release |
      channelStart | channelQuiesce | channelResume | hubReset => cases hm
  all_goals exact .of_flight hflight (by simp [ownEffect, effectOf]) (by simp [ownEffect, effectOf])

theorem exclusive_ownEffect (c : Instr) (s : State) (hm : mgmtOf c = none) (hr : requestOf c = none)
    (hq : c ≠ .quantumTimerExpiry) (hs : exclusive s) : exclusive (ownEffect c s) := by
  by_cases hg : c = .issue
  · subst hg; exact exclusive_ownIssue hs
  by_cases hc : c = .coldReset
  · subst hc; exact exclusive_of_noTenure rfl
  by_cases hp : c = .resetPoint
  · subst hp; exact exclusive_of_noTenure rfl
  exact (tenureStands_ownEffect c s hm hr hg hc hp hq).exclusive hs

theorem exclusive_effectOf (c : Instr) (s : State) (hq : c ≠ .quantumTimerExpiry) (hs : exclusive s) :
    exclusive (effectOf c s) := by
  cases hm : mgmtOf c with
  | some m => exact exclusive_mgmt (x := m.1) (seq := m.2.1) (k := m.2.2) hm hs
  | none =>
    cases hr : requestOf c with
    | some q =>
      rw [effectOf_requestOf (r := q.1) (seq := q.2) hr]
      have hintake := (requestOf_fields (seq := q.2) hr).1
      exact (tenureStands.of_flight (flightFollows_arriveRequest hintake) (by simp) (by simp)).exclusive hs
    | none => exact effectOf_keeps (fun _ => exclusive_settle) (exclusive_ownEffect c s hm hr hq hs)

/-- The quantum expires only while a link holds tenure, so never in SHARED mode (04 R72). -/
theorem exclusive_quantumTimerExpiry {s t : State} (h : exec .quantumTimerExpiry s = .next t)
    (hs : exclusive s) : exclusive t := by
  rcases happens_guarded (timerRuns s.tenure.quantum && s.tenure.holder.isSome) s expireQuantum with
    e | ⟨hg, e⟩
  · cases e.symm.trans h
    exact hs
  · cases e.symm.trans h
    obtain ⟨x, hx⟩ := Option.isSome_iff_exists.mp (Bool.and_eq_true_iff.mp hg).2
    refine exclusive_settle (tenureStands.exclusive (s := s) ?_ hs)
    exact .of_holder hx rfl hx rfl

theorem exclusive_exec {c : Instr} {s t : State} (h : exec c s = .next t) (hs : exclusive s) :
    exclusive t := by
  have hframe : ∀ {u w : State}, w.table = u.table → w.tenure = u.tenure → w.settings = u.settings →
      exclusive u → exclusive w := fun ht hte hset => (tenureStands.of_frame ht hte hset).exclusive
  by_cases hq : c = .quantumTimerExpiry
  · subst hq
    exact exclusive_quantumTimerExpiry h hs
  · exact exec_keeps h hs (fun u => hframe rfl rfl rfl) (fun u x => hframe (by simp) (by simp) (by simp))
      (fun u x => hframe (by simp) (by simp) (by simp)) fun u => exclusive_effectOf c u hq

theorem tenureStands_tick (s : State) : tenureStands s (tick s) :=
  ⟨flightFollows_of_table rfl, rfl, fun h => by simp only [tick, h]; rfl, rfl⟩

/-- Settles O59: only an issue puts a transaction on the channel, and the gate admits the holder's alone; tenure
passes at a hand-over point and is granted from NONE, both with nothing on the channel. -/
theorem stepKeepsTenureExclusive : Obligations.StepKeepsTenureExclusive := by
  intro s t hs h
  unfold step at h
  split at h
  · cases h
    exact (tenureStands_tick s).exclusive hs
  · exact exclusive_exec h ((tenureStands.of_frame rfl rfl rfl).exclusive hs)

end Sys2Proof.Machine
end


section
/-! PROOFS. A pass of tenure (04 R78): the holder, its timers, the Recent Line Lists and the closes. -/

namespace Sys2Proof.Machine

/-- The new holder before the idle condition is judged: nothing due, the quantum loaded, both Recent Line Lists
cleared. -/
def passBegun (s : State) (y : Link) : State :=
  clearRecent (withTenure s
    ⟨some y, some .guaranteed, .running (s.settings.tenure.quantum.get y), .stopped, .no, false⟩)

/-- The new holder with its idle condition judged and the idle timer that goes with it. -/
def passJudged (s : State) (y : Link) : State :=
  withTenure (passBegun s y) { (passBegun s y).tenure with
    idleNow := holderIdle (passBegun s y) y
    idle := if holderIdle (passBegun s y) y then loadedIdle s y else .stopped }

theorem passTenure_eq (s : State) (y : Link) : passTenure s y =
    if s.settings.tenure.closeOnHandover then
      requestCloses (passJudged s y) (positions (passJudged s y))
    else passJudged s y := rfl

/-- The closes of a pass change bank records alone. -/
theorem passTenure_banks (s : State) (y : Link) :
    (∀ pos, bankAt (passTenure s y) pos = (bankAt s pos).map fun b =>
      if s.settings.tenure.closeOnHandover = false then b else closeAsked b) ∧
    passTenure s y = { passJudged s y with sched := { s.sched with
      banks := (passTenure s y).sched.banks } } := by
  rw [passTenure_eq]
  cases s.settings.tenure.closeOnHandover with
  | false => exact ⟨fun pos => by simp; rfl, rfl⟩
  | true => exact requestCloses_all s (passJudged s y) rfl

theorem tenure_passTenure (s : State) (y : Link) :
    (passTenure s y).tenure = (passJudged s y).tenure := by
  rw [(passTenure_banks s y).2]

theorem holderIdle_congr {s u : State} (h : gateStands s u) (x : Link) :
    holderIdle u x = holderIdle s x := by
  unfold holderIdle linkInFlight
  rw [liveOf_congr h.table, funext fun p : Nat × Txn => eligible_congr h p.2]

/-- The idle condition judged at the pass is that of the state which the pass leaves: it does not look at the
idle timer or at close requests. -/
theorem holderIdle_passTenure (s : State) (y : Link) :
    holderIdle (passTenure s y) y = holderIdle (passBegun s y) y := by
  have hbanks : gateStands (passJudged s y) (passTenure s y) := by
    rw [(passTenure_banks s y).2]
    exact ⟨rfl, rfl, rfl, rfl, rfl, rfl, rfl, rfl⟩
  exact holderIdle_congr hbanks y

theorem targetOf_clearRecent (s : State) (z : Link) :
    targetOf (clearRecent s) z = { targetOf s z with recent := [] } := by
  cases z <;> rfl

theorem targetOf_passTenure (s : State) (y z : Link) :
    targetOf (passTenure s y) z = { targetOf s z with recent := [] } := by
  rw [(passTenure_banks s y).2]
  exact targetOf_clearRecent s z

/-- What a pass leaves: all but tenure, the Recent Line Lists and the bank records. -/
theorem passTenure_rest (s : State) (y : Link) : passTenure s y = { s with
    tenure := (passTenure s y).tenure
    notices := (passTenure s y).notices
    sched := { s.sched with banks := (passTenure s y).sched.banks } } := by
  rw [(passTenure_banks s y).2]
  rfl

/-- A pass, field by field (04 R78). -/
theorem passTenure_passes (s : State) (y : Link) : let t := passTenure s y
    t.tenure.holder = some y ∧ t.tenure.phase = some .guaranteed ∧
    t.tenure.quantum = .running (s.settings.tenure.quantum.get y) ∧ t.tenure.due = .no ∧
    (holderIdle t y = false → t.tenure.idle = .stopped) ∧
    (holderIdle t y = true → t.tenure.idle = loadedIdle s y) := by
  dsimp only
  rw [tenure_passTenure, holderIdle_passTenure]
  refine ⟨rfl, rfl, rfl, rfl, fun h => ?_, fun h => ?_⟩ <;> simp [passJudged, withTenure, h]

end Sys2Proof.Machine
end


section
/-! PROOFS. When tenure passes and when it is granted (04 R71, R75, R78 to R81; O17). -/

namespace Sys2Proof.Machine

/-! ## Waiting work and hand-over points (04 R69, R75) -/

theorem isWaitingWork_iff {t : Txn} : isWaitingWork t = true ↔ t.state = .queued ∧ t.lockWait = none := by
  simp [isWaitingWork]

theorem hasWaitingWork_iff {s : State} {x : Link} : hasWaitingWork s x = true ↔
    ∃ i t, slotAt s i = some t ∧ t.link = x ∧ t.state = .queued ∧ t.lockWait = none := by
  simp only [hasWaitingWork, List.any_eq_true, Prod.exists, mem_liveOf, isWaitingWork_iff, and_assoc]

theorem handOverPoint_iff {s : State} {x : Link} : handOverPoint s x = true ↔ holdsLock s x = false ∧
    ∀ i t, slotAt s i = some t → t.link = x → t.state ≠ .access ∧ t.state ≠ .merge := by
  have hflight : linkInFlight s x = false ↔
      ∀ i t, slotAt s i = some t → t.link = x → t.state ≠ .access ∧ t.state ≠ .merge := by
    simp [linkInFlight, mem_liveOf, inFlight]
  rw [← hflight, handOverPoint, Bool.and_eq_true, Bool.not_eq_true', Bool.not_eq_true', and_comm]

/-- Waiting work is on the channel path. -/
theorem anyOnPath_of_waiting {s : State} {i : Nat} {t : Txn} (h : slotAt s i = some t)
    (hw : isWaitingWork t = true) : anyOnPath s = true :=
  anyOnPath_iff.mpr ⟨i, t, h, onChannelPath_iff.mpr (.inl (isWaitingWork_iff.mp hw).1)⟩

theorem anyOnPath_of_hasWaitingWork {s : State} {x : Link} (h : hasWaitingWork s x = true) :
    anyOnPath s = true := by
  obtain ⟨i, t, ht, -, hw⟩ := hasWaitingWork_iff.mp h
  exact anyOnPath_of_waiting ht (isWaitingWork_iff.mpr hw)

theorem hasWaitingWork_congr {s u : State} (h : u.table = s.table) (x : Link) :
    hasWaitingWork u x = hasWaitingWork s x := by rw [hasWaitingWork, hasWaitingWork, liveOf_congr h]

theorem handOverPoint_congr {s u : State} (h : u.table = s.table) (hl : u.locks = s.locks) (x : Link) :
    handOverPoint u x = handOverPoint s x := by
  unfold handOverPoint linkInFlight holdsLock
  rw [liveOf_congr h, hl, funext (slotAt_congr h)]

/-! ## The pass at a hand-over point (04 R75, R79 to R81) -/

theorem settlePass_of_notReady {s : State} (h : ∀ x, passReady s ≠ some x) : settlePass s = s := by
  rw [settlePass, Option.eq_none_iff_forall_ne_some.mpr h]

theorem episodeAllowed_iff {s : State} : episodeAllowed s = true ↔
    (s.chan.state = .run ∨ s.chan.state = .quiescing) ∧ s.refresh.episode = .none ∧
      1 ≤ s.refresh.debt := by
  simp [episodeAllowed, channelServes, episodeHolds, and_assoc]

/-- A debt is paid first, where the channel serves (04 R80). -/
theorem settlePass_of_debt {s : State} {x : Link} (h : passReady s = some x)
    (hs : s.chan.state = .run ∨ s.chan.state = .quiescing) (hd : 1 ≤ s.refresh.debt) :
    settlePass s = beginOpportunistic s := by
  obtain ⟨-, -, -, he⟩ := passReady_iff.mp h
  have hallowed : episodeAllowed s = true := episodeAllowed_iff.mpr ⟨hs, he, hd⟩
  simp [settlePass, h, hallowed]

theorem settlePass_of_paid {s : State} {x : Link} (h : passReady s = some x)
    (hpaid : ¬ (s.chan.state = .run ∨ s.chan.state = .quiescing) ∨ s.refresh.debt = 0) :
    settlePass s = makePass s x := by
  have hallowed : episodeAllowed s = false := by
    refine Bool.eq_false_iff.mpr fun ha => ?_
    obtain ⟨hs, -, hd⟩ := episodeAllowed_iff.mp ha
    exact hpaid.elim (· hs) fun h0 => by omega
  simp [settlePass, h, hallowed]

theorem makePass_toLink {s : State} {y : Link} (x : Link) (h : s.tenure.due = .toLink y) :
    makePass s x = passTenure s y := by simp [makePass, h]

theorem makePass_toNone {s : State} (x : Link) (h : s.tenure.due = .toNone) : makePass s x =
    if hasWaitingWork s (otherLink x) then passTenure s (otherLink x) else withTenure s noTenure := by
  simp [makePass, h]

/-! ## The grant from NONE (04 R71) -/

/-- The waiting transactions of both links. -/
def waiting (s : State) : List (Nat × Txn) := (liveSlots s).filter fun p => isWaitingWork p.2

theorem mem_waiting {s : State} {p : Nat × Txn} :
    p ∈ waiting s ↔ slotAt s p.1 = some p.2 ∧ isWaitingWork p.2 = true := by
  simp [waiting, mem_liveSlots]

/-- The grant goes to the link of a waiting transaction that none precedes. -/
theorem grantTarget_oldest {s : State} {x : Link} (h : grantTarget s = some x) :
    ∃ i t, slotAt s i = some t ∧ isWaitingWork t = true ∧ t.link = x ∧
      ∀ j u, slotAt s j = some u → isWaitingWork u = true → arrivedBefore s u t = false := by
  obtain ⟨p, hp, hx⟩ := Option.map_eq_some_iff.mp h
  obtain ⟨hslot, hw⟩ := mem_waiting.mp ((mem_byArrival s p (waiting s)).mp (List.mem_of_head? hp))
  refine ⟨p.1, p.2, hslot, hw, hx, fun j u hu hwu => ?_⟩
  have hmem : (j, u) ∈ byArrival s (waiting s) :=
    (mem_byArrival s _ _).mpr (mem_waiting.mpr ⟨hu, hwu⟩)
  exact head?_least (R := notAfter s) (fun a => arrivedBefore_self s a.2) (sorted_byArrival s _) hp _ hmem

theorem grantTarget_of_waiting {s : State} {i : Nat} {t : Txn} (h : slotAt s i = some t)
    (hw : isWaitingWork t = true) : ∃ x, grantTarget s = some x := by
  have hmem : (i, t) ∈ byArrival s (waiting s) := (mem_byArrival s _ _).mpr (mem_waiting.mpr ⟨h, hw⟩)
  have hhead : grantTarget s = (byArrival s (waiting s)).head?.map fun p => p.2.link := rfl
  rw [hhead]
  cases hl : byArrival s (waiting s) with
  | nil => rw [hl] at hmem; cases hmem
  | cons p l => exact ⟨p.2.link, rfl⟩

theorem grantReady_of_target {s : State} (hm : s.settings.tenure.mode = .tenure)
    (hh : s.tenure.holder = none) (hf : anyInFlight s = false) (he : s.refresh.episode = .none) :
    grantReady s = grantTarget s := by
  simp [grantReady, hm, hh, hf, episodeHolds, he]

/-- Without waiting work there is no grant. -/
theorem grantReady_of_noWork {s : State} (h : ∀ i t, slotAt s i = some t → isWaitingWork t = false) :
    grantReady s = none := by
  refine Option.eq_none_iff_forall_ne_some.mpr fun x hx => ?_
  obtain ⟨-, -, -, -, htarget⟩ := grantReady_spec hx
  obtain ⟨i, t, ht, hw, -⟩ := grantTarget_oldest htarget
  rw [h i t ht] at hw; cases hw

theorem makeGrant_of_ready {s : State} {x : Link} (h : grantReady s = some x) :
    makeGrant s = passTenure s x := by simp [makeGrant, h]

theorem makeGrant_of_none {s : State} (h : grantReady s = none) : makeGrant s = s := by
  simp [makeGrant, h]

/-! ## The grant and an opportunistic episode (04 R71; 07 R123) -/

theorem episodeReady_iff {s : State} : episodeReady s = true ↔
    (s.chan.state = .run ∨ s.chan.state = .quiescing) ∧ s.refresh.episode = .none ∧
      1 ≤ s.refresh.debt ∧ anyEligible s = false ∧ anyInFlight s = false := by
  rw [episodeReady, Bool.and_eq_true, episodeAllowed_iff]
  simp [channelIdle, and_assoc]

theorem settleGrant_of_one {s : State} (h : grantReady s = none ∨ episodeReady s = false) :
    settleGrant s = tryEpisode (makeGrant s) := by
  unfold settleGrant
  rcases h with h | h <;> simp [h]

/-- Where both are due either may come first. -/
theorem settleGrant_of_both {s : State} {x : Link} (hg : grantReady s = some x)
    (he : episodeReady s = true) : let u : State := { s with free := s.free + 1 }
    settleGrant s = beginOpportunistic u ∨ settleGrant s = tryEpisode (passTenure u x) := by
  intro u
  have hgrant : makeGrant u = passTenure u x :=
    makeGrant_of_ready ((grantReady_congr (s := s) (u := u) rfl rfl rfl rfl).trans hg)
  have hepisode : tryEpisode u = beginOpportunistic u := if_pos he
  have hboth : settleGrant s = if Config.grantBeforeEpisode s.free then tryEpisode (makeGrant u)
      else tryEpisode u := by simp [settleGrant, hg, he, u]
  rw [hboth, hgrant, hepisode]
  split
  · exact .inr rfl
  · exact .inl rfl

/-! ## The tests of an event up to the pass -/

/-- What judging the idle condition leaves of the tenure state. -/
theorem judgeIdle_keeps (s : State) : (judgeIdle s).tenure.holder = s.tenure.holder ∧
    (judgeIdle s).tenure.due = s.tenure.due := by
  unfold judgeIdle
  split
  · exact ⟨rfl, rfl⟩
  · dsimp only
    split <;> exact ⟨rfl, rfl⟩

section
variable {s : State} (hc : s.xlate.commit ≠ .draining) (he : s.refresh.episode = .none)
include hc he

/-- Outside a drain and an episode the pass is judged after the idle condition and hand-over due. -/
theorem settleGranted_of_calm : settleGranted s =
    settleGrant (settlePass (wantDue (clearDue (judgeIdle s)))) := by
  have hcommit : settleCommit s = s := by simp [settleCommit, hc]
  have hwait : waitingToClosing s = s := waitingToClosing_stays (.inl fun k => by simp [he])
  rw [settleGranted, hcommit, hwait]

/-- With hand-over due to a link with waiting work nothing more comes due before the pass. -/
theorem settleGranted_of_due {x y : Link} (hx : s.tenure.holder = some x)
    (hd : s.tenure.due = .toLink y) (hw : hasWaitingWork s y = true) :
    settleGranted s = settleGrant (settlePass (judgeIdle s)) := by
  obtain ⟨hholder, hdue⟩ := judgeIdle_keeps s
  have hclear : clearDue (judgeIdle s) = judgeIdle s :=
    clearDue_of_work (hdue.trans hd) ((hasWaitingWork_congr (by simp) y).trans hw)
  have hwant : wantDue (judgeIdle s) = judgeIdle s := by
    rw [wantDue_of_holder (hholder.trans hx), if_neg]
    rintro ⟨hno, -⟩
    rw [hdue, hd] at hno; cases hno
  rw [settleGranted_of_calm hc he, hclear, hwant]

/-- With no holder nothing comes due before the grant. -/
theorem settleGranted_of_none (hx : s.tenure.holder = none) : settleGranted s = settleGrant s := by
  have hjudge : judgeIdle s = s := by simp [judgeIdle, hx]
  have hclear : clearDue s = s := by simp [clearDue, hx]
  have hwant : wantDue s = s := by simp [wantDue, hx]
  have hpass : settlePass s = s := settlePass_of_notReady fun x h => by
    rw [passReady_of_noHolder hx] at h; cases h
  rw [settleGranted_of_calm hc he, hjudge, hclear, hwant, hpass]

end

/-! ## The tests after the grant -/

/-- After the grant only an entry to self-refresh changes tenure, which waits for an empty path. -/
theorem tenure_settle_of_onPath {s : State} (h : anyOnPath s = true) :
    (settle s).tenure = (settleGranted s).tenure := by
  let u := settleVictims (closingToRefreshing (settleQuiesce (settleGranted s)))
  have hready : selfRefreshReady u = false :=
    selfRefreshReady_onPath ((anyOnPath_congr (by simp [u, settleGranted])).trans h)
  show (settleSleep u).tenure = _
  rw [settleSleep, hready]
  simp [u]

theorem holder_settle_of_none {s : State} (h : (settleGranted s).tenure.holder = none) :
    (settle s).tenure.holder = none := by
  rw [settle_eq_granted, settleSleep, (gateStands_warmSleep _).tenure]
  split
  · simp [(enterSelfRefresh_fields _).2.1, noTenure]
  · simpa using h

/-! ## Passes and grants without a debt -/

/-- A grant made where no debt is owed begins no episode. -/
theorem settleGrant_of_noDebt {s : State} (h : s.refresh.debt = 0) : settleGrant s = makeGrant s := by
  rw [settleGrant_of_one (.inr (episodeReady_of_noDebt h)),
    tryEpisode_of_noDebt (by rw [refresh_makeGrant, h])]

section
variable {s : State} (hc : s.xlate.commit ≠ .draining) (he : s.refresh.episode = .none)
  (hdebt : s.refresh.debt = 0)
include hc he hdebt

/-- Tenure due to a link with waiting work passes at the hand-over point. -/
theorem settle_passes {x y : Link} (hx : s.tenure.holder = some x) (hd : s.tenure.due = .toLink y)
    (hw : hasWaitingWork s y = true) (hp : handOverPoint s x = true) :
    (settle s).tenure = (passTenure (judgeIdle s) y).tenure := by
  obtain ⟨hholder, hdue⟩ := judgeIdle_keeps s
  have hpoint : handOverPoint (judgeIdle s) x = true :=
    (handOverPoint_congr (by simp) (by simp) x).trans hp
  have hready : passReady (judgeIdle s) = some x :=
    passReady_iff.mpr ⟨hholder.trans hx, by simp [hdue, hd], hpoint, by simp [he]⟩
  have hpass : settlePass (judgeIdle s) = passTenure (judgeIdle s) y := by
    rw [settlePass_of_paid hready (.inr (by simp [hdebt])), makePass_toLink x (hdue.trans hd)]
  rw [tenure_settle_of_onPath (anyOnPath_of_hasWaitingWork hw), settleGranted_of_due hc he hx hd hw, hpass,
    settleGrant_of_noDebt (by simp [hdebt]),
    makeGrant_of_none (grantReady_of_holder (passTenure_tenure _ y).1)]

/-- Before the hand-over point it stays due. -/
theorem settle_stays_due {x y : Link} (hx : s.tenure.holder = some x) (hd : s.tenure.due = .toLink y)
    (hw : hasWaitingWork s y = true) (hp : handOverPoint s x = false) :
    (settle s).tenure.holder = some x ∧ (settle s).tenure.due = .toLink y := by
  obtain ⟨hholder, hdue⟩ := judgeIdle_keeps s
  have hpass : settlePass (judgeIdle s) = judgeIdle s := settlePass_of_notReady fun z hz => by
    obtain ⟨hz, -, hpoint, -⟩ := passReady_iff.mp hz
    cases (hholder.trans hx).symm.trans hz
    have hsame : handOverPoint (judgeIdle s) x = handOverPoint s x :=
      handOverPoint_congr (by simp) (by simp) x
    rw [hsame, hp] at hpoint; cases hpoint
  rw [tenure_settle_of_onPath (anyOnPath_of_hasWaitingWork hw), settleGranted_of_due hc he hx hd hw, hpass,
    settleGrant_of_noDebt (by simp [hdebt]), makeGrant_of_none (grantReady_of_holder (hholder.trans hx))]
  exact ⟨hholder.trans hx, hdue.trans hd⟩

/-- From NONE tenure is granted to the link of the one oldest waiting transaction. -/
theorem settle_grants (hx : s.tenure.holder = none) (hm : s.settings.tenure.mode = .tenure)
    (hf : anyInFlight s = false) {i : Nat} {t : Txn} (ht : slotAt s i = some t)
    (hw : isWaitingWork t = true) (hfirst : ∀ j u, slotAt s j = some u → j ≠ i → isWaitingWork u = true →
      arrivedBefore s t u = true) : (settle s).tenure.holder = some t.link := by
  obtain ⟨x, htarget⟩ := grantTarget_of_waiting ht hw
  obtain ⟨j, u, hu, hwu, hlink, holdest⟩ := grantTarget_oldest htarget
  have hj : j = i := by
    by_contra hne
    have hbefore := hfirst j u hu hne hwu
    rw [holdest i t ht hw] at hbefore; cases hbefore
  subst hj
  cases ht.symm.trans hu
  have hready : grantReady s = some x := (grantReady_of_target hm hx hf he).trans htarget
  rw [tenure_settle_of_onPath (anyOnPath_of_waiting ht hw), settleGranted_of_none hc he hx,
    settleGrant_of_noDebt hdebt, makeGrant_of_ready hready, hlink]
  exact (passTenure_tenure s x).1

/-- With no waiting work the holder stays NONE. -/
theorem settle_stays_none (hx : s.tenure.holder = none)
    (hw : ∀ i t, slotAt s i = some t → isWaitingWork t = false) : (settle s).tenure.holder = none := by
  refine holder_settle_of_none ?_
  rw [settleGranted_of_none hc he hx, settleGrant_of_noDebt hdebt,
    makeGrant_of_none (grantReady_of_noWork hw)]
  exact hx

end

/-- Settles O17: the pass by its fields; an event by the tests up to the grant; the pass, the grant and the
episode by their conditions. -/
theorem tenurePassesAndGrants : Obligations.TenurePassesAndGrants := by
  refine ⟨?_, fun s hc he hd => ⟨fun x y hx hdue hw hp => ?_, fun x y => settle_stays_due hc he hd,
      fun hx hm hf i t => settle_grants hc he hd hx hm hf, settle_stays_none hc he hd⟩,
    fun s x => ⟨hasWaitingWork_iff, handOverPoint_iff⟩, fun s => ?_⟩
  · rintro s t y rfl
    obtain ⟨hholder, hphase, hquantum, hdue, hbusy, hidle⟩ := passTenure_passes s y
    exact ⟨hholder, hphase, hquantum, hdue, hbusy, fun h => (hidle h).trans (loadedIdle_eq s y),
      targetOf_passTenure s y, (passTenure_banks s y).1, passTenure_rest s y⟩
  · rw [settle_passes hc he hd hx hdue hw hp]
    obtain ⟨hholder, hphase, -, hno, -⟩ := passTenure_passes (judgeIdle s) y
    exact ⟨hholder, hphase, hno⟩
  · intro ready serves grants episode
    have hepisode : episodeReady s = true ↔ episode := episodeReady_iff
    have hnot : ¬ episode → episodeReady s = false :=
      fun h => Bool.eq_false_iff.mpr fun h' => h (hepisode.mp h')
    refine ⟨fun h => settlePass_of_notReady fun x hx => h x (passReady_iff.mp hx), fun x hx => ?_,
      fun x hx => ?_, fun hno x hx => ?_, hepisode, fun hno h => ?_, fun hno h => ?_,
      fun x hx h => ⟨_, rfl, ?_⟩, fun x hx h => ⟨_, rfl, settleGrant_of_both hx (hepisode.mpr h)⟩⟩
    · have hpass := passReady_iff.mpr hx
      refine ⟨settlePass_of_debt hpass, fun hpaid => ?_⟩
      rw [settlePass_of_paid hpass hpaid]
      refine ⟨fun y => makePass_toLink x, fun hdue hw => ?_, fun hdue hw => ?_⟩
      · rw [makePass_toNone x hdue, if_pos hw]
      · rw [makePass_toNone x hdue, hw]
        rfl
    · obtain ⟨hm, hh, hf, he, htarget⟩ := grantReady_spec hx
      exact ⟨hm, hh, hf, by simpa [episodeHolds] using he, grantTarget_oldest htarget⟩
    · obtain ⟨hm, hh, hf, he, i, t, ht, hw, -⟩ := hx
      obtain ⟨z, hz⟩ := grantTarget_of_waiting ht hw
      rw [grantReady_of_target hm hh hf he, hz] at hno; cases hno
    · rw [settleGrant_of_one (.inl hno), makeGrant_of_none hno]
      exact if_neg fun h' => h (hepisode.mp h')
    · rw [settleGrant_of_one (.inl hno), makeGrant_of_none hno]
      exact if_pos (hepisode.mpr h)
    · rw [settleGrant_of_one (.inr (hnot h)), makeGrant_of_ready hx]
      rfl

end Sys2Proof.Machine
end


section
/-! PROOFS. Entries of the Lock Table found by their blocks, removed, and judged for a transaction (05 R87, R91,
R92, R96; O34). -/

namespace Sys2Proof.Machine

/-! ## An entry by its block (05 R87) -/

/-- Under the law of the Lock Table no other entry is on the block of an entry. -/
theorem block_ne_of_lockLaw {s : State} {before after : List LockEntry} {e : LockEntry}
    (h : s.locks = before ++ e :: after) (hs : lockLaw s) : ∀ d ∈ before ++ after, d.block ≠ e.block := by
  obtain ⟨hn, -⟩ := hs
  rw [h, (List.perm_middle.map _).nodup_iff, List.map_cons, List.nodup_cons] at hn
  exact fun d hd hb => hn.1 (hb ▸ List.mem_map_of_mem hd)

theorem lockOn_eq_none {s : State} {block : Nat} :
    lockOn s block = none ↔ ∀ e ∈ s.locks, e.block ≠ block := by
  simp [lockOn]

theorem lockOn_spec {s : State} {block : Nat} {e : LockEntry} (h : lockOn s block = some e) :
    e ∈ s.locks ∧ e.block = block :=
  ⟨List.mem_of_find?_eq_some h, by simpa using List.find?_some h⟩

/-! ## The hold timer (05 R96) -/

theorem runningLock_of_held {s : State} {before after : List LockEntry} {e : LockEntry} {n : Nat}
    (h : s.locks = before ++ e :: after) (hs : lockLaw s) (hheld : e.state = .held)
    (ht : e.timer = .running n) : runningLock s e.block = some e := by
  refine List.find?_eq_some_iff_append.mpr ⟨by simp [hheld, ht, timerRuns], before, after, h, fun d hd => ?_⟩
  simp [block_ne_of_lockLaw h hs d (List.mem_append_left _ hd)]

theorem runningLock_eq_none {s : State} {block : Nat}
    (h : ∀ e ∈ s.locks, e.block = block → e.state = .held → ∀ n, e.timer ≠ .running n) :
    runningLock s block = none := by
  refine List.find?_eq_none.mpr fun e he => ?_
  simp only [Bool.and_eq_true, decide_eq_true_eq]
  rintro ⟨⟨hb, hheld⟩, ht⟩
  rw [timerRuns_false (h e he hb hheld)] at ht
  cases ht

theorem expireLock_of_running {s : State} {block : Nat} {e : LockEntry} (h : runningLock s block = some e) :
    expireLock block s = settle (removeLock
      (raiseAlert s .lockBroken (some e.holder) (some block) (some .expiry) none) block) := by
  simp only [expireLock, h]

theorem answers_lockHoldExpiry {s : State} {block : Nat} {e : LockEntry} (h : runningLock s block = some e) :
    answers (.lockHoldExpiry block) s (removeLock
      (raiseAlert (beginEvent s) .lockBroken (some e.holder) (some block) (some .expiry) none) block) :=
  answers_of (f := expireLock block) rfl (Option.isSome_of_eq_some h) (expireLock_of_running h)

theorem idles_lockHoldExpiry {s : State} {block : Nat} (h : runningLock s block = none) :
    idles (.lockHoldExpiry block) s :=
  idles_of (f := expireLock block) rfl (by rw [h]; rfl)

/-! ## An entry removed, and its waiters (05 R92) -/

theorem removeLock_eq {s : State} {before after : List LockEntry} {e : LockEntry}
    (h : s.locks = before ++ e :: after) (hs : lockLaw s) :
    removeLock s e.block = ((waitList s e.block).map fun p => p.1).foldl reexamineWaiter
      { s with locks := before ++ after } := by
  have hb := block_ne_of_lockLaw h hs
  obtain ⟨hbefore, hafter⟩ := List.forall_mem_append.mp hb
  have hgone : s.locks.filter (fun d => d.block = e.block) = [e] := by
    rw [h, List.filter_append, List.filter_cons_of_pos (by simp),
      List.filter_eq_nil_iff.mpr (by simpa using hbefore), List.filter_eq_nil_iff.mpr (by simpa using hafter)]
    rfl
  have hleft : s.locks.filter (fun d => !decide (d.block = e.block)) = before ++ after := by
    rw [h, List.filter_append, List.filter_cons_of_neg (by simp), ← List.filter_append]
    exact List.filter_eq_self.mpr (by simpa using hb)
  unfold removeLock removeLocks
  rw [hgone, hleft]
  simp only [List.flatMap_cons, List.flatMap_nil, List.append_nil]

theorem sorted_waitList (s : State) (block : Nat) : (waitList s block).Pairwise (notAfter s) :=
  sorted_byArrival s _

theorem waitOn_eq {s : State} {i : Nat} {t : Txn} (h : slotAt s i = some t) (b : Nat) :
    waitOn s i b = { s with table := { s.table with
      slots := s.table.slots.set i (some { t with lockWait := some b }) } } :=
  modSlot_eq _ h

theorem spanBlocks_of_one {t : Txn} {p : Nat} (hp : t.phys = some p) (hc : t.count = some 1) :
    spanBlocks t = [p] := by
  simp [spanBlocks, spanCount, hp, hc]

/-- A waiter that is no LOCK-READ is judged by the entry that blocks it. -/
theorem reexamineWaiter_of_access {s : State} {i : Nat} {t : Txn} (h : slotAt s i = some t)
    (hk : t.kind ≠ .lockRead) : reexamineWaiter s i =
      match blockingEntry s t with
      | some b => waitOn s i b
      | none => orderingPoint s i := by
  unfold reexamineWaiter
  rw [h]
  dsimp only
  split
  · exact absurd ‹_› hk
  · rfl

/-- A LOCK-READ that waited is judged by the entry on its block and the entries of its link. -/
theorem reexamineWaiter_of_lockRead {s : State} {i p : Nat} {t : Txn} (h : slotAt s i = some t)
    (hk : t.kind = .lockRead) (hp : spanBlocks t = [p]) :
    (∀ e, lockOn s p = some e → reexamineWaiter s i = waitOn s i p) ∧
    (lockOn s p = none → ∀ older d rest, locksOf s t.link = older :: d :: rest →
      reexamineWaiter s i = waitOn s i older.block) ∧
    (lockOn s p = none → (locksOf s t.link).length < 2 →
      reexamineWaiter s i = orderingPoint (takeLock s i t.link p) i) := by
  simp only [reexamineWaiter, h, hk, hp]
  refine ⟨fun e he => ?_, fun hno older d rest htwo => ?_, fun hno hfew => ?_⟩
  · simp only [he]
  · simp only [hno, htwo]
  · match hl : locksOf s t.link with
    | [] => simp only [hno]
    | [_] => simp only [hno]
    | _ :: _ :: _ => rw [hl] at hfew; simp at hfew

/-- The free entry taken stands beside the Transaction Table: the ordering point is that of the state before. -/
theorem orderingPoint_takeLock {s : State} {i : Nat} {t : Txn} (x : Link) (p : Nat)
    (h : slotAt s i = some t) : orderingPoint (takeLock s i x p) i = { s with
      locks := s.locks ++ [⟨x, p, .pending, some i, .stopped⟩]
      table := (orderingPoint s i).table } := by
  rw [orderingPoint_eq (s := takeLock s i x p) h, orderingPoint_eq h]
  rfl

/-! ## The entry that blocks a transaction (05 R91) -/

/-- The entry is the other link's and its block lies in the transaction's span. -/
def blocksTxn (s : State) (t : Txn) (e : LockEntry) : Prop :=
  e ∈ s.locks ∧ e.holder ≠ t.link ∧ e.block ∈ spanBlocks t

theorem foldl_minOption (l : List Nat) : l.foldl minOption none = l.min? := by
  have hsome : ∀ (l : List Nat) (a : Nat), l.foldl minOption (some a) = some (l.foldl min a) := by
    intro l
    induction l with
    | nil => exact fun a => rfl
    | cons b l ih => exact fun a => ih (min a b)
  cases l with
  | nil => rfl
  | cons a l => exact hsome l a

/-- The blocks of the entries that block a transaction, in the order of the table. -/
def blockingBlocks (s : State) (t : Txn) : List Nat :=
  (s.locks.filter fun e => e.holder ≠ t.link && (spanBlocks t).contains e.block).map fun e => e.block

theorem blockingEntry_eq (s : State) (t : Txn) : blockingEntry s t = (blockingBlocks s t).min? :=
  foldl_minOption _

theorem mem_blockingBlocks {s : State} {t : Txn} {b : Nat} :
    b ∈ blockingBlocks s t ↔ ∃ e, blocksTxn s t e ∧ e.block = b := by
  simp [blockingBlocks, blocksTxn]

theorem blockingEntry_eq_none {s : State} {t : Txn} :
    blockingEntry s t = none ↔ ∀ e, ¬ blocksTxn s t e := by
  rw [blockingEntry_eq, List.min?_eq_none_iff, List.eq_nil_iff_forall_not_mem]
  simp only [mem_blockingBlocks]
  exact ⟨fun h e he => h _ ⟨e, he, rfl⟩, fun h b ⟨e, he, _⟩ => h e he⟩

theorem blockingEntry_eq_some {s : State} {t : Txn} {b : Nat} : blockingEntry s t = some b ↔
    (∃ e, blocksTxn s t e ∧ e.block = b) ∧ ∀ e, blocksTxn s t e → b ≤ e.block := by
  rw [blockingEntry_eq, List.min?_eq_some_iff, mem_blockingBlocks]
  refine and_congr_right fun _ => ⟨fun h e he => h _ (mem_blockingBlocks.mpr ⟨e, he, rfl⟩), fun h c hc => ?_⟩
  obtain ⟨e, he, rfl⟩ := mem_blockingBlocks.mp hc
  exact h e he

theorem blocksTxn_iff {s : State} {t : Txn} {e : LockEntry} : blocksTxn s t e ↔
    e ∈ s.locks ∧ e.holder ≠ t.link ∧ ∃ p, t.phys = some p ∧ ∃ k < t.count.getD 0, e.block = p + 32 * k := by
  simp only [blocksTxn, mem_spanBlocks, eq_comm]

/-- Settles O34: an entry is found by its block, its waiters follow in order of arrival, and each is judged by
its kind and the entries in use. -/
theorem lockEntriesAreRemoved : Obligations.LockEntriesAreRemoved := by
  refine ⟨fun s before after e n h hs => ⟨fun hheld ht => ?_, removeLock_eq h hs, fun i t => mem_waitList,
      sorted_waitList s e.block⟩, fun s i t h => ⟨fun hk => ⟨fun b hb => ?_, fun hb => ?_⟩,
      fun p hk hp hc => ?_⟩,
    fun s t => ?_, fun s block => ⟨lockOn_eq_none, fun e => lockOn_spec, fun x => rfl,
      fun h => idles_lockHoldExpiry (runningLock_eq_none h)⟩⟩
  · exact answers_lockHoldExpiry (runningLock_of_held h hs hheld ht)
  · rw [reexamineWaiter_of_access h hk, hb]
    exact waitOn_eq h b
  · rw [reexamineWaiter_of_access h hk, hb]
    exact orderingPoint_eq h
  · obtain ⟨hentry, hfull, hfree⟩ := reexamineWaiter_of_lockRead h hk (spanBlocks_of_one hp hc)
    refine ⟨fun e he => (hentry e he).trans (waitOn_eq h p), fun hno older d rest htwo =>
      (hfull hno older d rest htwo).trans (waitOn_eq h older.block), fun hno hfew => ?_⟩
    rw [hfree hno hfew, orderingPoint_takeLock t.link p h, orderingPoint_eq h]
  · simp only [← blocksTxn_iff]
    exact ⟨blockingEntry_eq_none, fun b => blockingEntry_eq_some.mp⟩

end Sys2Proof.Machine
end


section
/-! PROOFS. The Notice Unit after a reset: what is empty, and what no write needs (06 R116; O6). -/

namespace Sys2Proof.Machine

/-! ## Emptied targets -/

theorem targetOf_of_emptied {s : State} (h : s.notices = .both emptyTarget) (y : Link) :
    targetOf s y = emptyTarget := by
  rw [targetOf, h, PerLink.get_both]

theorem readStatus_notices (s : State) (y : Link) :
    readStatus s (.notices y) = (targetOf s y).queue.length := rfl

theorem readStatus_notices_of_emptied {s : State} (h : s.notices = .both emptyTarget) (y : Link) :
    readStatus s (.notices y) = 0 := by
  rw [readStatus_notices, targetOf_of_emptied h]
  rfl

/-! ## No link caches (06 R103) -/

theorem needsNotices_of_no_caching {s : State} (h : s.settings.notices.caching = ⟨false, false⟩)
    (t : Txn) : needsNotices s t = false := by
  refine Bool.eq_false_iff.mpr fun hn => ?_
  obtain ⟨-, -, hcaching, -⟩ := needsNotices_iff.mp hn
  have hnone : s.settings.notices.caching.get (otherLink t.link) = false := by
    rw [h]
    exact PerLink.get_both false _
  exact Bool.false_ne_true (hnone.symm.trans hcaching)

theorem notifiedSet_of_not_needed {s : State} {t : Txn} (h : needsNotices s t = false) :
    notifiedSet s t = [] :=
  if_neg (Bool.eq_false_iff.mp h)

/-! ## The two resets -/

theorem exec_resetPoint_of_done {s : State} (h : warmWorkDone s = true) :
    exec .resetPoint s = .next (takeResetPoint (beginEvent s)) :=
  happens_of h rfl

/-- Settles O6: either reset leaves both targets of the Notice Unit empty, which STATUS counts as 0 entries;
with the caching fields at their defaults no link is to be told of a write. -/
theorem coldResetEmptiesTheNoticeUnit : Obligations.ColdResetEmptiesTheNoticeUnit := by
  intro s
  have hcold : (coldReset s).notices = .both emptyTarget := rfl
  refine ⟨coldReset s, exec_coldReset s, fun y => ?_, rfl, fun u r hu => ?_,
    readStatus_notices_of_emptied hcold,
    fun u hu => ⟨_, exec_resetPoint_of_done hu, readStatus_notices_of_emptied rfl⟩⟩
  · rw [targetOf_of_emptied hcold]
    exact ⟨rfl, rfl, rfl⟩
  · have hn := needsNotices_of_no_caching hu r
    exact ⟨hn, notifiedSet_of_not_needed hn⟩

end Sys2Proof.Machine
end


section
/-! PROOFS. The canonical form of the DRAM's contents, which every step keeps (08 R131, R138, R140; O54). -/

namespace Sys2Proof.Machine

/-! ## The contents that stand -/

theorem dramLaw_of_dram {s u : State} (h : u.dram = s.dram) (hs : dramLaw s) : dramLaw u := by
  unfold dramLaw; rw [h]; exact hs

theorem dramLaw_settle {s : State} (hs : dramLaw s) : dramLaw (settle s) :=
  dramLaw_of_dram (by simp) hs

/-! ## The contents that change -/

theorem dramLaw_writeBlock {s : State} (base : Nat) (data : Block) (hs : dramLaw s) :
    dramLaw { s with dram := writeBlock s.dram base data } :=
  wf_writeBlock base data hs.1 hs.2

theorem dramLaw_damage {s : State} (base : Nat) (es : List ErrMask) (hs : dramLaw s) :
    dramLaw { s with dram := damage s.dram base es } :=
  wf_damage base es hs.1 hs.2

theorem dramLaw_forgetRanks {s : State} (ranks : Nat) (hs : dramLaw s) :
    dramLaw { s with dram := forgetRanks s.dram ranks } :=
  wf_forgetRanks ranks hs.1 hs.2

/-- A cold reset forgets every byte and every bit in error. -/
theorem dramLaw_coldReset (s : State) : dramLaw (coldReset s) := ⟨rfl, rfl⟩

theorem dramLaw_stored {s : State} (pos : Nat) (v : Service) (k : Nat) (data : Block) (hs : dramLaw s) :
    dramLaw (stored pos s v k data) :=
  dramLaw_of_dram (by simp [stored]) (dramLaw_writeBlock (cellOfBlock s v.slot k) data hs)

theorem dramLaw_ownWriteColumn {s : State} (pos : Nat) (hs : dramLaw s) :
    dramLaw (ownWriteColumn pos s) := by
  unfold ownWriteColumn
  cases writeColumnReady s pos with
  | none => exact hs
  | some w =>
    obtain ⟨v, k, data⟩ := w
    have hst := dramLaw_stored pos v k data hs
    dsimp only
    split
    · exact dramLaw_of_dram (s := stored pos s v k data) (by simp) hst
    · exact hst

theorem dramLaw_dataTaken {s : State} (es : List ErrMask) (r : ReadDue) (v : Service) (t : Txn)
    (hs : dramLaw s) : dramLaw (dataTaken es s r v t).1 :=
  dramLaw_of_dram (by simp [dataTaken]) (dramLaw_damage (cellOfBlock s v.slot r.index) es hs)

theorem dramLaw_ownData {s : State} (es : List ErrMask) (hs : dramLaw s) : dramLaw (ownData es s) := by
  unfold ownData
  cases dataDue s with
  | none => exact hs
  | some d =>
    obtain ⟨r, v, t⟩ := d
    have htaken := dramLaw_dataTaken es r v t hs
    dsimp only
    split
    · exact dramLaw_of_dram (s := (dataTaken es s r v t).1) (by simp) htaken
    · exact htaken

/-! ## Every command -/

/-- Of the management packets only CHANNEL-START touches the contents (08 R131). -/
theorem dramLaw_change {x : Link} {s u : State} (h : MgmtChange x s u) (hs : dramLaw s) : dramLaw u := by
  cases h
  case starts => exact dramLaw_of_dram (by simp [beginStart]) (dramLaw_forgetRanks s.settings.geometry.ranks hs)
  case resets v hv => exact dramLaw_of_dram (by rcases hv with rfl | rfl <;> simp) hs
  all_goals exact dramLaw_of_dram (by simp) hs

/-- Besides the management packets only a cold reset, WRITE-COLUMN and read data touch the contents. -/
theorem dramLaw_effectOf_other (c : Instr) (s : State) (hm : mgmtOf c = none) (hs : dramLaw s) :
    dramLaw (effectOf c s) := by
  cases c
  case coldReset => exact dramLaw_coldReset s
  case writeColumnSent pos => exact effectOf_keeps (fun _ => dramLaw_settle) (dramLaw_ownWriteColumn pos hs)
  case readColumnDataArrival => exact effectOf_keeps (fun _ => dramLaw_settle) (dramLaw_ownData _ hs)
  case mgmtRead | mgmtWrite | writeTenureMode | writeRefreshMode | writeForceLevel | writeCueLink |
      writeFilterEnable | writeCreditLimit | writeAlertLink | writeLease | writeCorrThreshold |
      writeOpenLimit | tableRead | tableWrite | tableRevert | tableCommit | claim | release |
      channelStart | channelQuiesce | channelResume | hubReset => cases hm
  case train => exact dramLaw_of_dram (by simp only [effectOf]; split <;> simp) hs
  all_goals exact dramLaw_of_dram (by simp [effectOf]) hs

theorem dramLaw_effectOf (c : Instr) (s : State) (hs : dramLaw s) : dramLaw (effectOf c s) := by
  cases hm : mgmtOf c with
  | some m =>
    obtain ⟨eff, e, hch⟩ := effectOf_mgmtOf (x := m.1) (seq := m.2.1) (k := m.2.2) hm
    rw [e]
    exact arriveMgmt_keeps hs (fun _ => dramLaw_of_dram (by simp)) (fun _ => dramLaw_of_dram (by simp))
      (fun _ => dramLaw_settle) (fun _ => dramLaw_of_dram (by simp)) (fun _ _ => dramLaw_of_dram (by simp))
      (dramLaw_change (hch s) hs)
  | none => exact dramLaw_effectOf_other c s hm hs

/-- Settles O54: a stored block, new bits in error and contents given up keep the form; every other change
leaves the contents. -/
theorem stepKeepsTheMemoryForm : Obligations.StepKeepsTheMemoryForm := by
  intro s t hs h
  exact step_keeps h hs (fun _ hu => hu) (fun _ _ hu => hu) (fun _ hu => hu)
    (fun _ _ => dramLaw_of_dram (by simp)) (fun _ _ => dramLaw_of_dram (by simp))
    fun c u hu => dramLaw_effectOf c u hu

end Sys2Proof.Machine
end


section
/-! PROOFS. The check code of a word and of a block, the counter of corrected words, and alerts (08 R140 to
R142; 09 R159, R160; O25). -/

namespace Sys2Proof.Machine

/-! ## The check code (08 R140) -/

/-- A vector without a one bit is 0. -/
theorem eq_zero_of_popCount {n : Nat} {x : BitVec n} (h : popCount x = 0) : x = 0 := by
  have hnil := List.filter_eq_nil_iff.mp (List.eq_nil_of_length_eq_zero h)
  refine BitVec.eq_of_getLsbD_eq fun i hi => ?_
  rw [Bool.eq_false_iff.mpr (hnil i (List.mem_range.mpr hi))]
  exact BitVec.getLsbD_zero.symm

/-- A word without an error is read as it stands. -/
theorem asRead_zero (w : Word64) : asRead w 0 = w := by simp [asRead, dataErrors]

theorem classOfWord_clean (w : Word64) {e : ErrMask} (h : popCount e = 0) : classOfWord w e = .clean := by
  simp [classOfWord, h]

theorem classOfWord_corrected (w : Word64) {e : ErrMask} (h : popCount e = 1) :
    classOfWord w e = .corrected := by simp [classOfWord, h]

theorem classOfWord_uncorrectable (w : Word64) {e : ErrMask} (h : popCount e = 2) :
    classOfWord w e = .uncorrectable := by simp [classOfWord, h]

theorem passedOn_clean (w : Word64) {e : ErrMask} (h : popCount e = 0) : passedOn w e = w := by
  have hread : passedOn w e = asRead w e := by rw [passedOn, classOfWord_clean w h]
  rw [hread, eq_zero_of_popCount h, asRead_zero]

theorem passedOn_corrected (w : Word64) {e : ErrMask} (h : popCount e = 1) : passedOn w e = w := by
  rw [passedOn, classOfWord_corrected w h]
  exact if_pos h

theorem passedOn_uncorrectable (w : Word64) {e : ErrMask} (h : popCount e = 2) :
    passedOn w e = asRead w e := by
  rw [passedOn, classOfWord_uncorrectable w h]

theorem blockStatusOf_corrected (classes : List WordClass) :
    blockStatusOf classes = .corrected ↔ .uncorrectable ∉ classes ∧ .corrected ∈ classes := by
  unfold blockStatusOf
  simp only [List.contains_iff_mem]
  split_ifs with hpoison hcorrected
  · exact iff_of_false (by simp) fun h => h.1 hpoison
  · exact iff_of_true rfl ⟨hpoison, hcorrected⟩
  · exact iff_of_false (by simp) fun h => hcorrected h.2

/-! ## The counter of corrected words (08 R141) -/

theorem countCorrected_below {s : State}
    (h : s.chan.correctedCount + 1 < s.settings.profile.corrThreshold) :
    countCorrected s = { s with chan := { s.chan with correctedCount := s.chan.correctedCount + 1 } } :=
  if_neg (Nat.not_le.mpr h)

theorem countCorrected_at {s : State}
    (h : s.settings.profile.corrThreshold ≤ s.chan.correctedCount + 1) :
    countCorrected s = raiseAlert { s with chan := { s.chan with correctedCount := 0 } } .corrected
      none none none (some s.settings.profile.corrThreshold) :=
  if_pos h

theorem takeWords_corrected (x : Link) (a : Nat) (cause : Cause) (s : State) (p : Bool)
    (rest : List WordClass) : takeWords x a cause s p (.corrected :: rest) =
      takeWords x a cause (countCorrected s) p rest := rfl

/-! ## Alerts (09 R159, R160) -/

section
variable {s : State} (k : AlertKind) (x : Option Link) (a : Option Nat) (c : Option Cause) (v : Option Nat)

theorem raiseAlert_room (h : s.mgmt.alerts.length < 16) :
    raiseAlert s k x a c v = { s with mgmt := { s.mgmt with
      alerts := s.mgmt.alerts ++ [⟨k, x, a, c, v, s.mgmt.clock, s.mgmt.dropped, s.event⟩]
      dropped := 0 } } := if_pos h

theorem raiseAlert_full (h : 16 ≤ s.mgmt.alerts.length) :
    raiseAlert s k x a c v = { s with mgmt := { s.mgmt with dropped := min 255 (s.mgmt.dropped + 1) } } :=
  if_neg (Nat.not_lt.mpr h)

end

/-- Settles O25: the classes of words and blocks, the counter below and at the threshold, and alerts with and
without room. -/
theorem checkCodesAndAlerts : Obligations.CheckCodesAndAlerts := by
  refine ⟨⟨fun w e => ⟨fun h => ?_, fun h => ?_, fun h => ?_⟩, fun classes => ?_⟩,
    fun x a cause s p rest => ⟨rfl, rfl, fun h => ?_, fun h => ?_, rfl, rfl⟩,
    fun s k x a c v => ⟨raiseAlert_room k x a c v, raiseAlert_full k x a c v⟩⟩
  · exact ⟨classOfWord_clean w h, passedOn_clean w h⟩
  · exact ⟨classOfWord_corrected w h, passedOn_corrected w h⟩
  · exact ⟨classOfWord_uncorrectable w h, fun i hi => by
      rw [passedOn_uncorrectable w h, getLsbD_asRead w e hi]⟩
  · exact ⟨blockStatusOf_poison classes, blockStatusOf_corrected classes⟩
  · rw [takeWords_corrected, countCorrected_below h]
  · rw [takeWords_corrected, countCorrected_at h]

end Sys2Proof.Machine
end


section
/-! PROOFS. The translation of a request (02 R27 to R33), the installed capacity (08 R136) and the location of a
block (03 R47; O19). -/

namespace Sys2Proof.Machine

/-! ## The window of an address (02 R27, R28) -/

theorem servesLink_iff {w : Window} {x : Link} : servesLink w x = true ↔
    w.links = .both ∨ (w.links = .a ∧ x = .a) ∨ (w.links = .b ∧ x = .b) := by
  unfold servesLink
  cases w.links <;> cases x <;> decide

theorem coversLink_iff {w : Window} {n : Nat} : coversLink w n = true ↔
    w.linkBase.toNat ≤ n ∧ n < w.linkBase.toNat + 65536 * 2 ^ w.sizeCode := by
  rw [coversLink, Bool.and_eq_true, decide_eq_true_eq, decide_eq_true_eq, windowSize]

/-- What the window lookup tests is that the window translates the address. -/
theorem windowTakes_iff {w : Window} {x : Link} {a : LinkAddr} :
    (w.valid && servesLink w x && coversLink w a.toNat) = true ↔ windowTakes w x a := by
  simp only [windowTakes, Bool.and_eq_true, servesLink_iff, coversLink_iff, and_assoc]

theorem lookupPhys_none {t : TableSet} {x : Link} {a : LinkAddr}
    (h : ∀ w ∈ t.windows, ¬ windowTakes w x a) : lookupPhys t x a.toNat = none := by
  have hnone : lookupWindow t x a.toNat = none :=
    List.find?_eq_none.mpr fun w hw => mt windowTakes_iff.mp (h w hw)
  simp [lookupPhys, hnone]

/-- The lowest window that translates an address gives its physical address. -/
theorem lookupPhys_lowest {t : TableSet} {x : Link} {a : LinkAddr} {k : Nat} {w : Window}
    (hk : t.windows[k]? = some w) (hw : windowTakes w x a)
    (hlow : ∀ j < k, ∀ v : Window, t.windows[j]? = some v → ¬ windowTakes v x a) :
    lookupPhys t x a.toNat = some (w.physBase.toNat + (a.toNat - w.linkBase.toNat)) := by
  have hfound : lookupWindow t x a.toNat = some w :=
    find?_some_iff.mpr ⟨k, hk, windowTakes_iff.mpr hw,
      fun j hj v hv => mt windowTakes_iff.mp (hlow j hj v hv)⟩
  simp [lookupPhys, hfound]

/-! ## The rights of an address (02 R31, R32) -/

/-- The rights that govern an address are those the Translation Unit reads. -/
theorem eq_regionOf {t : TableSet} {p : Nat} {r : Rights} (h : rightsGoverning t p r) : r = regionOf t p := by
  unfold regionOf
  rcases h with ⟨k, q, hk, hq, hlow, rfl⟩ | ⟨hnone, rfl⟩
  · have hfound : (t.regions.find? fun q => containsPhys q p) = some q :=
      find?_some_iff.mpr ⟨k, hk, containsPhys_iff.mpr hq,
        fun j hj u hu => mt containsPhys_iff.mp (hlow j hj u hu)⟩
    rw [hfound]
  · have hmiss : (t.regions.find? fun q => containsPhys q p) = none :=
      List.find?_eq_none.mpr fun q hq => mt containsPhys_iff.mp (hnone q hq)
    rw [hmiss]

/-- The answer of the access check, for a physical address that passes the range check. -/
def checked (r : Rights) (x : Link) (kind : ReqKind) (p : Nat) : Except MemStatus Nat :=
  match accessCheck r x kind with
  | some refusal => .error refusal
  | none => .ok p

/-- The access check by the kind of the request and the right of its link (02 R32). -/
theorem checked_eq (r : Rights) (x : Link) (kind : ReqKind) (p : Nat) :
    checked r x kind p = match kind with
      | .read => if accessOf r x = .none then .error .denied else .ok p
      | .write | .lockWrite => if accessOf r x = .readWrite then .ok p else .error .denied
      | .lockRead =>
        if accessOf r x = .readWrite then (if r.lockable then .ok p else .error .lockRefused)
        else .error .denied
      | .lockDrop | .fence => .ok p := by
  unfold checked
  cases kind <;> cases h : accessOf r x <;> simp [accessCheck, h]
  cases r.lockable <;> rfl

/-! ## Translation (02 R28, R29, R32) -/

section
variable {s : State} {t : Txn} {a : LinkAddr}

theorem translate_unmapped (ha : t.addr = some a)
    (h : lookupPhys s.xlate.active t.link a.toNat = none) : Machine.translate s t = .error .unmapped := by
  simp [Machine.translate, ha, h]

/-- A request with a physical address passes the range check and then the access check. -/
theorem translate_mapped {p : Nat} (ha : t.addr = some a)
    (h : lookupPhys s.xlate.active t.link a.toNat = some p) : Machine.translate s t =
      if capacity s.settings.geometry ≤ p + 32 * t.count.getD 0 - 1 then .error .range
      else checked (regionOf s.xlate.active p) t.link t.kind p := by
  simp only [Machine.translate, ha, h, spanCount, checked] <;> rfl

theorem translate_range {p : Nat} (ha : t.addr = some a)
    (h : lookupPhys s.xlate.active t.link a.toNat = some p)
    (hp : capacity s.settings.geometry < p + 32 * t.count.getD 0) :
    Machine.translate s t = .error .range :=
  (translate_mapped ha h).trans (if_pos (by omega))

theorem translate_checked {p : Nat} (ha : t.addr = some a)
    (h : lookupPhys s.xlate.active t.link a.toNat = some p) (hc : 1 ≤ t.count.getD 0)
    (hp : p + 32 * t.count.getD 0 ≤ capacity s.settings.geometry) :
    Machine.translate s t = checked (regionOf s.xlate.active p) t.link t.kind p :=
  (translate_mapped ha h).trans (if_neg (by omega))

end

/-! ## The location of a block (03 R47) -/

theorem locate_rowMajor {g : Geometry} (h : g.interleave = .rowMajor) (p : Nat) : locate g p =
    ⟨p / 32 / (64 * g.banks * g.rows), p / 32 / 64 % g.banks, p / 32 / (64 * g.banks) % g.rows,
      p / 32 % 64⟩ := by
  simp [locate, h]

theorem locate_spanRotate {g : Geometry} (h : g.interleave = .spanRotate) (p : Nat) : locate g p =
    ⟨p / 32 / (64 * g.banks * g.rows), p / 32 / 8 % g.banks, p / 32 / (64 * g.banks) % g.rows,
      p / 32 % 8 + 8 * (p / 32 / (8 * g.banks) % 8)⟩ := by
  simp [locate, h]

/-- Rank and row are the rank and the row under either interleave. -/
theorem locate_rank_row (g : Geometry) (p : Nat) :
    (locate g p).rank = p / 32 / (64 * g.banks * g.rows) ∧
    (locate g p).row = p / 32 / (64 * g.banks) % g.rows := by
  cases h : g.interleave
  · rw [locate_rowMajor h]; exact ⟨rfl, rfl⟩
  · rw [locate_spanRotate h]; exact ⟨rfl, rfl⟩

theorem locate_bank_lt {g : Geometry} (hb : 0 < g.banks) (p : Nat) : (locate g p).bank < g.banks := by
  cases h : g.interleave
  · rw [locate_rowMajor h]; exact Nat.mod_lt _ hb
  · rw [locate_spanRotate h]; exact Nat.mod_lt _ hb

theorem locate_column_lt (g : Geometry) (p : Nat) : (locate g p).column < 64 := by
  cases h : g.interleave
  · rw [locate_rowMajor h]; exact Nat.mod_lt _ (by decide)
  · rw [locate_spanRotate h]; dsimp only; omega

theorem locate_rank_lt {g : Geometry} {p : Nat} (h : p < capacity g) : (locate g p).rank < g.ranks := by
  rw [(locate_rank_row g p).1]
  have hpos : p / 32 < g.ranks * (64 * g.banks * g.rows) := by
    rw [Nat.div_lt_iff_lt_mul (by decide)]
    calc p < g.ranks * g.banks * g.rows * 2048 := h
      _ = g.ranks * (64 * g.banks * g.rows) * 32 := by ring
  exact Nat.div_lt_of_lt_mul (by rwa [Nat.mul_comm] at hpos)

/-- The number of a row among all rows of one bank number is known from its rank and row. -/
theorem rowNumber_eq (g : Geometry) (p : Nat) :
    p / 32 / (64 * g.banks) = g.rows * (locate g p).rank + (locate g p).row := by
  obtain ⟨hrank, hrow⟩ := locate_rank_row g p
  rw [hrank, hrow, ← Nat.div_div_eq_div_mul _ (64 * g.banks), Nat.div_add_mod]

/-- The number of a block is known from its location. -/
theorem block_eq_of_locate {g : Geometry} {p q : Nat} (hb : g.banks = 4 ∨ g.banks = 8)
    (h : locate g p = locate g q) : p / 32 = q / 32 := by
  have hrow : p / 32 / (64 * g.banks) = q / 32 / (64 * g.banks) := by
    rw [rowNumber_eq, rowNumber_eq, h]
  cases hi : g.interleave
  · rw [locate_rowMajor hi, locate_rowMajor hi] at h
    obtain ⟨-, hbank, -, hcol⟩ := Location.mk.inj h
    rcases hb with hb | hb <;> rw [hb] at hrow hbank <;> omega
  · rw [locate_spanRotate hi, locate_spanRotate hi] at h
    obtain ⟨-, hbank, -, hcol⟩ := Location.mk.inj h
    rcases hb with hb | hb <;> rw [hb] at hrow hbank hcol <;> omega

/-- Blocks with the same number above the column bits share rank, bank and row. -/
theorem locate_unit {g : Geometry} {p k : Nat} (h : p / 256 = (p + 32 * k) / 256) :
    locate g (p + 32 * k) = { locate g p with column := (locate g p).column + k } := by
  have hblock : (p + 32 * k) / 32 = p / 32 + k := by omega
  have hunit : (p / 32 + k) / 8 = p / 32 / 8 := by omega
  have habove : ∀ n, (p / 32 + k) / (8 * n) = p / 32 / (8 * n) := fun n => by
    rw [← Nat.div_div_eq_div_mul, ← Nat.div_div_eq_div_mul, hunit]
  have hrank := habove (8 * g.banks * g.rows)
  have hrow := habove (8 * g.banks)
  have hspan := habove g.banks
  have hrow64 := habove 8
  simp only [← Nat.mul_assoc, Nat.reduceMul] at hrank hrow hrow64
  cases hi : g.interleave
  · rw [locate_rowMajor hi, locate_rowMajor hi, hblock, hrank, hrow, hrow64]
    have hcol : (p / 32 + k) % 64 = p / 32 % 64 + k := by omega
    rw [hcol]
  · rw [locate_spanRotate hi, locate_spanRotate hi, hblock, hrank, hrow, hunit, hspan]
    have hcol : (p / 32 + k) % 8 = p / 32 % 8 + k := by omega
    rw [hcol, Nat.add_right_comm]

/-- Settles O19: the lookups by lowest index, the checks in their order, and the location by digits. -/
theorem translationAndLocation : Obligations.TranslationAndLocation := by
  refine ⟨fun s t a ha hc => ⟨fun h => translate_unmapped ha (lookupPhys_none h), ?_⟩, fun g => rfl,
    fun g hb hr => ⟨
      fun p hp => ⟨locate_rank_lt hp, locate_bank_lt (by omega) p, ?_, locate_column_lt g p⟩,
      fun p q _ _ => block_eq_of_locate hb, fun p k => locate_unit, locate_rowMajor, locate_spanRotate⟩⟩
  · intro k w hk hw hlow p hp
    have hphys := lookupPhys_lowest hk hw hlow
    rw [← hp] at hphys
    refine ⟨fun hcap => translate_range ha hphys hcap, fun hcap r hgov => ?_⟩
    obtain rfl := eq_regionOf hgov
    exact (translate_checked ha hphys hc hcap).trans (checked_eq _ _ _ _)
  · rw [(locate_rank_row g p).2]
    exact Nat.mod_lt _ hr

end Sys2Proof.Machine
end


section
/-! PROOFS. The long operations of the channel: their taking, their end, and the contents a start gives up
(08 R130 to R135; 09 R149, R150, R154; O43). -/

namespace Sys2Proof.Machine

/-! ## The three packets from the holder of the claim (08 R131, R133, R135; 09 R150) -/

section
variable {s : State} {x : Link}

/-- CHANNEL-START: its refusals in their order, or the start sequence begins (08 R131). -/
theorem channelStartEffect_accepted (hc : s.mgmt.claim = some x) :
    channelStartEffect x (accepted s x) =
      if s.chan.state ≠ .init then (accepted s x, some .wrongState, .none)
      else if s.mgmt.longOp ≠ none then (accepted s x, some .busy, .none)
      else if s.settings.profile.minOpen < s.settings.profile.actTime + s.settings.profile.readLatency then
        (accepted s x, some .badValue, .none)
      else ({ accepted s x with
        mgmt := { s.mgmt with longOp := some (.start, x) }
        dram := forgetRanks s.dram s.settings.geometry.ranks
        chan := { s.chan with
          state := .starting, sleeping := [], clockOn := true
          startTimer := .running (4 * s.settings.profile.startWait), startPhase := .waiting } },
        none, .none) := by
  rw [channelStartEffect, withClaim_holder (by rwa [claim_accepted])]
  simp [refusal, begun, beginStart, beginLong, profileRuns, loaded, usUnits, Option.isSome_iff_ne_none]

/-- CHANNEL-QUIESCE: its refusals in their order, or the quiesce begins (08 R133). -/
theorem channelQuiesceEffect_accepted (hc : s.mgmt.claim = some x) :
    channelQuiesceEffect x (accepted s x) =
      if s.chan.state ≠ .run then (accepted s x, some .wrongState, .none)
      else if s.mgmt.longOp ≠ none then (accepted s x, some .busy, .none)
      else ({ accepted s x with
        mgmt := { s.mgmt with longOp := some (.quiesce, x) }
        chan := { s.chan with state := .quiescing, lastRun := some s.settings.geometry } },
        none, .none) := by
  rw [channelQuiesceEffect, withClaim_holder (by rwa [claim_accepted])]
  simp [refusal, begun, beginLong, Option.isSome_iff_ne_none]

/-- The resume sequence begins: the ranks wake and the debt is 0 (08 R135; 07 R128). -/
theorem beginResume_accepted (s : State) (x : Link) : beginResume (accepted s x) x = { accepted s x with
    mgmt := { s.mgmt with longOp := some (.resume, x) }
    channelOut := (List.range s.settings.geometry.ranks).map DramCommand.srExit
    refresh := { s.refresh with
      debt := 0, cueSeen := false, timer := .running (refreshPeriod s) }
    chan := { s.chan with
      state := .resuming
      sleeping := s.chan.sleeping.filter fun r => !(List.range s.settings.geometry.ranks).contains r
      resumeTimer := .running ((4 * s.settings.profile.startWait + 9) / 10)
      resumePhase := .waiting } } := by
  simp [beginResume, beginLong, installedRanks, sendDram, loadRefreshTimer, withRefresh, refreshPeriod,
    resumeWait, loaded, usUnits]

theorem profileRuns_and_ranksSleep_iff (s : State) : (profileRuns s && ranksSleep s) = true ↔
    ¬ (s.settings.profile.minOpen < s.settings.profile.actTime + s.settings.profile.readLatency ∨
      ∃ r ∈ List.range s.settings.geometry.ranks, r ∉ s.chan.sleeping) := by
  simp [profileRuns, ranksSleep, installedRanks]

/-- CHANNEL-RESUME: its refusals in their order, or the resume sequence begins (08 R135). -/
theorem channelResumeEffect_accepted (hc : s.mgmt.claim = some x) :
    channelResumeEffect x (accepted s x) =
      if s.chan.state ≠ .quiesced then (accepted s x, some .wrongState, .none)
      else if s.mgmt.longOp ≠ none then (accepted s x, some .busy, .none)
      else if s.settings.profile.minOpen < s.settings.profile.actTime + s.settings.profile.readLatency ∨
          ∃ r ∈ List.range s.settings.geometry.ranks, r ∉ s.chan.sleeping then
        (accepted s x, some .badValue, .none)
      else (beginResume (accepted s x) x, none, .none) := by
  rw [channelResumeEffect, withClaim_holder (by rwa [claim_accepted])]
  simp only [refusal, begun, Bool.not_eq_true', ← Bool.not_eq_true, profileRuns_and_ranksSleep_iff, not_not]
  simp [Option.isSome_iff_ne_none]

end

/-! ## The end of a long operation (09 R149, R154) -/

theorem endLong_of {s : State} {k : LongKind} {x : Link} (hl : s.mgmt.longOp = some (k, x))
    (st : MgmtStatus) (v : ReplyValue) : endLong s k st v = { s with mgmt := { s.mgmt with
      longOp := none
      replies := s.mgmt.replies.set x
        (decideEntry (kindOfLong k) st v s.event (s.mgmt.replies.get x)) } } := by
  simp [endLong, hl]

theorem endLong_other {s : State} {k : LongKind} (hl : ∀ x, s.mgmt.longOp ≠ some (k, x))
    (st : MgmtStatus) (v : ReplyValue) : endLong s k st v = s := by
  unfold endLong
  split
  · rfl
  · rename_i k' x hlong
    exact if_neg fun hk : k' = k => hl x (hk ▸ hlong)

/-! ## The contents a start gives up (08 R131) -/

/-- A list filtered by its keys holds what it held at a key that passes, and nothing at another. -/
theorem sparseGet_filter {α : Type} (p : Nat → Bool) (l : List (Nat × α)) (key : Nat) :
    sparseGet (l.filter fun e => p e.1) key = if p key then sparseGet l key else none := by
  induction l with
  | nil => simp [sparseGet]
  | cons e l ih =>
    obtain ⟨k, v⟩ := e
    by_cases hk : key = k
    · subst hk
      cases hp : p key
      · rw [hp] at ih
        simpa [hp] using ih
      · simp [hp, sparseGet]
    · have hrest : sparseGet ((k, v) :: l) key = sparseGet l key := if_neg hk
      rw [hrest, ← ih, List.filter_cons]
      split
      · exact if_neg hk
      · rfl

/-- A key that is listed has a value. -/
theorem sparseGet_of_mem {α : Type} {l : List (Nat × α)} {key : Nat} (h : ∃ v, (key, v) ∈ l) :
    ∃ v, sparseGet l key = some v := by
  obtain ⟨v, hv⟩ := h
  induction l with
  | nil => cases hv
  | cons e l ih =>
    obtain ⟨k, w⟩ := e
    by_cases hk : key = k
    · exact ⟨w, if_pos hk⟩
    · have hrest : sparseGet ((k, w) :: l) key = sparseGet l key := if_neg hk
      rw [hrest]
      rcases List.mem_cons.mp hv with he | hm
      · exact absurd (Prod.mk.inj he).1 hk
      · exact ih hm

theorem readCell_forgetRanks_installed (d : Dram) {ranks cell : Nat} (h : rankOfCell cell < ranks) :
    readCell (forgetRanks d ranks) cell = Config.unwrittenByte (d.generation + 1) cell := by
  simp [readCell, forgetRanks, sparseGet_filter fun c => decide (ranks ≤ rankOfCell c), Nat.not_le.mpr h]

theorem readCell_forgetRanks_other (d : Dram) {ranks cell : Nat} (h : ranks ≤ rankOfCell cell)
    (hw : ∃ b, (cell, b) ∈ d.cells) : readCell (forgetRanks d ranks) cell = readCell d cell := by
  obtain ⟨b, hb⟩ := sparseGet_of_mem hw
  simp [readCell, forgetRanks, sparseGet_filter fun c => decide (ranks ≤ rankOfCell c), h, hb]

theorem errorOf_forgetRanks (d : Dram) (ranks word : Nat) : errorOf (forgetRanks d ranks) word =
    if ranks ≤ rankOfCell (8 * word) then errorOf d word else 0 := by
  simp only [errorOf, forgetRanks, sparseGet_filter fun w => decide (ranks ≤ rankOfCell (8 * w)),
    decide_eq_true_eq]
  split <;> rfl

theorem rankOfCell_blockCell {l : Location} {k j : Nat} (hbank : l.bank < 8) (hrow : l.row < 32768)
    (hcol : l.column + k < 64) (hj : j < 32) : rankOfCell (blockCell l k + j) = l.rank := by
  unfold rankOfCell blockCell cellOf
  omega

/-- The contents given up, cell by cell and word by word. -/
theorem forgetRanks_spec (d : Dram) (ranks cell : Nat) :
    (rankOfCell cell < ranks → readCell (forgetRanks d ranks) cell =
      Config.unwrittenByte (d.generation + 1) cell) ∧
    (ranks ≤ rankOfCell cell → (∃ b, (cell, b) ∈ d.cells) →
      readCell (forgetRanks d ranks) cell = readCell d cell) ∧
    (rankOfCell (8 * cell) < ranks → errorOf (forgetRanks d ranks) cell = 0) ∧
    (ranks ≤ rankOfCell (8 * cell) → errorOf (forgetRanks d ranks) cell = errorOf d cell) :=
  ⟨readCell_forgetRanks_installed d, readCell_forgetRanks_other d,
    fun h => (errorOf_forgetRanks ..).trans (if_neg (Nat.not_le.mpr h)),
    fun h => (errorOf_forgetRanks ..).trans (if_pos h)⟩

/-- Settles O43: the three packets by their refusals in order, the decided entry of the operation that ends, and
the contents given up, by the rank of each cell. -/
theorem longOperations : Obligations.LongOperations := by
  refine ⟨fun s x seq h => ⟨fun hc => ?_, fun hc => ⟨fun hst => ?_, fun hst => ?_, fun hst => ?_, fun hl => ?_,
    fun hl => ⟨fun hst hp => ?_, fun hst hp => ?_, fun hst => ?_, fun hst hp => ?_, fun hst hp hr => ?_⟩⟩⟩,
    fun s k st v => ⟨fun x hl => ⟨fun before e after hlist hb he hs => ?_, fun hnone => ?_⟩,
      fun hl => endLong_other hl st v⟩,
    ⟨rfl, rfl, rfl, rfl, rfl⟩, fun d ranks cell => ?_⟩
  · have hother : (accepted s x).mgmt.claim ≠ some x := by rwa [claim_accepted]
    exact ⟨answers_mgmt rfl h (withClaim_other hother _), answers_mgmt rfl h (withClaim_other hother _),
      answers_mgmt rfl h (withClaim_other hother _)⟩
  · exact answers_mgmt rfl h (by rw [channelStartEffect_accepted hc, if_pos hst])
  · exact answers_mgmt rfl h (by rw [channelQuiesceEffect_accepted hc, if_pos hst])
  · exact answers_mgmt rfl h (by rw [channelResumeEffect_accepted hc, if_pos hst])
  · exact ⟨fun hst => answers_mgmt rfl h (by simp [channelStartEffect_accepted hc, hst, hl]),
      fun hst => answers_mgmt rfl h (by simp [channelQuiesceEffect_accepted hc, hst, hl]),
      fun hst => answers_mgmt rfl h (by simp [channelResumeEffect_accepted hc, hst, hl])⟩
  · exact answers_mgmt rfl h (by simp [channelStartEffect_accepted hc, hst, hl, hp])
  · exact answers_mgmt rfl h (by simp [channelStartEffect_accepted hc, hst, hl, Nat.not_lt.mpr hp])
  · exact answers_mgmt rfl h (by simp [channelQuiesceEffect_accepted hc, hst, hl])
  · have hbad := channelResumeEffect_accepted hc
    rw [if_neg (not_not.mpr hst), if_neg (not_not.mpr hl), if_pos hp] at hbad
    exact answers_mgmt rfl h hbad
  · have hgood := channelResumeEffect_accepted hc
    rw [if_neg (not_not.mpr hst), if_neg (not_not.mpr hl), if_neg (by
      rintro (hlt | ⟨r, hmem, hawake⟩)
      · exact Nat.not_lt.mpr hp hlt
      · exact hawake (hr r hmem)), beginResume_accepted] at hgood
    exact answers_mgmt rfl h hgood
  · rw [endLong_of hl, hlist, decideEntry_split st v s.event hb he hs]
  · rw [endLong_of hl, decideEntry_none st v s.event hnone, PerLink.set_get]
  · obtain ⟨hread, hother, herror, hstands⟩ := forgetRanks_spec d ranks cell
    exact ⟨hread, hother, herror, hstands, fun l k j => rankOfCell_blockCell⟩

end Sys2Proof.Machine
end


section
/-! PROOFS. Every step keeps the ranges of the settings (09 R155) and the sums of the credit limits (09 R157). -/

namespace Sys2Proof.Machine

/-! ## The settings from one state to the next -/

theorem settingsLaw_of {s u : State} (h : u.settings = s.settings) (hs : settingsLaw s) : settingsLaw u := by
  intro f hf
  rw [readField_congr h hf]
  exact hs f hf

/-- Of the changes a management packet makes only the write of a field touches the settings. -/
theorem MgmtChange.settings {x : Link} {s u : State} (h : MgmtChange x s u) :
    u.settings = s.settings ∨ ∃ f v, valueOk s f v = true ∧
      u.settings = (storeField s f v).settings := by
  cases h
  case writes f v _ _ hv => exact .inr ⟨f, v, hv, settings_writeField s f v⟩
  case resets v hv => rcases hv with rfl | rfl <;> simp
  all_goals simp

/-- Outside management packets and the cold reset no command touches the settings. -/
theorem settings_effectOf (c : Instr) (s : State) (hm : mgmtOf c = none) (hc : c ≠ .coldReset) :
    (effectOf c s).settings = s.settings := by
  cases c
  case coldReset => exact absurd rfl hc
  case mgmtRead | mgmtWrite | writeTenureMode | writeRefreshMode | writeForceLevel | writeCueLink |
      writeFilterEnable | writeCreditLimit | writeAlertLink | writeLease | writeCorrThreshold |
      writeOpenLimit | tableRead | tableWrite | tableRevert | tableCommit | claim | release |
      channelStart | channelQuiesce | channelResume | hubReset => cases hm
  case train => simp only [effectOf]; split <;> simp
  all_goals simp [effectOf]

theorem fieldRange_of_valueOk {s : State} {f : Field} {v : Nat} (h : valueOk s f v = true) :
    (fieldRange f).1 ≤ v ∧ v ≤ (fieldRange f).2 := by
  simp only [valueOk, Bool.and_eq_true, decide_eq_true_eq] at h
  exact h.1

theorem settingsLaw_storeField {s : State} {f : Field} {v : Nat} (h : valueOk s f v = true)
    (hs : settingsLaw s) : settingsLaw (storeField s f v) := by
  intro g hg
  by_cases hgf : g = f
  · subst hgf
    rw [readField_storeField h]
    exact fieldRange_of_valueOk h
  · rw [readField_storeField_ne v hg hgf]
    exact hs g hg

/-! ## The sums of the credit limits (09 R157) -/

theorem creditLaw_of {s u : State} (h : u.settings.creditLimit = s.settings.creditLimit)
    (hl : limitsStand s u) (hs : creditLaw s) : creditLaw u := by
  have ha : (linkOf u .a).currentLimit = (linkOf s .a).currentLimit := hl .a
  have hb : (linkOf u .b).currentLimit = (linkOf s .b).currentLimit := hl .b
  unfold creditLaw
  rw [h, ha, hb]
  exact hs

/-- A write of a CREDIT_LIMIT is checked against both sums it enters. -/
theorem creditLaw_storeField {s : State} {f : Field} {v : Nat} (h : valueOk s f v = true)
    (hs : creditLaw s) : creditLaw (storeField s f v) := by
  cases f
  case creditLimit x =>
    obtain ⟨-, -, hcurrent, hpending⟩ := (valueOk_cases s (.creditLimit x) v).mp h
    obtain ⟨h1, h2, h3, h4⟩ := hs
    cases x with
    | a => exact ⟨h1, h2, hcurrent, hpending⟩
    | b =>
      refine ⟨h1, ?_, h3, ?_⟩
      · rw [Nat.add_comm]
        exact hcurrent
      · rw [Nat.add_comm]
        exact hpending
  all_goals exact creditLaw_of (s := s) rfl (fun _ => rfl) hs

theorem creditLaw_reset : creditLaw State.reset := by
  unfold creditLaw
  decide

/-- At the first TRAIN the current limit takes the pending one, whose sums are bounded too. -/
theorem creditLaw_sendFirst {s : State} (x : Link) (hs : creditLaw s) : creditLaw (sendFirst x s) := by
  obtain ⟨h1, h2, h3, h4⟩ := hs
  cases x with
  | a => exact ⟨h3, h4, h3, h4⟩
  | b => exact ⟨h2, h2, h4, h4⟩

/-! ## A law of the settings and the limits kept by every step -/

section
variable {I : State → Prop}
  (hstands : ∀ {u w : State}, w.settings = u.settings → limitsStand u w → I u → I w)
  (hstore : ∀ {u : State} {f : Field} {v : Nat}, valueOk u f v = true → I u → I (storeField u f v))
include hstands hstore

theorem limits_change {x : Link} {s u : State} (h : MgmtChange x s u) (hs : I s) : I u := by
  have hlimits : limitsStand s u := limitsStand_of_links h.table.2
  rcases h.settings with hset | ⟨f, v, hv, hset⟩
  · exact hstands hset hlimits hs
  · exact hstands (u := storeField s f v) hset hlimits (hstore hv hs)

theorem limits_effectOf (hreset : I State.reset) (hfirst : ∀ (u : State) (x : Link), I u → I (sendFirst x u))
    (c : Instr) (s : State) (hs : I s) : I (effectOf c s) := by
  have hlinks : ∀ {u w : State}, w.settings = u.settings → w.links = u.links → I u → I w :=
    fun hset hl => hstands hset (limitsStand_of_links hl)
  cases hm : mgmtOf c with
  | some m =>
    exact mgmt_keeps (x := m.1) (seq := m.2.1) (k := m.2.2) hm hs
      (fun u => hstands (by simp) (modestly_discardPacket u m.1).limitsStand)
      (fun u => hlinks (by simp) (by simp)) (fun u => hlinks (by simp) (by simp)) (fun u => hlinks rfl rfl)
      (fun u _ _ _ => hlinks rfl rfl) (fun u hu => by
        obtain ⟨-, -, hreplies⟩ := hu.mgmt
        rw [hreplies])
      fun u hu => limits_change hstands hstore hu hs
  | none =>
    by_cases hc : c = .coldReset
    · subst hc
      exact hlinks (u := State.reset) rfl rfl hreset
    by_cases ht : ∃ x, c = .sendFirstTrain x
    · obtain ⟨x, rfl⟩ := ht
      exact hfirst s x hs
    · exact hstands (settings_effectOf c s hm hc)
        (limitsStand_effectOf c s hc fun x e => ht ⟨x, e⟩) hs

theorem limits_step (hreset : I State.reset) (hfirst : ∀ (u : State) (x : Link), I u → I (sendFirst x u))
    {s t : State} (h : step s = .next t) (hs : I s) : I t :=
  step_keeps h hs (fun u => hstands rfl (modestly_tick u).limitsStand)
    (fun _ _ => hstands rfl fun _ => rfl) (fun _ => hstands rfl fun _ => rfl)
    (fun u x => hstands (by simp) (currentLimit_accepted u x))
    (fun u x => hstands (by simp) (limitsStand_enterRetry u x))
    (limits_effectOf hstands hstore hreset hfirst)

end

/-- Settles O57: a write is checked against the range of its field and the sums it enters, and only the first
TRAIN, besides, changes a limit. -/
theorem stepKeepsTheSettings : Obligations.StepKeepsTheSettings := by
  intro s t h
  refine ⟨fun hs => ?_, fun hs => ?_⟩
  · exact limits_step (fun hset _ => settingsLaw_of hset) settingsLaw_storeField settingsLaw_reset
      (fun u x => settingsLaw_of (by simp [sendFirst])) h hs
  · exact limits_step (fun hset hl => creditLaw_of (congrArg Settings.creditLimit hset) hl)
      creditLaw_storeField creditLaw_reset (fun _ x => creditLaw_sendFirst x) h hs

end Sys2Proof.Machine
end


section
/-! PROOFS. Management packets that are not taken (09 R148, R159, R162). -/

namespace Sys2Proof.Machine

/-- A command that brings a management packet which is accepted passes it to the Management Unit. -/
theorem exec_mgmt_accepts {c : Instr} {x : Link} {seq : Byte} {k : MgmtKind} {s : State}
    (h : mgmtOf c = some (x, seq, k)) (ha : accepts s x seq) :
    ∃ eff, exec c s = .next (arriveMgmt x k eff (accepted s x)) := by
  obtain ⟨eff, he⟩ := exec_mgmtOf h s
  exact ⟨eff, he.trans (congrArg Host.Outcome.next (receive_accepts ha _))⟩

theorem warmReset_accepted (s : State) (x : Link) : warmReset (accepted s x) = warmReset s := by
  simp [warmReset]

/-- A management credit owed to a link at the event `n`. -/
theorem owe_mgmt (n : Nat) (l : LinkCtl) : owe n 0 1 l = { l with
    owedMgmt := l.owedMgmt + 1
    owedSince := if l.owedRequests = 0 ∧ l.owedMgmt = 0 then n else l.owedSince } := by
  simp [owe]

/-! ## The packet at the Management Unit -/

section
variable {s : State} {x : Link} {k : MgmtKind} {eff : State → State × Decision}

theorem arriveMgmt_full (hw : warmReset s = false) (h : 2 ≤ (s.mgmt.replies.get x).length) :
    arriveMgmt x k eff s = raiseProtocol s x .mgmtOverrun := by
  simp [arriveMgmt, hw, replyRoom, h]

theorem arriveMgmt_warm (hw : warmReset s = true) : arriveMgmt x k eff s = discardPacket s x := if_pos hw

theorem discardPacket_overrun (h : 2 ≤ (s.mgmt.replies.get x).length + s.mgmt.discarded.get x) :
    discardPacket s x = raiseProtocol s x .mgmtOverrun := if_pos h

theorem discardPacket_room (h : (s.mgmt.replies.get x).length + s.mgmt.discarded.get x < 2) :
    discardPacket s x = { s with
      mgmt := { s.mgmt with discarded := s.mgmt.discarded.set x (s.mgmt.discarded.get x + 1) }
      links := s.links.set x { linkOf s x with
        owedMgmt := (linkOf s x).owedMgmt + 1
        owedSince := if (linkOf s x).owedRequests = 0 ∧ (linkOf s x).owedMgmt = 0 then s.event
          else (linkOf s x).owedSince } } := by
  rw [← owe_mgmt]
  exact if_neg (Nat.not_le.mpr h)

end

/-- Settles O36: the packet is accepted and then, by the reply list and the warm reset, an overrun or
discarded. -/
theorem managementPacketsNotTaken : Obligations.ManagementPacketsNotTaken := by
  intro c x seq kind s hm ha
  obtain ⟨eff, hexec⟩ := exec_mgmt_accepts hm ha
  have hmgmt : (accepted s x).mgmt = s.mgmt := by simp
  rw [hexec]
  refine ⟨fun hw hfull => ?_, fun hw hfull => ?_, fun hw hroom => ?_⟩
  · rw [arriveMgmt_full ((warmReset_accepted s x).trans hw) (by rwa [hmgmt])]
    rfl
  · rw [arriveMgmt_warm ((warmReset_accepted s x).trans hw), discardPacket_overrun (by rwa [hmgmt])]
    rfl
  · obtain ⟨hrequests, howed, hsince⟩ := accepted_owed s x
    have hevent : (accepted s x).event = s.event + 1 := by simp
    rw [← hevent, arriveMgmt_warm ((warmReset_accepted s x).trans hw), discardPacket_room (by rwa [hmgmt]),
      hmgmt, hrequests, howed, hsince]

end Sys2Proof.Machine
end


section
/-! PROOFS. The checks of MGMT-WRITE in their order (09 R150, R155, R158). -/

namespace Sys2Proof.Machine

theorem namedWrite_holder {s : State} {x : Link} (h : s.mgmt.claim = some x) (f : Field) (v : BitVec 32) :
    namedWrite x (some f) v s = writeChecked f v s := withClaim_holder h _

theorem readOnly_eq_false {f : Field} (h : ∀ g, f ≠ .status g) : readOnly f = false := by
  cases f
  case status g => exact absurd rfl (h g)
  all_goals rfl

theorem channelStopped_iff {s : State} :
    channelStopped s = true ↔ s.chan.state = .init ∨ s.chan.state = .quiesced := by
  simp [channelStopped]

theorem channelStopped_accepted (s : State) (x : Link) :
    channelStopped (accepted s x) = channelStopped s := by
  simp [channelStopped]

/-! ## The outcomes of the checks -/

section
variable {s : State} {f : Field} {v : BitVec 32}

theorem writeChecked_readOnly (h : readOnly f = true) :
    writeChecked f v s = (s, some .badIndex, .none) := if_pos h

theorem writeChecked_running (hf : readOnly f = false) (hs : stoppedOnly f = true)
    (hc : channelStopped s = false) : writeChecked f v s = (s, some .wrongState, .none) := by
  simp [writeChecked, refusal, hf, hs, hc]

theorem writeChecked_admitted (hf : readOnly f = false)
    (h : stoppedOnly f = false ∨ channelStopped s = true) : writeChecked f v s =
      if valueOk s f v.toNat then (writeField s f v.toNat, some .ok, .none)
      else (s, some .badValue, .none) := by
  rcases h with h | h <;> simp [writeChecked, refusal, okReply, hf, h]

end

theorem stoppedOnly_iff (f : Field) : stoppedOnly f = true ↔ f ∈ [Field.openLimit, .ranks, .banks, .rows,
    .interleave, .channelClock, .actTime, .preTime, .minOpen, .writeRecovery, .readLatency, .refreshTime,
    .rankGap, .startWait, .startRefreshes] := by
  cases f <;> simp [stoppedOnly]

/-- Settles O38: the effect of the named field is followed through its checks, one outcome at a time. -/
theorem writesAreChecked : Obligations.WritesAreChecked := by
  refine ⟨fun c x seq f v s hm hw ht => ?_, stoppedOnly_iff⟩
  have answered : ∀ {u st}, namedWrite x f v (accepted s x) = (u, some st, .none) →
      answers c s (replyListed u x .mgmtWrite (some st) .none) :=
    fun he => answers_mgmt (exec_writeNames hm hw s) ht he
  refine ⟨fun hc => answered (withClaim_other (by rwa [claim_accepted]) _), fun hc => ?_⟩
  have hclaim : (accepted s x).mgmt.claim = some x := (claim_accepted s x).trans hc
  refine ⟨?_, fun g hg hne => ?_⟩
  · rintro (rfl | ⟨g, rfl⟩)
    · exact answered (withClaim_holder hclaim _)
    · exact answered ((namedWrite_holder hclaim _ v).trans (writeChecked_readOnly rfl))
  · subst hg
    have hr := readOnly_eq_false hne
    refine ⟨fun hs hinit hquiesced => ?_, fun hadmit => ?_⟩
    · have hrun : channelStopped (accepted s x) = false := by
        rw [channelStopped_accepted, Bool.eq_false_iff, Ne, channelStopped_iff]
        exact not_or.mpr ⟨hinit, hquiesced⟩
      exact answered ((namedWrite_holder hclaim g v).trans (writeChecked_running hr hs hrun))
    · have hchecked := (namedWrite_holder hclaim g v).trans (writeChecked_admitted hr (by
        rwa [channelStopped_accepted, channelStopped_iff]))
      exact ⟨fun hv => answered (hchecked.trans (by rw [hv]; rfl)),
        fun hv => answered (hchecked.trans (if_pos hv))⟩

end Sys2Proof.Machine
end


section
/-! SUPPORT. What the Link Controller sends as the first thing of an event, and its acceptance of a packet with
all that it changes (10 R172 to R174). -/

namespace Sys2Proof.Machine

/-- Packets put on a wire as the first of an event are all that the wires carry. -/
theorem putOnWire_beginEvent (s : State) (x : Link) (ps : List WirePacket) :
    putOnWire (beginEvent s) x ps = carries s x ps := by
  cases x <;> rfl

theorem modLink_eq (s : State) (x : Link) (f : LinkCtl → LinkCtl) :
    modLink s x f = { s with links := s.links.set x (f (linkOf s x)) } := rfl

/-- Of two changes of a Link Controller the second finds what the first left. -/
theorem modLink_modLink (s : State) (x : Link) (f g : LinkCtl → LinkCtl) :
    modLink (modLink s x f) x g = modLink s x fun l => g (f l) := by
  simp only [modLink, PerLink.get_set, PerLink.set_set]

theorem putOnWire_modLink (s : State) (x y : Link) (f : LinkCtl → LinkCtl) (ps : List WirePacket) :
    putOnWire (modLink s x f) y ps = modLink (putOnWire s y ps) x f := rfl

theorem modLink_withLinks (u : State) (p : PerLink LinkCtl) (x : Link) (l : LinkCtl) (f : LinkCtl → LinkCtl) :
    modLink { u with links := p.set x l } x f = { u with links := p.set x (f l) } := by
  simp [modLink, PerLink.set_set]

/-- A change that leaves the Link Controller as it stands leaves the state. -/
theorem modLink_of_eq {s : State} {x : Link} {f : LinkCtl → LinkCtl} (h : f (linkOf s x) = linkOf s x) :
    modLink s x f = s := by
  rw [modLink_eq, h]
  exact congrArg (fun ls => { s with links := ls }) (PerLink.set_get s.links x)

/-- The entry into RETRY as the first thing of an event (10 R174). -/
theorem enterRetry_beginEvent (s : State) (x : Link) : enterRetry (beginEvent s) x =
    { carries s x [.retryReq (linkOf s x).expected (linkOf s x).nextSend] with
      links := s.links.set x { linkOf s x with
        state := .retry, retryCount := 1, retryTimer := .running 16, unacked := 0
        ackTimer := .stopped } } := by
  rw [← putOnWire_beginEvent]
  exact modLink_modLink _ x clearUnacked _

/-! ## Acceptance (10 R172, R173) -/

/-- A Link Controller UP again at the acceptance of a packet (10 R174). -/
def upAgain (l : LinkCtl) : LinkCtl :=
  { l with
    state := .up
    retryCount := if l.state = .retry then 0 else l.retryCount
    retryTimer := if l.state = .retry then .stopped else l.retryTimer }

theorem upAgain_of_up {l : LinkCtl} (h : l.state = .up) : upAgain l = l := by
  cases l
  simp_all [upAgain]

theorem upAgain_of_retry {l : LinkCtl} (h : l.state = .retry) : upAgain l = leaveRetry l := by
  simp [upAgain, leaveRetry, h]

/-- An accepted packet is counted at a link that is UP again. -/
theorem accepted_eq {s : State} {x : Link} (h : inService s x = true) :
    accepted s x = acceptPacket (modLink (beginEvent s) x upAgain) x := by
  simp only [inService, Bool.or_eq_true, decide_eq_true_eq] at h
  unfold accepted linkIs
  rcases h with h | h
  · rw [modLink_of_eq (s := beginEvent s) (upAgain_of_up h)]
    simp [h]
  · simp only [h, decide_true, if_true]
    rw [modLink_eq, modLink_eq, ← upAgain_of_retry (l := linkOf (beginEvent s) x) h]

/-- Up to the seventh acceptance without an acknowledgement, the first loads the ack timer. -/
theorem acceptPacket_counts {s : State} {x : Link} (h : (linkOf s x).unacked ≠ 7) :
    acceptPacket s x = modLink s x fun l => { l with
      expected := l.expected + 1
      unacked := l.unacked + 1
      ackTimer := if l.unacked = 0 then .running 8 else l.ackTimer } := by
  have hn : ¬ (linkOf s x).unacked + 1 = 8 := by omega
  unfold acceptPacket
  simp only [linkOf_modLink, if_neg hn, modLink_modLink]
  simp [modLink, linkOf, loaded, usUnits]

/-- The eighth acceptance is acknowledged at once. -/
theorem acceptPacket_acks {s : State} {x : Link} (h : (linkOf s x).unacked = 7) :
    acceptPacket s x = modLink (putOnWire s x [.linkAck (linkOf s x).expected (linkOf s x).nextSend]) x
      fun l => { l with expected := l.expected + 1, unacked := 0, ackTimer := .stopped } := by
  have hn : (linkOf s x).unacked + 1 = 8 := by omega
  have hseq : (linkOf s x).expected + 1 - 1 = (linkOf s x).expected := by bv_omega
  unfold acceptPacket
  simp only [linkOf_modLink, if_pos hn]
  unfold sendAck sendLevel ackPacket
  simp only [linkOf_modLink, hseq, putOnWire_modLink]
  exact modLink_modLink _ x _ clearUnacked

theorem accepted_counts {s : State} {x : Link} (hx : inService s x = true)
    (h : (linkOf s x).unacked ≠ 7) :
    accepted s x = { beginEvent s with links := s.links.set x { upAgain (linkOf s x) with
      expected := (linkOf s x).expected + 1
      unacked := (linkOf s x).unacked + 1
      ackTimer := if (linkOf s x).unacked = 0 then .running 8 else (linkOf s x).ackTimer } } := by
  rw [accepted_eq hx, acceptPacket_counts (by rw [linkOf_modLink]; exact h), modLink_modLink]
  rfl

theorem accepted_acks {s : State} {x : Link} (hx : inService s x = true) (h : (linkOf s x).unacked = 7) :
    accepted s x = { carries s x [.linkAck (linkOf s x).expected (linkOf s x).nextSend] with
      links := s.links.set x { upAgain (linkOf s x) with
        expected := (linkOf s x).expected + 1, unacked := 0, ackTimer := .stopped } } := by
  rw [accepted_eq hx, acceptPacket_acks (by rw [linkOf_modLink]; exact h), linkOf_modLink,
    ← putOnWire_beginEvent]
  exact modLink_modLink (putOnWire (beginEvent s) x _) x upAgain _

end Sys2Proof.Machine
end


section
/-! PROOFS. Sequenced, bad and unknown packets (09 R159; 10 R168, R172 to R174; O47). -/

namespace Sys2Proof.Machine

theorem inService_iff {s : State} {x : Link} :
    inService s x = true ↔ (linkOf s x).state = .up ∨ (linkOf s x).state = .retry := by
  simp [inService]

theorem expectedSeq_iff {s : State} {x : Link} {seq : Byte} :
    expectedSeq s x seq = true ↔ seq.toNat = (linkOf s x).expected.toNat := decide_eq_true_iff

/-! ## Sequenced packets -/

/-- A command that brings a sequenced packet has it judged by the Link Controller first. -/
theorem exec_sequencedOf {c : Instr} {x : Link} {seq : Byte} (h : sequencedOf c = some (x, seq))
    (s : State) : ∃ passOn, exec c s = .next (receive s x seq passOn) := by
  cases c
  case read | write | lockRead | lockWrite | lockDrop | fence | refreshCue | noticeAck | mgmtRead |
      mgmtWrite | writeTenureMode | writeRefreshMode | writeForceLevel | writeCueLink |
      writeFilterEnable | writeCreditLimit | writeAlertLink | writeLease | writeCorrThreshold |
      writeOpenLimit | tableRead | tableWrite | tableRevert | tableCommit | claim | release |
      channelStart | channelQuiesce | channelResume | hubReset =>
    obtain ⟨rfl, rfl⟩ := Prod.mk.inj (Option.some.inj h)
    exact ⟨_, rfl⟩
  case receiveUnknownPacket y n =>
    cases n with
    | none => cases h
    | some n =>
      obtain ⟨rfl, rfl⟩ := Prod.mk.inj (Option.some.inj h)
      exact ⟨_, rfl⟩
  all_goals cases h

section
variable {s : State} {x : Link} {seq : Byte} (f : State → State)

theorem receive_closed (h : (linkOf s x).state = .down ∨ (linkOf s x).state = .training) :
    receive s x seq f = s := by
  unfold receive
  rcases h with h | h <;> rw [h]

theorem receive_retry_other (h : (linkOf s x).state = .retry) (hseq : expectedSeq s x seq = false) :
    receive s x seq f = s := by
  simp [receive, h, hseq]

theorem receive_up_other (h : (linkOf s x).state = .up) (hseq : expectedSeq s x seq = false) :
    receive s x seq f = enterRetry (beginEvent s) x := by
  simp [receive, h, hseq]

end

/-! ## Bad and unknown packets -/

theorem exec_receiveBadPacket (x : Link) (why : BadPacket) (s : State) : exec (.receiveBadPacket x why) s =
    happens (linkIs s x .up && isBad s x why) s fun s => enterRetry s x := rfl

theorem exec_receiveBadPacket_up {s : State} {x : Link} {why : BadPacket} (h : (linkOf s x).state = .up)
    (hbad : isBad s x why = true) :
    exec (.receiveBadPacket x why) s = .next (enterRetry (beginEvent s) x) :=
  (exec_receiveBadPacket x why s).trans (happens_of (by simp [linkIs, h, hbad]) rfl)

theorem exec_receiveUnknownPacket_none (x : Link) (s : State) : exec (.receiveUnknownPacket x none) s =
    happens (inService s x) s fun s => raiseProtocol s x .unknownPacket := rfl

/-- Settles O47: a sequenced packet is judged by the link's state and the expected sequence, an accepted one is
counted, and the other packets by the condition of their event. -/
theorem sequencedPacketsAreJudged : Obligations.SequencedPacketsAreJudged := by
  have hother : ∀ {s : State} {x : Link} {seq : Byte}, seq.toNat ≠ (linkOf s x).expected.toNat →
      expectedSeq s x seq = false := fun h => Bool.eq_false_iff.mpr (mt expectedSeq_iff.mp h)
  refine ⟨fun c x seq s hc => ?_, fun s x => ?_⟩
  · obtain ⟨passOn, hexec⟩ := exec_sequencedOf hc s
    rw [hexec]
    refine ⟨fun h => ?_, fun h hseq => ?_, fun h hseq => ?_, fun ha => ⟨?_, ?_⟩⟩
    · rw [receive_closed passOn h]
    · rw [receive_retry_other passOn h (hother hseq)]
    · rw [receive_up_other passOn h (hother hseq), enterRetry_beginEvent]
    · exact accepted_counts ha.1
    · exact accepted_acks ha.1
  · refine ⟨fun h => ⟨?_, fun seq hseq => ?_⟩, fun seq hseq => ?_, fun h why => ?_, fun seq ha => ?_,
      fun h => ?_, fun h => ?_⟩
    · rw [exec_receiveBadPacket_up h rfl, enterRetry_beginEvent]
    · have hbad : isBad s x (.sequence seq) = true := by simp [isBad, hother hseq]
      rw [exec_receiveBadPacket_up h hbad, enterRetry_beginEvent]
    · exact idles_of (exec_receiveBadPacket x _ s) (by simp [isBad, expectedSeq_iff.mpr hseq])
    · exact idles_of (exec_receiveBadPacket x why s) (by simp [linkIs, h])
    · exact congrArg Host.Outcome.next (receive_accepts ha fun u => raiseProtocol u x .unknownPacket)
    · exact (exec_receiveUnknownPacket_none x s).trans (happens_of h rfl)
    · exact idles_of (exec_receiveUnknownPacket_none x s) h

end Sys2Proof.Machine
end


section
/-! PROOFS. Training and the TRAIN packet (09 R157; 10 R168, R170, R171; O48). -/

namespace Sys2Proof.Machine

/-! ## Training (10 R170) -/

/-- No slot of the link is live. -/
theorem liveOf_isEmpty_iff {s : State} {x : Link} :
    (liveOf s x).isEmpty = true ↔ ∀ i t, slotAt s i = some t → t.link ≠ x := by
  rw [List.isEmpty_iff, List.eq_nil_iff_forall_not_mem]
  refine ⟨fun h i t ht hx => h (i, t) (mem_liveOf.mpr ⟨ht, hx⟩), fun h p hp => ?_⟩
  obtain ⟨hslot, hlink⟩ := mem_liveOf.mp hp
  exact h p.1 p.2 hslot hlink

/-- The hub's TRAIN as the first packet of an event, after a change of the Link Controller. -/
theorem sendTrain_modLink (s : State) (x : Link) (f : LinkCtl → LinkCtl) :
    sendTrain (modLink (beginEvent s) x f) x = { carries s x [trainPacket (f (linkOf s x))] with
      links := s.links.set x { f (linkOf s x) with trainTimer := .running 32 } } := by
  unfold sendTrain sendLevel
  rw [linkOf_modLink, putOnWire_modLink, modLink_modLink, ← putOnWire_beginEvent]
  rfl

theorem sendTrain_beginEvent (s : State) (x : Link) : sendTrain (beginEvent s) x =
    { carries s x [trainPacket (linkOf s x)] with
      links := s.links.set x { linkOf s x with trainTimer := .running 32 } } := by
  have h := sendTrain_modLink s x id
  rwa [modLink_of_eq (s := beginEvent s) (f := id) rfl] at h

theorem exec_downTimerExpiry (x : Link) (s : State) : exec (.downTimerExpiry x) s =
    happens (linkIs s x .down && timerRuns (linkOf s x).downTimer) s (leaveDown x) := rfl

theorem exec_sendFirstTrain (x : Link) (s : State) : exec (.sendFirstTrain x) s =
    happens (linkIs s x .training && !(linkOf s x).trainSent && (liveOf s x).isEmpty) s (sendFirst x) := rfl

theorem exec_trainTimerExpiry (x : Link) (s : State) : exec (.trainTimerExpiry x) s =
    happens (linkIs s x .training && timerRuns (linkOf s x).trainTimer) s fun s => sendTrain s x := rfl

/-! ## The TRAIN packet (10 R170, R171) -/

theorem seenFlag_yes : seenFlag 1 = true := rfl

theorem seenFlag_no {seen : Byte} (h : seen ≠ 1) : seenFlag seen = false := decide_eq_false h

section
variable {s : State} {x : Link} {r m seen : Byte}

theorem exec_train_down (h : (linkOf s x).state = .down) : exec (.train x r m seen) s = .next s := by
  simp only [exec, execTrain, h]

theorem exec_train_training (h : (linkOf s x).state = .training) :
    exec (.train x r m seen) s = .next (takeTrain x (seenFlag seen) (beginEvent s)) := by
  simp only [exec, execTrain, h]

theorem exec_train_inService (h : inService s x = true) :
    exec (.train x r m seen) s = .next (takeLateTrain x (seenFlag seen) (beginEvent s)) := by
  rcases inService_iff.mp h with h | h <;> simp only [exec, execTrain, h]

/-- A TRAIN before the hub's own first one is only noted. -/
theorem takeTrain_unsent (seen : Bool) (h : (linkOf s x).trainSent = false) :
    takeTrain x seen s = modLink s x noteSeen := by
  simp [takeTrain, h]

/-- The first TRAIN of the partner after the hub's own is answered with one that says so. -/
theorem takeTrain_first (seen : Bool) (hsent : (linkOf s x).trainSent = true)
    (hseen : (linkOf s x).partnerSeen = false) : takeTrain x seen s =
      if seen then modLink (sendTrain (modLink s x noteSeen) x) x enterUp
      else sendTrain (modLink s x noteSeen) x := by
  simp [takeTrain, hsent, hseen]

/-- A later one takes the link UP, or is answered again. -/
theorem takeTrain_again (seen : Bool) (hsent : (linkOf s x).trainSent = true)
    (hseen : (linkOf s x).partnerSeen = true) : takeTrain x seen s =
      if seen then modLink s x enterUp else sendLevel s x trainPacket := by
  simp [takeTrain, hsent, hseen]

theorem takeLateTrain_seen (s : State) (x : Link) : takeLateTrain x true s =
    sendLevel s x fun l => .train l.grant 2 true := if_pos rfl

theorem takeLateTrain_unseen (s : State) (x : Link) :
    takeLateTrain x false s = linkResetEvent s x .restart := if_neg Bool.false_ne_true

end

/-- The answer to the partner's first TRAIN, with which the link may become UP. -/
theorem enterUp_sendTrain (s : State) (x : Link) (f : LinkCtl → LinkCtl) :
    modLink (sendTrain (modLink (beginEvent s) x f) x) x enterUp =
      { carries s x [trainPacket (f (linkOf s x))] with
        links := s.links.set x (enterUp (f (linkOf s x))) } := by
  rw [sendTrain_modLink, modLink_withLinks]
  rfl

theorem sendLevel_beginEvent (s : State) (x : Link) (packet : LinkCtl → WirePacket) :
    sendLevel (beginEvent s) x packet = carries s x [packet (linkOf s x)] := putOnWire_beginEvent s x _

theorem answers_late_train {s : State} {x : Link} {r m seen : Byte} (h : inService s x = true)
    (hseen : seen ≠ 1) : answers (.train x r m seen) s (resetAt (beginEvent s) x .restart) := by
  have hexec := exec_train_inService (r := r) (m := m) (seen := seen) h
  rw [seenFlag_no hseen, takeLateTrain_unseen] at hexec
  exact answers_next hexec (linkResetEvent_eq (beginEvent s) x .restart)

/-- Settles O48: each step of the training by the condition of its event, and the TRAIN by the state of the link
and what was sent and seen before. -/
theorem trainingProceeds : Obligations.TrainingProceeds := by
  refine ⟨fun s x n => ⟨fun h ht => ?_, fun h hsent hlive => ?_, fun h ht => ?_⟩,
    fun s x r m seen => ⟨exec_train_down, fun h => ⟨fun hsent => ?_, fun hsent hfirst => ?_,
      fun hsent hagain => ?_⟩, fun h => ⟨?_, answers_late_train h⟩⟩,
    fun s x => ⟨fun h => ?_, fun h => ?_, fun h => ?_⟩⟩
  · exact (exec_downTimerExpiry x s).trans (happens_of (by simp [linkIs, h, ht, timerRuns]) rfl)
  · refine (exec_sendFirstTrain x s).trans (happens_of ?_ (sendTrain_modLink s x _))
    rw [liveOf_isEmpty_iff.mpr hlive]
    simp [linkIs, h, hsent]
  · exact (exec_trainTimerExpiry x s).trans
      (happens_of (by simp [linkIs, h, ht, timerRuns]) (sendTrain_beginEvent s x))
  · rw [exec_train_training h, takeTrain_unsent (s := beginEvent s) _ hsent]
    rfl
  · rw [exec_train_training h, takeTrain_first (s := beginEvent s) _ hsent hfirst]
    refine ⟨?_, fun hseen => ?_⟩
    · rintro rfl
      rw [seenFlag_yes, if_pos rfl, enterUp_sendTrain]
      rfl
    · rw [seenFlag_no hseen, if_neg Bool.false_ne_true, sendTrain_modLink]
      rfl
  · have hpacket : trainPacket (linkOf s x) = .train (linkOf s x).grant 2 true := by
      rw [trainPacket, hagain]
    rw [exec_train_training h, takeTrain_again (s := beginEvent s) _ hsent hagain]
    refine ⟨?_, fun hseen => ?_⟩
    · rintro rfl
      rfl
    · rw [seenFlag_no hseen, if_neg Bool.false_ne_true, sendLevel_beginEvent, hpacket]
  · rintro rfl
    rw [exec_train_inService h, seenFlag_yes, takeLateTrain_seen, sendLevel_beginEvent]
  · refine idles_of (exec_downTimerExpiry x s) ?_
    rcases h with h | h
    · simp [linkIs, h]
    · simp [timerRuns_false h]
  · refine idles_of (exec_sendFirstTrain x s) ?_
    rcases h with h | h | ⟨i, t, ht, hx⟩
    · simp [linkIs, h]
    · simp [h]
    · have hlive : (liveOf s x).isEmpty = false :=
        Bool.eq_false_iff.mpr fun he => liveOf_isEmpty_iff.mp he i t ht hx
      rw [hlive, Bool.and_false]
  · refine idles_of (exec_trainTimerExpiry x s) ?_
    rcases h with h | h
    · simp [linkIs, h]
    · simp [timerRuns_false h]

end Sys2Proof.Machine
end


section
/-! PROOFS. The sources of sequenced packets: when one may be taken, and what its taking sends (09 R149, R161;
10 R175, R177, R178, R181; O52). -/

namespace Sys2Proof.Machine

/-! ## Which source may be taken (10 R175, R181) -/

theorem canSend_iff {s : State} {x : Link} :
    canSend s x = true ↔ (linkOf s x).state = .up ∧ (linkOf s x).replay.length < 32 := by
  unfold canSend
  rw [Bool.and_eq_true, decide_eq_true_eq, decide_eq_true_eq]
  rfl

/-- A head that no other head has been ready longer than. -/
theorem longestReady_iff {s : State} {x : Link} {src : Source} : longestReady s x src = true ↔
    ∃ n, readySince s x src = some n ∧ ∀ other m, readySince s x other = some m → n ≤ m := by
  have hmem : ∀ other : Source, other ∈ [Source.credit, .notice, .reply, .response, .alert] := fun other => by
    cases other <;> decide
  unfold longestReady
  cases readySince s x src with
  | none => simp
  | some n =>
    simp only [Option.some.injEq, exists_eq_left', List.all_eq_true]
    refine forall_congr' fun other => ?_
    cases readySince s x other with
    | none => simp
    | some m => simp [hmem other]

theorem decidedHead_nil {s : State} {x : Link} (h : s.mgmt.replies.get x = []) : decidedHead s x = none := by
  unfold decidedHead
  rw [h]

theorem decidedHead_cons {s : State} {x : Link} {e : MgmtEntry} {rest : List MgmtEntry}
    (h : s.mgmt.replies.get x = e :: rest) :
    decidedHead s x = if e.status.isSome then some e else none := by
  unfold decidedHead
  rw [h]

theorem decidedHead_isSome_iff {s : State} {x : Link} : (decidedHead s x).isSome = true ↔
    ∃ e rest, s.mgmt.replies.get x = e :: rest ∧ e.status ≠ none := by
  cases h : s.mgmt.replies.get x with
  | nil => simp [decidedHead_nil h]
  | cons e rest =>
    rw [decidedHead_cons h]
    cases hst : e.status <;> simp [hst]

theorem mayTake_iff {s : State} {x : Link} {src : Source} : mayTake s x src = true ↔
    canSend s x = true ∧
    ((linkOf s x).restartDue = false → longestReady s x src = true) ∧
    ((linkOf s x).restartDue = true → src = .reply ∧ (linkOf s x).resetReplyDue = true ∧
      (decidedHead s x).isSome = true) := by
  unfold mayTake
  cases (linkOf s x).restartDue <;> simp [and_assoc]

/-- An alert is taken on the alert link only (09 R161). -/
theorem alertLink_of_mayTake {s : State} {x : Link} (h : mayTake s x .alert = true) :
    s.settings.mgmt.alertLink = x := by
  obtain ⟨-, hready, hrestart⟩ := mayTake_iff.mp h
  cases hdue : (linkOf s x).restartDue with
  | true => cases (hrestart hdue).1
  | false =>
    obtain ⟨n, hn, -⟩ := longestReady_iff.mp (hready hdue)
    by_contra hne
    rw [readySince, if_neg hne] at hn
    cases hn

theorem readySince_reply_cons {s : State} {x : Link} {e : MgmtEntry} {rest : List MgmtEntry}
    (h : s.mgmt.replies.get x = e :: rest) :
    readySince s x .reply = if e.status = none then none else some e.readySince := by
  rw [readySince, decidedHead_cons h]
  cases hst : e.status <;> simp

theorem readySince_response_cons {s : State} {x : Link} {i : Nat} {rest : List Nat} {t : Txn}
    (h : s.table.responses.get x = i :: rest) (ht : slotAt s i = some t) :
    readySince s x .response = some t.replySince := by
  simp [readySince, responseHead, h, ht]

/-! ## What is sent (10 R175, R177) -/

/-- A sequenced packet as the first thing of an event, and what else its taking changes at the link. -/
theorem modLink_sendSequenced (s : State) (x : Link) (p : HubPacket) (k : LinkCtl → LinkCtl) :
    modLink (sendSequenced (beginEvent s) x p) x k =
      { carries s x [.sequenced (linkOf s x).nextSend p] with
        links := s.links.set x (k (sent (linkOf s x) p)) } := by
  rw [sendSequenced_beginEvent]
  exact modLink_withLinks (carries s x _) s.links x _ k

section
variable {s : State} {x : Link}

theorem handReply_eq {e : MgmtEntry} {rest : List MgmtEntry} {st : MgmtStatus}
    (h : s.mgmt.replies.get x = e :: rest) (hst : e.status = some st) : handReply x (beginEvent s) =
      { modLink (sendSequenced (beginEvent s) x (.mgmtReply e.kind st e.value)) x
          (fun l => { owe (s.event + 1) 0 1 l with resetReplyDue := false }) with
        mgmt := { s.mgmt with replies := s.mgmt.replies.set x rest } } := by
  have hreply : replyOf e = .mgmtReply e.kind st e.value := by rw [replyOf, hst]; rfl
  have h' : (beginEvent s).mgmt.replies.get x = e :: rest := h
  rw [handReply, h', ← hreply]
  rfl

theorem handNotice_eq {n : NoticePacket} {rest : List NoticePacket} (h : (linkOf s x).notices = n :: rest) :
    handNotice x (beginEvent s) = modLink (sendSequenced (beginEvent s) x (.notice n.number n.addr)) x
      fun l => { l with notices := rest } := by
  rw [handNotice, linkOf_beginEvent, h]

theorem handAlert_eq {a : Alert} {rest : List Alert} (h : s.mgmt.alerts = a :: rest) :
    handAlert (beginEvent s) =
      { modLink (sendSequenced (beginEvent s) s.settings.mgmt.alertLink (.alert a))
          s.settings.mgmt.alertLink id with
        mgmt := { s.mgmt with alerts := rest } } := by
  have h' : (beginEvent s).mgmt.alerts = a :: rest := h
  rw [handAlert, h', modLink_of_eq (f := id) rfl]
  rfl

theorem handCredit_eq : handCredit x (beginEvent s) =
    modLink (sendSequenced (beginEvent s) x (.credit (linkOf s x).owedRequests (linkOf s x).owedMgmt)) x
      fun l => { l with owedRequests := 0, owedMgmt := 0 } := rfl

theorem handRestart_eq : handRestart x (beginEvent s) = modLink (handCredit x (beginEvent s)) x
    fun l => { l with restartDue := false } := rfl

end

theorem exec_restartingCredit (x : Link) (s : State) : exec (.restartingCredit x) s =
    happens (canSend s x && (linkOf s x).restartDue && !(linkOf s x).resetReplyDue) s (handRestart x) := rfl

/-- Settles O52: the guard of a source is read off its parts, and each taking is one sequenced packet with what
else it changes at the link. -/
theorem sourcesAreTaken : Obligations.SourcesAreTaken := by
  refine ⟨fun s x src => ⟨?_, ?_, rfl, fun h => ?_, fun e rest => readySince_reply_cons, fun h => ?_,
      fun i rest t => readySince_response_cons, rfl⟩,
    fun s x => ⟨fun e rest st hm h hst => ?_, fun n rest hm h => ?_, fun a rest hm h => ?_, fun hm => ?_,
      fun hup hroom hdue hfirst => ?_⟩,
    fun s x => ⟨idles_of rfl, idles_of rfl, idles_of rfl, idles_of rfl, fun h => ?_⟩⟩
  · rw [mayTake_iff, canSend_iff, longestReady_iff, decidedHead_isSome_iff, and_assoc]
  · simp [readySince]
  · rw [readySince, decidedHead_nil h]
    rfl
  · simp [readySince, responseHead, h]
  · refine happens_of hm ?_
    rw [handReply_eq h hst, modLink_sendSequenced]
    simp only [owe_mgmt]
  · refine happens_of hm ?_
    rw [handNotice_eq h, modLink_sendSequenced]
  · have hx := alertLink_of_mayTake hm
    subst hx
    refine happens_of hm ?_
    rw [handAlert_eq h, modLink_sendSequenced]
  · exact happens_of hm (handCredit_eq.trans (modLink_sendSequenced s x _ _))
  · refine (exec_restartingCredit x s).trans (happens_of ?_ ?_)
    · simp [canSend_iff.mpr ⟨hup, hroom⟩, hdue, hfirst]
    · rw [handRestart_eq, handCredit_eq, modLink_sendSequenced]
      rfl
  · refine idles_of (exec_restartingCredit x s) ?_
    rcases h with h | h | h | h
    · simp [canSend, h]
    · simp [canSend, replayRoom, Nat.not_lt.mpr h]
    · simp [h]
    · simp [h]

end Sys2Proof.Machine
end


section
/-! PROOFS. The ack timer, the retry timer and the replay timer of a link (10 R173, R174, R177, R179; O50). -/

namespace Sys2Proof.Machine

/-! ## What an expiry sends -/

/-- A LINK-ACK as the first thing of an event, after a change of the Link Controller (10 R173). -/
theorem sendAck_modLink (s : State) (x : Link) (f : LinkCtl → LinkCtl) :
    sendAck (modLink (beginEvent s) x f) x = { carries s x [ackPacket (f (linkOf s x))] with
      links := s.links.set x (clearUnacked (f (linkOf s x))) } := by
  unfold sendAck sendLevel
  rw [linkOf_modLink, putOnWire_modLink, modLink_modLink, putOnWire_beginEvent]
  rfl

theorem sendAck_beginEvent (s : State) (x : Link) : sendAck (beginEvent s) x =
    { carries s x [ackPacket (linkOf s x)] with links := s.links.set x (clearUnacked (linkOf s x)) } := by
  have h := sendAck_modLink s x id
  rwa [modLink_of_eq (s := beginEvent s) (f := id) rfl] at h

/-- A further RETRY-REQ, while the count allows it (10 R174). -/
theorem expireRetry_again {s : State} {x : Link} (h : (linkOf s x).retryCount < 8) :
    expireRetry x (beginEvent s) = { carries s x [retryPacket (linkOf s x)] with
      links := s.links.set x { clearUnacked (linkOf s x) with
        retryCount := (linkOf s x).retryCount + 1, retryTimer := .running 16 } } := by
  unfold expireRetry sendRetryReq sendLevel
  rw [linkOf_beginEvent, if_pos h, modLink_modLink, putOnWire_beginEvent]
  rfl

/-- The buffer is sent again, while the count allows it (10 R177). -/
theorem expireReplay_again {s : State} {x : Link} (h : (linkOf s x).replayCount < 4) :
    expireReplay x (beginEvent s) = { carries s x (resent (linkOf s x).replay) with
      links := s.links.set x { linkOf s x with
        replayCount := (linkOf s x).replayCount + 1, replayTimer := .running 64 } } := by
  unfold expireReplay
  rw [linkOf_beginEvent, if_pos h, putOnWire_beginEvent]
  rfl

/-- A link reset that the hub causes as the first thing of an event (10 R179). -/
theorem hubLinkReset_beginEvent (s : State) (x : Link) (cause : Cause) :
    hubLinkReset (beginEvent s) x cause = settle (resetAt (carries s x [.linkReset]) x cause) := by
  unfold hubLinkReset
  rw [putOnWire_beginEvent, linkResetEvent_eq]

theorem expireRetry_resets {s : State} {x : Link} (h : 8 ≤ (linkOf s x).retryCount) :
    expireRetry x (beginEvent s) = settle (resetAt (carries s x [.linkReset]) x .retry) := by
  unfold expireRetry
  rw [linkOf_beginEvent, if_neg (Nat.not_lt.mpr h), hubLinkReset_beginEvent]

theorem expireReplay_resets {s : State} {x : Link} (h : 4 ≤ (linkOf s x).replayCount) :
    expireReplay x (beginEvent s) = settle (resetAt (carries s x [.linkReset]) x .replay) := by
  unfold expireReplay
  rw [linkOf_beginEvent, if_neg (Nat.not_lt.mpr h), hubLinkReset_beginEvent]

/-! ## When a timer expires -/

theorem timerRuns_of_running {t : Timer} {n : Nat} (h : t = .running n) : timerRuns t = true := by
  rw [h]
  rfl

theorem exec_ackTimerExpiry (x : Link) (s : State) : exec (.ackTimerExpiry x) s =
    happens (timerRuns (linkOf s x).ackTimer) s fun s => sendAck s x := rfl

theorem exec_retryTimerExpiry (x : Link) (s : State) : exec (.retryTimerExpiry x) s =
    happens (linkIs s x .retry && timerRuns (linkOf s x).retryTimer) s (expireRetry x) := rfl

theorem exec_replayTimerExpiry (x : Link) (s : State) : exec (.replayTimerExpiry x) s =
    happens (inService s x && timerRuns (linkOf s x).replayTimer) s (expireReplay x) := rfl

/-- Settles O50: each timer by the condition of its expiry, and the retry and the replay timer by their counts. -/
theorem linkTimersExpire : Obligations.LinkTimersExpire := by
  refine ⟨fun s x n => ⟨fun ht => ?_, fun hretry ht => ?_, fun hin ht => ?_⟩,
    fun s x => ⟨fun ht => ?_, fun h => ?_, fun h => ?_, inService_iff⟩⟩
  · exact (exec_ackTimerExpiry x s).trans
      (happens_of (timerRuns_of_running ht) (sendAck_beginEvent s x))
  · have hcond : (linkIs s x .retry && timerRuns (linkOf s x).retryTimer) = true := by
      simp [linkIs, hretry, timerRuns_of_running ht]
    exact ⟨fun hc => (exec_retryTimerExpiry x s).trans (happens_of hcond (expireRetry_again hc)),
      fun hc => answers_of (exec_retryTimerExpiry x s) hcond (expireRetry_resets hc)⟩
  · have hcond : (inService s x && timerRuns (linkOf s x).replayTimer) = true := by
      rw [hin, timerRuns_of_running ht]
      rfl
    exact ⟨fun hc => (exec_replayTimerExpiry x s).trans (happens_of hcond (expireReplay_again hc)),
      fun hc => answers_of (exec_replayTimerExpiry x s) hcond (expireReplay_resets hc)⟩
  · exact idles_of (exec_ackTimerExpiry x s) (timerRuns_false ht)
  · refine idles_of (exec_retryTimerExpiry x s) ?_
    rcases h with h | h
    · simp [linkIs, h]
    · rw [timerRuns_false h, Bool.and_false]
  · refine idles_of (exec_replayTimerExpiry x s) ?_
    rcases h with h | h
    · rw [h, Bool.false_and]
    · rw [timerRuns_false h, Bool.and_false]

end Sys2Proof.Machine
end


section
/-! PROOFS. LINK-ACK and RETRY-REQ at the replay buffer (10 R167, R173, R174, R176; O49). -/

namespace Sys2Proof.Machine

/-! ## The send mark (10 R174) -/

/-- The Link Controller after the send mark of a LINK-ACK or a RETRY-REQ is judged. -/
def markJudged (mark : Byte) (l : LinkCtl) : LinkCtl :=
  if l.state = .retry ∧ mark.toNat = l.expected.toNat then leaveRetry l else l

theorem judgeMark_eq (s : State) (x : Link) (mark : Byte) :
    judgeMark s x mark = modLink s x (markJudged mark) := by
  have hcond : (linkIs s x .retry && expectedSeq s x mark) = true ↔
      (linkOf s x).state = .retry ∧ mark.toNat = (linkOf s x).expected.toNat := by
    rw [Bool.and_eq_true, linkIs, decide_eq_true_eq, expectedSeq_iff]
  unfold judgeMark
  by_cases h : (linkOf s x).state = .retry ∧ mark.toNat = (linkOf s x).expected.toNat
  · rw [if_pos (hcond.mpr h), modLink_eq, modLink_eq, markJudged, if_pos h]
  · rw [if_neg (mt hcond.mp h)]
    exact (modLink_of_eq (if_neg h)).symm

/-! ## The packet that is named (10 R176) -/

section
variable {n : Byte} {before after : List (Seq × HubPacket)} {p : Seq × HubPacket}

theorem namesPacket_named (h : p.1.toNat = n.toNat) : namesPacket (before ++ p :: after) n = true := by
  simp [namesPacket, h]

theorem namesPacket_unnamed {replay : List (Seq × HubPacket)}
    (h : ∀ q ∈ replay, ¬ q.1.toNat = n.toNat) : namesPacket replay n = false := by
  simpa [namesPacket] using fun a b hq => h (a, b) hq

/-- From the oldest packet of the number on. -/
theorem fromPacket_named (h : p.1.toNat = n.toNat) (hb : ∀ q ∈ before, ¬ q.1.toNat = n.toNat) :
    fromPacket (before ++ p :: after) n = p :: after := by
  unfold fromPacket
  rw [List.dropWhile_append_of_pos fun q hq => decide_eq_true (hb q hq),
    List.dropWhile_cons_of_neg (by simp [h])]

end

/-! ## The buffer after it (10 R176) -/

section
variable {l : LinkCtl} {before after : List (Seq × HubPacket)} {p : Seq × HubPacket}

/-- After a LINK-ACK that names a packet the buffer is always shorter. -/
theorem withReplay_acked (h : l.replay = before ++ p :: after) : withReplay after false l = { l with
    replay := after, replayCount := 0
    replayTimer := if after = [] then .stopped else .running 64 } := by
  have hlt : after.length < l.replay.length := by
    rw [h, List.length_append, List.length_cons]
    omega
  simp [withReplay, hlt, loaded, usUnits]

/-- After a RETRY-REQ that names a packet it is shorter if there were older ones. -/
theorem withReplay_wanted (h : l.replay = before ++ p :: after) : withReplay (p :: after) true l = { l with
    replay := p :: after
    replayCount := if before = [] then l.replayCount else 0
    replayTimer := .running 64 } := by
  cases before <;> simp [withReplay, h, loaded, usUnits]

/-- After a RETRY-REQ for the next send sequence it is empty. -/
theorem withReplay_emptied (l : LinkCtl) : withReplay [] false l = { l with
    replay := [], replayTimer := .stopped
    replayCount := if l.replay = [] then l.replayCount else 0 } := by
  cases h : l.replay <;> simp [withReplay, h]

end

/-! ## The two packets as the first of an event -/

section
variable {s : State} {x : Link} {number mark : Byte} {before after : List (Seq × HubPacket)}
  {p : Seq × HubPacket}

theorem linkOf_judgeMark (s : State) (x : Link) (mark : Byte) :
    linkOf (judgeMark (beginEvent s) x mark) x = markJudged mark (linkOf s x) := by
  rw [judgeMark_eq, linkOf_modLink, linkOf_beginEvent]

theorem actOnAck_named (h : (markJudged mark (linkOf s x)).replay = before ++ p :: after)
    (hp : p.1.toNat = number.toNat) (hb : ∀ q ∈ before, ¬ q.1.toNat = number.toNat) :
    actOnAck (judgeMark (beginEvent s) x mark) x number = { beginEvent s with
      links := s.links.set x (withReplay after false (markJudged mark (linkOf s x))) } := by
  unfold actOnAck
  rw [linkOf_judgeMark, h, namesPacket_named hp, if_pos rfl, judgeMark_eq, modLink_modLink, modLink_eq,
    linkOf_beginEvent, h, fromPacket_named hp hb]
  rfl

theorem actOnAck_unnamed (h : ∀ q ∈ (markJudged mark (linkOf s x)).replay, ¬ q.1.toNat = number.toNat) :
    actOnAck (judgeMark (beginEvent s) x mark) x number = { beginEvent s with
      links := s.links.set x (markJudged mark (linkOf s x)) } := by
  unfold actOnAck
  rw [linkOf_judgeMark, namesPacket_unnamed h, if_neg Bool.false_ne_true, judgeMark_eq]
  rfl

theorem actOnRetryReq_named (h : (markJudged mark (linkOf s x)).replay = before ++ p :: after)
    (hp : p.1.toNat = number.toNat) (hb : ∀ q ∈ before, ¬ q.1.toNat = number.toNat) :
    actOnRetryReq (judgeMark (beginEvent s) x mark) x number =
      { carries s x (resent (p :: after)) with
        links := s.links.set x (withReplay (p :: after) true (markJudged mark (linkOf s x))) } := by
  unfold actOnRetryReq
  simp only [linkOf_judgeMark, h, namesPacket_named hp, if_true, fromPacket_named hp hb]
  rw [judgeMark_eq, putOnWire_modLink, modLink_modLink, putOnWire_beginEvent]
  rfl

theorem actOnRetryReq_next (h : ∀ q ∈ (markJudged mark (linkOf s x)).replay, ¬ q.1.toNat = number.toNat)
    (hn : number.toNat = (markJudged mark (linkOf s x)).nextSend.toNat) :
    actOnRetryReq (judgeMark (beginEvent s) x mark) x number =
      { carries s x [ackPacket (withReplay [] false (markJudged mark (linkOf s x)))] with
        links := s.links.set x (clearUnacked (withReplay [] false (markJudged mark (linkOf s x)))) } := by
  unfold actOnRetryReq
  simp only [linkOf_judgeMark, namesPacket_unnamed h, Bool.false_eq_true, if_false, if_pos hn]
  rw [judgeMark_eq, modLink_modLink, sendAck_modLink]

theorem actOnRetryReq_other (h : ∀ q ∈ (markJudged mark (linkOf s x)).replay, ¬ q.1.toNat = number.toNat)
    (hn : number.toNat ≠ (markJudged mark (linkOf s x)).nextSend.toNat) :
    actOnRetryReq (judgeMark (beginEvent s) x mark) x number = { beginEvent s with
      links := s.links.set x (markJudged mark (linkOf s x)) } := by
  unfold actOnRetryReq
  simp only [linkOf_judgeMark, namesPacket_unnamed h, Bool.false_eq_true, if_false, if_neg hn]
  rw [judgeMark_eq]
  rfl

end

theorem exec_linkAck (x : Link) (acked mark : Byte) (s : State) : exec (.linkAck x acked mark) s =
    happens (inService s x) s fun s => actOnAck (judgeMark s x mark) x acked := rfl

theorem exec_retryReq (x : Link) (wanted mark : Byte) (s : State) : exec (.retryReq x wanted mark) s =
    happens (inService s x) s fun s => actOnRetryReq (judgeMark s x mark) x wanted := rfl

/-- Settles O49: after the send mark is judged, by the place of the named packet in the replay buffer, or by the
next send sequence where none is named. -/
theorem acknowledgementsAct : Obligations.AcknowledgementsAct := by
  intro s x number mark l named plain
  have hjudged : l = markJudged mark (linkOf s x) := rfl
  clear_value l
  subst hjudged
  have hack {u : State} (hin : inService s x = true)
      (h : actOnAck (judgeMark (beginEvent s) x mark) x number = u) :
      exec (.linkAck x number mark) s = .next u := (exec_linkAck x number mark s).trans (happens_of hin h)
  have hreq {u : State} (hin : inService s x = true)
      (h : actOnRetryReq (judgeMark (beginEvent s) x mark) x number = u) :
      exec (.retryReq x number mark) s = .next u := (exec_retryReq x number mark s).trans (happens_of hin h)
  refine ⟨fun hout => ⟨idles_of (exec_linkAck x number mark s) hout,
      idles_of (exec_retryReq x number mark s) hout⟩,
    fun hin => ⟨fun before p after hsplit hp hb => ⟨hack hin ?_, hreq hin ?_⟩,
      fun hnone => ⟨hack hin (actOnAck_unnamed hnone), fun hn => hreq hin ?_,
        fun hn => hreq hin (actOnRetryReq_other hnone hn)⟩⟩⟩
  · rw [actOnAck_named hsplit hp hb, withReplay_acked hsplit]
  · rw [actOnRetryReq_named hsplit hp hb, withReplay_wanted hsplit]
    rfl
  · rw [actOnRetryReq_next hnone hn, withReplay_emptied]
    rfl

end Sys2Proof.Machine
end


section
/-! PROOFS. The CRC and the bytes of numbers, and how a good frame is judged by its header (10 R169; 11 section
11.1, R183). -/

namespace Sys2Proof.Machine

/-! ## The CRC (11 section 11.1) -/

/-- One step of the CRC, with the bit that leaves given by its place. -/
theorem crcShift_eq (c : BitVec 16) :
    crcShift c = (c <<< 1) ^^^ (if c.getLsbD 15 then 0x1021#16 else 0#16) := by
  have hmsb : c.msb = c.getLsbD 15 := BitVec.msb_eq_getLsbD_last c
  unfold crcShift
  rw [hmsb]
  split_ifs <;> simp

theorem repeat_eq_foldl {α : Type} (f : α → α) (a : α) :
    ∀ n, Nat.repeat f n a = (List.range n).foldl (fun c _ => f c) a
  | 0 => rfl
  | n + 1 => by
    rw [List.range_succ, List.foldl_append, ← repeat_eq_foldl f a n]
    rfl

theorem crc16_append (bytes : List Byte) (b : Byte) : crc16 (bytes ++ [b]) =
    (List.range 8).foldl (fun (c : BitVec 16) _ => (c <<< 1) ^^^ (if c.getLsbD 15 then 0x1021#16 else 0#16))
      (crc16 bytes ^^^ (b.setWidth 16 <<< 8)) := by
  have hlast : crc16 (bytes ++ [b]) = crcByte (crc16 bytes) b := List.foldl_append
  rw [hlast, crcByte, repeat_eq_foldl, funext crcShift_eq]

/-! ## The bytes of a number -/

/-- The bytes of a number, each by its place. -/
theorem bytesBE_eq_map (n v : Nat) :
    bytesBE n v = (List.range n).map fun k => BitVec.ofNat 8 (v / 256 ^ (n - 1 - k)) := by
  induction n with
  | zero => rfl
  | succ n ih =>
    rw [bytesBE, ih, List.range_succ_eq_map, List.map_cons, List.map_map]
    refine congrArg (List.cons _) (List.map_congr_left fun k _ => ?_)
    rw [Function.comp_apply, Nat.add_sub_cancel, Nat.succ_eq_add_one, Nat.sub_sub, Nat.add_comm 1 k]

/-! ## Good frames (11 R183) -/

/-- A payload without a sequence byte. -/
theorem commandOfPayload_short (x : Link) {payload : List Byte} (h : payload.length < 2) :
    commandOfPayload x payload = .receiveUnknownPacket x none := if_pos h

/-- A payload that ends before its length does. -/
theorem commandOfPayload_headerCut (x : Link) (kind seq : Byte) {rest : List Byte} (h : rest.length < 2) :
    commandOfPayload x (kind :: seq :: rest) = unknownPacket x kind seq := by
  unfold commandOfPayload
  dsimp only
  rw [if_neg (by simp), if_neg (by simp only [List.length_cons]; omega)]
  rfl

/-- A frame with the CRC of its payload is judged by its payload. -/
theorem commandOfFrame_good (x : Link) {payload : List Byte} {crc : BitVec 16} (h : crc = crc16 payload) :
    commandOfFrame x (payload ++ bytesBE 2 crc.toNat) = commandOfPayload x payload :=
  (commandOfFrame_append x payload crc).trans (if_pos h)

/-- A frame with another CRC is a bad packet. -/
theorem commandOfFrame_bad (x : Link) {payload : List Byte} {crc : BitVec 16} (h : crc ≠ crc16 payload) :
    commandOfFrame x (payload ++ bytesBE 2 crc.toNat) = .receiveBadPacket x .crc :=
  (commandOfFrame_append x payload crc).trans (if_neg h)

end Sys2Proof.Machine
end


section
/-! PROOFS. The body of each packet command, read back (11 sections 11.2, 11.3, 11.5, 11.7 to 11.9). -/

namespace Sys2Proof.Machine

/-! ## Addresses and numbers of a body -/

section
variable (x : Link) (seq tag count m : Byte) (addr : LinkAddr)

theorem commandOfBody_read :
    commandOfBody x 0x01 seq (tag :: count :: m :: bytesBE 5 addr.toNat) = .read x seq tag count m addr :=
  congrArg (Instr.read x seq tag count m) (addrAt_eq _ 3 addr [] (List.append_nil _).symm)

theorem commandOfBody_lockRead :
    commandOfBody x 0x03 seq (tag :: count :: m :: bytesBE 5 addr.toNat) = .lockRead x seq tag count m addr :=
  congrArg (Instr.lockRead x seq tag count m) (addrAt_eq _ 3 addr [] (List.append_nil _).symm)

/-- Two bytes side by side are the number they are the bytes of. -/
theorem append_bytes (u : BitVec 16) :
    BitVec.ofNat 8 (u.toNat / 256 ^ 1) ++ BitVec.ofNat 8 (u.toNat / 256 ^ 0) = u := by
  apply BitVec.eq_of_toNat_eq
  rw [BitVec.toNat_append, ← Nat.shiftLeft_add_eq_or_of_lt (BitVec.isLt _), Nat.shiftLeft_eq,
    BitVec.toNat_ofNat, BitVec.toNat_ofNat]
  have := u.isLt
  omega

theorem commandOfBody_lockDrop (u : BitVec 16) :
    commandOfBody x 0x05 seq (tag :: (bytesBE 2 u.toNat ++ bytesBE 5 addr.toNat)) =
      .lockDrop x seq tag u addr :=
  congrArg₂ (Instr.lockDrop x seq tag) (append_bytes u) (addrAt_eq _ 3 addr [] (List.append_nil _).symm)

theorem commandOfBody_tableWrite (table index : Byte) (entry : BitVec 96) :
    commandOfBody x 0x23 seq (table :: index :: bytesBE 12 entry.toNat) =
      .tableWrite x seq table index entry :=
  congrArg (Instr.tableWrite x seq table index) (ofNat_bigEndian 96 12 entry (by norm_num))

end

/-! ## MGMT-WRITE (11 section 11.8) -/

theorem commandOfBody_mgmtWriteBody (x : Link) (seq record field : Byte) (value : BitVec 32) :
    commandOfBody x 0x21 seq (mgmtWriteBody record field value) =
      commandOfWrite x seq record field value :=
  congrArg (commandOfWrite x seq record field) (ofNat_bigEndian 32 4 value (by norm_num))

/-- A field without a row of its own. -/
theorem commandOfWrite_mgmtWrite (x : Link) (seq : Byte) {record field : Byte} (value : BitVec 32)
    (h : ownRow record field = false) :
    commandOfWrite x seq record field value = .mgmtWrite x seq record field value := by
  unfold commandOfWrite
  split <;> simp_all [ownRow]

/-! ## WRITE and LOCK-WRITE (11 section 11.3) -/

section
variable {masks : List Mask} {data : List Block} (tag count : Byte) (addr : LinkAddr)

theorem writeFits_iff : writeFits masks data = true ↔
    masks.length < 256 ∧ 8 + 4 * masks.length + 32 * data.length < 65536 := by
  simp [writeFits]

theorem length_writeBody : (writeBody tag count addr masks data).length =
    8 + 4 * masks.length + 32 * data.length := by
  simp only [writeBody, List.length_cons, List.length_append, length_bytesBE,
    length_flatMap 4 _ (fun m : Mask => length_bytesBE 4 m.toNat), length_flatMap 32 _ length_blockBytes]
  omega

/-- The mask count of a body is that of its masks. -/
theorem byteAt_writeBody (h : masks.length < 256) :
    (byteAt (writeBody tag count addr masks data) 2).toNat = masks.length :=
  (BitVec.toNat_ofNat ..).trans (Nat.mod_eq_of_lt h)

theorem addrAt_writeBody : addrAt (writeBody tag count addr masks data) 3 = addr :=
  addrAt_eq _ 3 addr _ (List.append_assoc ..)

/-- Behind the address stand the masks, then the blocks. -/
theorem drop_writeBody : (writeBody tag count addr masks data).drop 8 =
    (masks.flatMap fun m => bytesBE 4 m.toNat) ++ data.flatMap blockBytes := rfl

theorem writeLengthOk_writeBody (h : masks.length < 256) :
    writeLengthOk (writeBody tag count addr masks data) = true := by
  unfold writeLengthOk
  rw [byteAt_writeBody tag count addr h, length_writeBody, Bool.and_eq_true, decide_eq_true_eq, beq_iff_eq]
  omega

theorem masksOf_writeBody (h : masks.length < 256) :
    masksOf (writeBody tag count addr masks data) = masks := by
  unfold masksOf
  rw [byteAt_writeBody tag count addr h, drop_writeBody,
    chunks_flatMap 4 _ (fun m : Mask => length_bytesBE 4 m.toNat), List.map_map]
  exact (List.map_congr_left fun m _ => ofNat_bigEndian 32 4 m (by norm_num)).trans (List.map_id masks)

theorem dataOf_writeBody (h : masks.length < 256) :
    dataOf (writeBody tag count addr masks data) = data := by
  have hblocks : (8 + 4 * masks.length + 32 * data.length - 8 - 4 * masks.length) / 32 = data.length := by
    omega
  have hmasks : (masks.flatMap fun m => bytesBE 4 m.toNat).length = 4 * masks.length :=
    length_flatMap 4 _ (fun m : Mask => length_bytesBE 4 m.toNat) masks
  have hcut := chunks_flatMap 32 blockBytes length_blockBytes data []
  rw [List.append_nil] at hcut
  unfold dataOf
  rw [byteAt_writeBody tag count addr h, length_writeBody, hblocks, ← List.drop_drop, drop_writeBody,
    List.drop_left' hmasks, hcut, List.map_map]
  exact (List.map_congr_left fun b _ => blockOf_blockBytes b).trans (List.map_id data)

theorem commandOfBody_write (x : Link) (seq : Byte) (h : masks.length < 256) :
    commandOfBody x 0x02 seq (writeBody tag count addr masks data) =
      .write x seq tag count addr masks data := by
  refine (if_pos (writeLengthOk_writeBody tag count addr h)).trans ?_
  rw [addrAt_writeBody, masksOf_writeBody tag count addr h, dataOf_writeBody tag count addr h]
  rfl

theorem commandOfBody_lockWrite (x : Link) (seq : Byte) (h : masks.length < 256) :
    commandOfBody x 0x04 seq (writeBody tag count addr masks data) =
      .lockWrite x seq tag count addr masks data := by
  refine (if_pos (writeLengthOk_writeBody tag count addr h)).trans ?_
  rw [addrAt_writeBody, masksOf_writeBody tag count addr h, dataOf_writeBody tag count addr h]
  rfl

end

/-! ## Every packet command -/

section
variable {c : Instr} {x : Link} {kind seq : Byte} {body : List Byte}

/-- The body of a packet command fits the two length bytes of its frame. -/
theorem length_packetOf (hc : c.wellFormed = true) (h : packetOf c = some (x, kind, seq, body)) :
    body.length < 65536 := by
  cases c
  case write | lockWrite =>
    cases h
    rw [length_writeBody]
    exact (writeFits_iff.mp hc).2
  case writeCreditLimit x seq y value =>
    cases y <;> cases h <;> simp [mgmtWriteBody]
  all_goals cases h <;> simp [mgmtWriteBody]

/-- A well-formed packet command is read back from its kind, its sequence byte and its body. -/
theorem commandOfBody_packetOf (hc : c.wellFormed = true) (h : packetOf c = some (x, kind, seq, body)) :
    commandOfBody x kind seq body = c := by
  cases c
  case read => cases h; exact commandOfBody_read ..
  case lockRead => cases h; exact commandOfBody_lockRead ..
  case lockDrop => cases h; exact commandOfBody_lockDrop ..
  case tableWrite => cases h; exact commandOfBody_tableWrite ..
  case write => cases h; exact commandOfBody_write _ _ _ _ _ (writeFits_iff.mp hc).1
  case lockWrite => cases h; exact commandOfBody_lockWrite _ _ _ _ _ (writeFits_iff.mp hc).1
  case mgmtWrite x seq record field value =>
    cases h
    rw [commandOfBody_mgmtWriteBody]
    exact commandOfWrite_mgmtWrite _ _ _ (Bool.not_eq_true' _ ▸ hc)
  case writeCreditLimit x seq y value =>
    cases y <;> cases h <;> exact commandOfBody_mgmtWriteBody ..
  case writeTenureMode | writeRefreshMode | writeForceLevel | writeCueLink | writeFilterEnable |
      writeAlertLink | writeLease | writeCorrThreshold | writeOpenLimit =>
    cases h
    exact commandOfBody_mgmtWriteBody ..
  case fence | noticeAck | refreshCue | mgmtRead | tableRead | tableCommit | tableRevert | claim |
      release | channelStart | channelQuiesce | channelResume | hubReset | train | linkAck | retryReq |
      linkReset =>
    cases h
    rfl
  all_goals cases h

end

end Sys2Proof.Machine
end


section
/-! PROOFS. The frames of a partner and of the hub, their codes, and the bodies of no layout (11 sections 11.1 to
11.9; R183; O60). -/

namespace Sys2Proof.Machine

/-! ## Bodies of no layout (11 R183) -/

/-- The kind codes of the partner whose bodies have one length, with that length. -/
def fixedLayouts : List (Nat × Nat) :=
  [(0x01, 8), (0x03, 8), (0x05, 8), (0x06, 1), (0x10, 1), (0x11, 0),
    (0x20, 2), (0x21, 6), (0x22, 3), (0x23, 14), (0x24, 0), (0x25, 0), (0x26, 0), (0x27, 0), (0x28, 0),
    (0x29, 0), (0x2A, 0), (0x2B, 0), (0x70, 3), (0x71, 2), (0x72, 2), (0x73, 0)]

/-- A kind code has one length at most. -/
theorem fixedLayouts_functional : ∀ p ∈ fixedLayouts, ∀ q ∈ fixedLayouts, p.1 = q.1 → p.2 = q.2 := by
  decide

/-- WRITE and LOCK-WRITE have no fixed length. -/
theorem fixedLayouts_not_written : ∀ p ∈ fixedLayouts, p.1 ≠ 0x02 ∧ p.1 ≠ 0x04 := by
  decide

section
variable {x : Link} {kind seq : Byte} {body : List Byte}

/-- A body is unread, or has the length of its kind, or is that of a WRITE or LOCK-WRITE with whole blocks. -/
theorem commandOfBody_cases (x : Link) (kind seq : Byte) (body : List Byte) :
    commandOfBody x kind seq body = unknownPacket x kind seq ∨
    (kind.toNat, body.length) ∈ fixedLayouts ∨
    (kind.toNat = 0x02 ∨ kind.toNat = 0x04) ∧ writeLengthOk body = true := by
  unfold commandOfBody
  dsimp only
  split
  case h_2 hkind | h_4 hkind =>
    by_cases hok : writeLengthOk body = true
    · exact .inr (.inr ⟨by simp [hkind], hok⟩)
    · exact .inl (if_neg hok)
  case h_25 => exact .inl rfl
  all_goals
    rename_i hkind hlen
    rw [hkind, hlen]
    exact .inr (.inl (by decide))

theorem writeLengthOk_iff : writeLengthOk body = true ↔
    8 + 4 * (body.getD 2 0).toNat ≤ body.length ∧
      (body.length - 8 - 4 * (body.getD 2 0).toNat) % 32 = 0 := by
  rw [writeLengthOk, Bool.and_eq_true, decide_eq_true_eq, beq_iff_eq]
  rfl

theorem commandOfBody_otherLength {p : Nat × Nat} (hp : p ∈ fixedLayouts) (hkind : kind.toNat = p.1)
    (hlen : body.length ≠ p.2) : commandOfBody x kind seq body = unknownPacket x kind seq := by
  rcases commandOfBody_cases x kind seq body with h | h | ⟨hwritten, -⟩
  · exact h
  · exact absurd (fixedLayouts_functional _ h p hp hkind) hlen
  · obtain ⟨h2, h4⟩ := fixedLayouts_not_written p hp
    rw [hkind] at hwritten
    exact (hwritten.elim h2 h4).elim

theorem commandOfBody_otherKind (hwritten : ¬ (kind = 0x02 ∨ kind = 0x04))
    (hkind : ∀ p ∈ fixedLayouts, kind.toNat ≠ p.1) :
    commandOfBody x kind seq body = unknownPacket x kind seq := by
  rcases commandOfBody_cases x kind seq body with h | h | ⟨h, -⟩
  · exact h
  · exact absurd rfl (hkind _ h)
  · exact absurd (h.imp BitVec.eq_of_toNat_eq BitVec.eq_of_toNat_eq) hwritten

theorem commandOfBody_brokenWrite (hwritten : kind = 0x02 ∨ kind = 0x04)
    (hbody : body.length < 8 + 4 * (body.getD 2 0).toNat ∨
      (body.length - 8 - 4 * (body.getD 2 0).toNat) % 32 ≠ 0) :
    commandOfBody x kind seq body = unknownPacket x kind seq := by
  have hnot : ¬ writeLengthOk body = true := by
    rw [writeLengthOk_iff]
    omega
  rcases commandOfBody_cases x kind seq body with h | h | ⟨-, h⟩
  · exact h
  · obtain ⟨h2, h4⟩ := fixedLayouts_not_written _ h
    rcases hwritten with rfl | rfl
    · exact absurd rfl h2
    · exact absurd rfl h4
  · exact absurd h hnot

theorem unknownPacket_level (h : 0x70 ≤ kind.toNat) (h' : kind.toNat ≤ 0x73) :
    unknownPacket x kind seq = .receiveUnknownPacket x none :=
  congrArg (Instr.receiveUnknownPacket x) (if_pos ⟨h, h'⟩)

theorem unknownPacket_sequenced (h : kind.toNat < 0x70 ∨ 0x73 < kind.toNat) :
    unknownPacket x kind seq = .receiveUnknownPacket x (some seq) :=
  congrArg (Instr.receiveUnknownPacket x) (if_neg (by omega))

end

/-! ## Frames of a partner -/

/-- The frame of a packet command, from its kind code, sequence byte and body. -/
theorem frameOfCommand_of_packetOf {c : Instr} {x : Link} {kind seq : Byte} {body : List Byte}
    (h : packetOf c = some (x, kind, seq, body)) :
    frameOfCommand c = some (x, frameBytes kind seq body) := by
  rw [frameOfCommand, h]
  rfl

/-- A well-formed packet command is read back from its frame. -/
theorem commandOfFrame_frameOfCommand {c : Instr} {x : Link} {frame : List Byte}
    (hc : c.wellFormed = true) (h : frameOfCommand c = some (x, frame)) : commandOfFrame x frame = c := by
  obtain ⟨⟨y, kind, seq, body⟩, hp, hframe⟩ := Option.map_eq_some_iff.mp h
  obtain ⟨rfl, rfl⟩ := Prod.mk.inj hframe
  exact (commandOfFrame_frameBytes _ _ _ _ (length_packetOf hc hp)).trans (commandOfBody_packetOf hc hp)

/-! ## Fields of the hub's packets -/

theorem seqByte_eq (n : Seq) : seqByte n = BitVec.ofNat 8 n.toNat := (BitVec.ofNat_toNat 8 n).symm

theorem oneByte_codeOfBool (b : Bool) : oneByte (codeOfBool b) = if b then 1 else 0 := by
  cases b <;> rfl

/-- A presence term is there where its field is (11 section 11.6). -/
theorem codeOfBool_isSome {α : Type} [DecidableEq α] (o : Option α) (k : Nat) :
    k * codeOfBool o.isSome = if o = none then 0 else k := by
  cases o <;> simp [codeOfBool]

theorem presence_eq (a : Alert) : presence a =
    (if a.link = none then 0 else 1) + (if a.addr = none then 0 else 2) +
      (if a.cause = none then 0 else 4) + (if a.value = none then 0 else 8) := by
  rw [← codeOfBool_isSome, ← codeOfBool_isSome, ← codeOfBool_isSome, ← codeOfBool_isSome, Nat.one_mul]
  rfl

/-- The link of an alert; 0 where it has none (11 section 11.6). -/
theorem oneByte_linkCode (o : Option Link) :
    oneByte ((o.map linkCode).getD 0) = if o = some .b then 1 else 0 := by
  rcases o with _ | _ | _ <;> rfl

/-- Settles O60: the reading of a frame by its CRC and its header, and each layout by its kind. -/
theorem framesAreReadBack : Obligations.FramesAreReadBack := by
  have hbytes : (fun n v : Nat => (List.range n).map fun k => BitVec.ofNat 8 (v / 256 ^ (n - 1 - k))) =
      bytesBE := funext fun n => funext fun v => (bytesBE_eq_map n v).symm
  refine ⟨⟨fun c x frame => commandOfFrame_frameOfCommand, fun x payload crc =>
      ⟨commandOfFrame_bad x, fun hcrc => ?_⟩⟩, ⟨rfl, crc16_append⟩, ⟨?_, fun x kind seq body =>
        ⟨fun p => commandOfBody_otherLength, commandOfBody_otherKind, commandOfBody_brokenWrite,
          unknownPacket_level, unknownPacket_sequenced⟩⟩, ?_, ?_, ?_, ?_, ?_, ?_, ?_⟩
  · rw [commandOfFrame_good x hcrc]
    refine ⟨commandOfPayload_short x, fun kind seq h => ?_, fun kind seq len body h => ?_⟩
    · rcases h with rfl | ⟨a, rfl⟩ <;> exact commandOfPayload_headerCut x kind seq (by simp)
    · rw [h, commandOfPayload_header x kind seq _ body len.isLt]
      exact ⟨fun hshort => if_neg (Nat.not_le.mpr hshort), fun hlong => if_pos hlong⟩
  · intro be
    rw [show be = bytesBE from hbytes]
    intro block sends x n tag count m a masks data u v e reads writes sets
    have hsends : ∀ {c kind seq body}, packetOf c = some (x, kind, seq, body) → sends c x kind seq body :=
      frameOfCommand_of_packetOf
    and_intros <;> exact hsends rfl
  · intro be
    rw [show be = bytesBE from hbytes]
    intro byte sends n m tag st blocks k ms v e a r i j seen goes status reply
    have hsends : ∀ {p : HubPacket}, goes p (hubKindCode p) p.body := fun {p} =>
      congrArg (fun b => frameBytes (hubKindCode p) b p.body) (seqByte_eq n)
    have halert : sends (.sequenced n (.alert r)) 0x52 (byte n.toNat) (alertBody r) := hsends
    rw [alertBody, presence_eq, oneByte_linkCode] at halert
    exact ⟨hsends, hsends, hsends, hsends, hsends, hsends, hsends, hsends, halert, hsends,
      congrArg (fun b => frameBytes 0x70 0 [oneByte i, oneByte j, b]) (oneByte_codeOfBool seen),
      congrArg₂ (fun a b => frameBytes 0x71 0 [a, b]) (seqByte_eq n) (seqByte_eq m),
      congrArg₂ (fun a b => frameBytes 0x72 0 [a, b]) (seqByte_eq n) (seqByte_eq m), rfl⟩
  all_goals
    intro code
    cases code <;> decide

end Sys2Proof.Machine
end


section
/-! PROOFS. The queue of commands: the front command of a step, one timebase unit on an empty queue (00 Time), and
that every command is answered and leaves the queue. -/

namespace Sys2Proof.Machine

/-! ## A step -/

theorem step_cons (c : Instr) (rest : List Instr) (s : State) :
    step { s with pending := c :: rest } = exec c { s with pending := rest } := rfl

theorem step_of_empty {s : State} (h : s.pending = []) : step s = .next (tick s) := by
  unfold step; rw [h]

/-- Settles O1: a queue with a front command is the second case of a step. -/
theorem stepRunsFrontCommand : Obligations.StepRunsFrontCommand := step_cons

/-! ## One timebase unit (00 Time; 08 R137; 09 R159) -/

theorem linkOf_tick (s : State) (x : Link) : linkOf (tick s) x = tickLink (linkOf s x) := by
  cases x <;> rfl

theorem targetOf_tick (s : State) (y : Link) : targetOf (tick s) y = tickTarget (targetOf s y) := by
  cases y <;> rfl

/-- Settles O2: the step is a tick, which is read link by link, target by target, and outright in the other
blocks. -/
theorem emptyQueueIsOneTimebaseUnit : Obligations.EmptyQueueIsOneTimebaseUnit := by
  refine ⟨fun n => ⟨rfl, rfl, rfl, rfl, rfl, rfl, rfl, rfl, rfl⟩, fun s h => ?_⟩
  exact ⟨tick s, step_of_empty h, linkOf_tick s, targetOf_tick s, rfl⟩

/-! ## Every command is answered -/

/-- No command ends in a fault or a refusal. -/
theorem exec_answered (c : Instr) (s : State) : ∃ t, exec c s = .next t := by
  rcases exec_cases c s with e | e | ⟨x, e⟩ | ⟨x, e⟩ | rfl
  · exact ⟨_, e⟩
  · exact ⟨_, e⟩
  · exact ⟨_, e⟩
  · exact ⟨_, e⟩
  · exact ⟨_, exec_coldReset s⟩

/-! ## No command touches the queue -/

theorem MgmtChange.pending {x : Link} {s u : State} (h : MgmtChange x s u) : u.pending = s.pending := by
  cases h
  case resets v hv => rcases hv with rfl | rfl <;> simp
  all_goals simp

/-- A management packet keeps the queue on every part of its way. -/
theorem pending_effectOf_mgmt {c : Instr} {x : Link} {seq : Byte} {k : MgmtKind}
    (h : mgmtOf c = some (x, seq, k)) (s : State) : (effectOf c s).pending = s.pending := by
  obtain ⟨eff, e, hch⟩ := effectOf_mgmtOf h
  rw [e]
  exact arriveMgmt_keeps (I := fun u => u.pending = s.pending) rfl (fun u hu => by simpa using hu)
    (fun u hu => by simpa using hu) (fun u hu => by simpa using hu) (fun u hu => by simpa using hu)
    (fun _ d hu => by simpa using hu) (hch s).pending

theorem pending_effectOf (c : Instr) (s : State) : (effectOf c s).pending = s.pending := by
  cases hm : mgmtOf c with
  | some m => exact pending_effectOf_mgmt (x := m.1) (seq := m.2.1) (k := m.2.2) hm s
  | none =>
    cases c
    case coldReset => rfl
    case mgmtRead | mgmtWrite | writeTenureMode | writeRefreshMode | writeForceLevel | writeCueLink |
        writeFilterEnable | writeCreditLimit | writeAlertLink | writeLease | writeCorrThreshold |
        writeOpenLimit | tableRead | tableWrite | tableRevert | tableCommit | claim | release |
        channelStart | channelQuiesce | channelResume | hubReset => cases hm
    case train => simp only [effectOf]; split <;> simp
    all_goals simp [effectOf]

theorem pending_exec {c : Instr} {s t : State} (h : exec c s = .next t) : t.pending = s.pending :=
  exec_keeps (I := fun u => u.pending = s.pending) h rfl (fun _ hu => hu)
    (fun u x hu => by simpa using hu) (fun u x hu => by simpa using hu)
    fun u hu => (pending_effectOf c u).trans hu

/-- Settles O3: a command leaves the state, makes its effect or puts a link in RETRY, and each keeps the queue. -/
theorem everyCommandIsAnswered : Obligations.EveryCommandIsAnswered := by
  intro c s
  obtain ⟨t, h⟩ := exec_answered c s
  exact ⟨t, h, pending_exec h⟩

end Sys2Proof.Machine
end
